-- ==== Sys2Proof/Word.lean ====
section
/-! DEFINITION. The word types of the T48 (00 R9, R13; 02 R50): bit vectors of the widths the manual names. -/

namespace Sys2Proof

/-- A 64-bit scalar register, special register, table word or address. -/
abbrev Word := BitVec 64

/-- One byte of memory. -/
abbrev Byte := BitVec 8

/-- The 2,048 data bytes of a vector register (01 R15, R17). -/
abbrev VData := BitVec 16384

/-- The 64 sidecar bytes of a vector register (01 R20). -/
abbrev VSide := BitVec 512

/-- A mask register, one bit a byte-lane (01 R18). -/
abbrev VMask := BitVec 2048

/-- An accumulator row: 128 columns of 32 bits (06 R189). -/
abbrev AccRow := BitVec 4096

end Sys2Proof
end

