-- ==== Sys2Proof/Config.lean ====
section
/-! DEFINITION. What an implementation fixes, and the values the manual leaves open. A free value has no body: nothing
can be proved of it but what holds of every value. Its first argument is a counter of the state (State.free). -/

namespace Sys2Proof.Config

/-- A byte the manual calls undefined (07 R222, R233, R234; 09 R289): log entries 4 and 5. -/
opaque freeByte : Nat → Nat → Byte

/-- A choice between two outcomes the manual allows (08 R251): log entry 6. -/
opaque freeBit : Nat → Bool

/-- A measured or estimated value (13 R399, R408, R421), and a word of a fault's detail that the manual does not give: log
entry 7. -/
opaque freeWord : Nat → Word

/-- ML-DSA-65 signature by the device identity key, 3,309 bytes (13 R425): log entry 8. -/
opaque identitySign : List Byte → List Byte

/-- The identity public key, 1,952 bytes (13 R425): log entry 8. -/
opaque identityKey : Nat → Byte

/-- The digests of the boot image (0) and of the supervisor firmware (1) (13 R425): log entry 8. -/
opaque imageDigest : Nat → List Byte

/-- Cores of the device (00 R4). -/
def cores : Nat := 288

/-- Cores of a die (00 R4). -/
def coresPerDie : Nat := 144

/-- Scalar pool entries of a core (01 R15). -/
def scalarPool : Nat := 256

/-- Vector pool entries of a core (01 R15). -/
def vectorPool : Nat := 64

/-- Bytes of a scratchpad bank (08 R249). -/
def bankBytes : Nat := 0x40000

/-- Bytes of a scratchpad tile (08 R254). -/
def tileBytes : Nat := 0x2000

/-- Entries of the gated store buffer (01 R15; 04 R137). -/
def gateEntries : Nat := 16

/-- Places of an engine command queue (07 R210). -/
def queuePlaces : Nat := 32

/-- First global address of the register window as the supervisor reaches it (12 R394). -/
def windowBase : Nat := 0xFFFFFFFF000000

/-- Bytes of the register window (12 R394). -/
def windowBytes : Nat := 0x1000000

end Sys2Proof.Config
end

