-- ==== Sys2Proof/Machine/Store.lean ====
section
/-! DEFINITION. Sparse storage as plain data: tables with a default for keys not listed, and byte memory in one
canonical form (08 R249, R259). -/

namespace Sys2Proof.Machine

/-- A table from numbers to values, in rising order of its keys. -/
abbrev Tab (α : Type) := List (Nat × α)

/-- The value listed at a key. -/
def Tab.find? {α : Type} : Tab α → Nat → Option α
  | [], _ => none
  | (k, v) :: t, j => if j = k then some v else Tab.find? t j

/-- The value at a key, d where none is listed. -/
def Tab.get {α : Type} (t : Tab α) (d : α) (j : Nat) : α := (Tab.find? t j).getD d

/-- The table with v at key j. -/
def Tab.set {α : Type} : Tab α → Nat → α → Tab α
  | [], j, v => [(j, v)]
  | (k, w) :: t, j, v =>
    if j = k then (j, v) :: t
    else if j < k then (j, v) :: (k, w) :: t
    else (k, w) :: Tab.set t j v

/-- The table with nothing at key j. -/
def Tab.del {α : Type} (t : Tab α) (j : Nat) : Tab α := t.filter fun p => p.1 != j

/-- Keys strictly rising. -/
def Tab.rising {α : Type} : Tab α → Bool
  | [] => true
  | [_] => true
  | (a, _) :: (b, v) :: t => decide (a < b) && Tab.rising ((b, v) :: t)

/-- Byte memory: the cells that do not hold what an unlisted address reads as. -/
abbrev Mem := List Host.Cell

/-- What an address that nothing has written reads as (log entry 2: DESIGN CHOICE). -/
def memDefault : Byte := 0

/-- The byte at an address. -/
def Mem.read : Mem → Nat → Byte
  | [], _ => memDefault
  | (k, v) :: t, a => if a = k then v else Mem.read t a

/-- The memory with byte b at address a, in canonical form: writing the default unlists the address. -/
def Mem.write : Mem → Nat → Byte → Mem
  | [], a, b => if b = memDefault then [] else [(a, b)]
  | (k, v) :: t, a, b =>
    if a = k then (if b = memDefault then t else (a, b) :: t)
    else if a < k then (if b = memDefault then (k, v) :: t else (a, b) :: (k, v) :: t)
    else (k, v) :: Mem.write t a b

/-- The canonical form: addresses strictly rising and no entry equal to what an unlisted address reads as. -/
def Mem.wfFrom : Nat → Mem → Bool
  | _, [] => true
  | lo, (k, v) :: t => decide (lo ≤ k) && v != memDefault && Mem.wfFrom (k + 1) t

/-- The canonical form of a memory. -/
def Memory.wf (m : Mem) : Bool := Mem.wfFrom 0 m

/-- The n bytes from address a. -/
def Mem.bytes (m : Mem) (a : Nat) : Nat → List Byte
  | 0 => []
  | n + 1 => Mem.read m a :: Mem.bytes m (a + 1) n

/-- The bytes bs written from address a. -/
def Mem.writeBytes (m : Mem) (a : Nat) : List Byte → Mem
  | [] => m
  | b :: bs => Mem.writeBytes (Mem.write m a b) (a + 1) bs

/-- A list of single bytes written in order. -/
def Mem.writeCells (m : Mem) (cs : List Host.Cell) : Mem := cs.foldl (fun m c => Mem.write m c.1 c.2) m

/-- The little-endian number of some bytes (00 R9). -/
def numLE (b : List Byte) : Nat := b.foldr (fun x n => x.toNat + 256 * n) 0

/-- The n bytes of a number, little-endian (00 R9). -/
def bytesLE : Nat → Nat → List Byte
  | 0, _ => []
  | n + 1, v => BitVec.ofNat 8 v :: bytesLE n (v / 256)

/-- Bits hi : lo of a word, as a number (00 R10). -/
def fld (w : Word) (hi lo : Nat) : Nat := w.toNat / 2 ^ lo % 2 ^ (hi + 1 - lo)

/-- One bit of a word. -/
def bit (w : Word) (i : Nat) : Bool := w.getLsbD i

/-- A word with bits hi : lo replaced. -/
def setFld (w : Word) (hi lo v : Nat) : Word :=
  let m : Word := BitVec.ofNat 64 ((2 ^ (hi + 1 - lo) - 1) * 2 ^ lo)
  (w &&& ~~~m) ||| (BitVec.ofNat 64 (v * 2 ^ lo) &&& m)

/-- A word masked to the bits a register has (00 R11). -/
def keepBits (w mask : Word) : Word := w &&& mask

end Sys2Proof.Machine
end

