-- ==== Sys2Proof/Machine/Codec.lean ====
section
/-! DEFINITION. The plane codec of the Cellar and of the link compressor (11 R354 to R356; 12 R381), and how bits of
elements make planes (02 R56). -/

namespace Sys2Proof.Machine

/-- A list cut into pieces of n, at most k of them. -/
def pieces {α : Type} (n : Nat) : Nat → List α → List (List α)
  | 0, _ => []
  | k + 1, l => if l.isEmpty then [] else l.take n :: pieces n k (l.drop n)

/-- Plane k of a group: bit k of element t at byte t div 8, bit t mod 8 (02 R56). -/
def planeBytes (k : Nat) (ys : List Nat) : List Byte :=
  (pieces 8 ys.length ys).map fun b => BitVec.ofNat 8 (b.foldr (fun y n => y / 2 ^ k % 2 + 2 * n) 0)

/-- Equal bytes at the head of a string, at most n of them. -/
def runLen (b : Byte) : Nat → List Byte → Nat
  | 0, _ => 0
  | _, [] => 0
  | n + 1, c :: cs => if c = b then runLen b n cs + 1 else 0

/-- A literal token for the bytes gathered so far (11 R355). -/
def literalToken (lit : List Byte) : List Byte := if lit.isEmpty then [] else BitVec.ofNat 8 (lit.length - 1) :: lit

/-- The greedy tokens of a string; lit holds the literal under way (11 R356). -/
def codeTokens : Nat → List Byte → List Byte → List Byte
  | 0, lit, _ => literalToken lit
  | _, lit, [] => literalToken lit
  | n + 1, lit, b :: bs =>
    let r := runLen b 129 (b :: bs)
    if r ≥ 3 then literalToken lit ++ [BitVec.ofNat 8 (0x7E + r), b] ++ codeTokens n [] ((b :: bs).drop r)
    else
      let lit' := lit ++ [b]
      if lit'.length = 128 then literalToken lit' ++ codeTokens n [] bs else codeTokens n lit' bs

/-- One plane coded (11 R355). -/
def codePlane (p : List Byte) : List Byte :=
  if p.all (· == 0) then [0]
  else if p.all (· == 255) then [1]
  else
    let t := codeTokens p.length [] p
    if t.length < 512 then 2 :: t else 3 :: p

/-- A 4,096-byte block coded: planes 7 down to 0 (11 R355). -/
def codeBlock (bs : List Byte) : List Byte :=
  (List.range 8).flatMap fun j => codePlane (planeBytes (7 - j) (bs.map BitVec.toNat))

/-- A directory word and the stored bytes of a block (11 R354). -/
def storeBlock (raw : Bool) (bs : List Byte) : Nat × List Byte :=
  let c := if raw then [] else codeBlock bs
  if !raw && decide (c.length < 4096) then (c.length, c) else (0x8000 + bs.length, bs)

/-- The stored form of some bytes, block by block (11 R354). -/
def storeBlocks (raw : Bool) (bs : List Byte) : List (Nat × List Byte) := (pieces 4096 bs.length bs).map (storeBlock raw)

/-- Plane bytes from tokens, n still to come, and what follows them (11 R355). -/
def readTokens : Nat → Nat → List Byte → Option (List Byte × List Byte)
  | _, 0, bs => some ([], bs)
  | 0, _, _ => none
  | _, _, [] => none
  | f + 1, n, t :: bs =>
    if t.toNat < 0x80 then
      let k := t.toNat + 1
      if k > n ∨ bs.length < k then none
      else (readTokens f (n - k) (bs.drop k)).map fun r => (bs.take k ++ r.1, r.2)
    else match bs with
      | [] => none
      | b :: bs =>
        let k := t.toNat - 0x7E
        if k > n then none else (readTokens f (n - k) bs).map fun r => (List.replicate k b ++ r.1, r.2)

/-- One coded plane read; none where it is corrupt (11 R355). -/
def readPlane : List Byte → Option (List Byte × List Byte)
  | [] => none
  | c :: bs =>
    match c.toNat with
    | 0 => some (List.replicate 512 0, bs)
    | 1 => some (List.replicate 512 255, bs)
    | 2 => readTokens 512 512 bs
    | 3 => if bs.length < 512 then none else some (bs.take 512, bs.drop 512)
    | _ => none

/-- Some coded planes read, in order. -/
def readPlanes : Nat → List Byte → Option (List (List Byte) × List Byte)
  | 0, bs => some ([], bs)
  | n + 1, bs =>
    match readPlane bs with
    | none => none
    | some (p, rest) => (readPlanes n rest).map fun r => (p :: r.1, r.2)

/-- Bytes 8m to 8m + 7 of a block from byte m of its planes 7 down to 0 (11 R355). -/
def joinPlanes (ps : List Nat) : List Byte :=
  (List.range 8).map fun n => BitVec.ofNat 8 (ps.foldl (fun v p => 2 * v + p / 2 ^ n % 2) 0)

/-- A stored block read; none where it is corrupt (11 R354, R355). -/
def readBlock (b : Nat × List Byte) : Option (List Byte) :=
  if b.1 / 0x8000 % 2 = 1 then some b.2
  else match readPlanes 8 b.2 with
    | some (ps, []) =>
      some ((List.range 512).flatMap fun m => joinPlanes (ps.map fun p => (p.getD m 0).toNat))
    | _ => none

/-- Stored blocks read. -/
def readBlocks (bs : List (Nat × List Byte)) : Option (List Byte) := (bs.mapM readBlock).map List.flatten

/-- The stored form of blocks: the directory of their words, then the blocks (11 R354). -/
def storedBytes (bs : List (Nat × List Byte)) : List Byte :=
  (bs.flatMap fun b => bytesLE 2 b.1) ++ bs.flatMap Prod.snd

/-- Blocks cut out of the bytes behind a directory, by the lengths of its words (11 R354). -/
def splitBlocks : List Nat → List Byte → List (Nat × List Byte)
  | [], _ => []
  | w :: ws, bs => (w, bs.take (w % 8192)) :: splitBlocks ws (bs.drop (w % 8192))

/-- The bytes that a stored form of n blocks holds; none where a block is corrupt (11 R354, R359). -/
def readStored (n : Nat) (bs : List Byte) : Option (List Byte) :=
  readBlocks (splitBlocks ((pieces 2 n bs).map numLE) (bs.drop (2 * n)))

/-- A message's data as a link carries them compressed: packets of 4 KiB, each behind its directory word; a shorter
last packet is raw (12 R381). -/
def packData (bs : List Byte) : List Byte :=
  (pieces 4096 bs.length bs).flatMap fun p =>
    let b := storeBlock (decide (p.length < 4096)) p
    bytesLE 2 b.1 ++ b.2

/-- Compressed data read back; none where a packet is corrupt (12 R381). -/
def unpackData : Nat → List Byte → Option (List Byte)
  | _, [] => some []
  | 0, _ => none
  | n + 1, bs =>
    let w := numLE (bs.take 2)
    let len := w % 8192
    let body := bs.drop 2
    if bs.length < 2 ∨ len = 0 ∨ body.length < len then none
    else match readBlock (w, body.take len), unpackData n (body.drop len) with
      | some a, some r => some (a ++ r)
      | _, _ => none

end Sys2Proof.Machine
end

