-- ==== Sys2Proof/Machine/Keccak.lean ====
section
/-! DEFINITION. SHAKE256, the digest of attestation reports (13 R424, R425): the sponge of FIPS 202 over Keccak-f[1600], with
its rate of 136 bytes. The manual names the function; its definition is the public standard's (PRESUMED, log entry 8). -/

namespace Sys2Proof.Machine

/-- Lane i of a state of 25 lanes: column i mod 5 of row i div 5. -/
def lane (a : List Word) (i : Nat) : Word := a.getD i 0

/-- Rotation of each lane, by its place. -/
def keccakRot : List Nat :=
  [0, 1, 62, 28, 27, 36, 44, 6, 55, 20, 3, 10, 43, 25, 39, 41, 45, 15, 21, 8, 18, 2, 61, 56, 14]

/-- The constant of each round. -/
def keccakRounds : List Word :=
  [0x0000000000000001#64, 0x0000000000008082#64, 0x800000000000808A#64, 0x8000000080008000#64, 0x000000000000808B#64,
    0x0000000080000001#64, 0x8000000080008081#64, 0x8000000000008009#64, 0x000000000000008A#64, 0x0000000000000088#64,
    0x0000000080008009#64, 0x000000008000000A#64] ++
  [0x000000008000808B#64, 0x800000000000008B#64, 0x8000000000008089#64, 0x8000000000008003#64, 0x8000000000008002#64,
    0x8000000000000080#64, 0x000000000000800A#64, 0x800000008000000A#64, 0x8000000080008081#64, 0x8000000000008080#64,
    0x0000000080000001#64, 0x8000000080008008#64]

/-- The first step of a round: each column takes the parities of its neighbours. -/
def keccakTheta (a : List Word) : List Word :=
  let c := (List.range 5).map fun x => lane a x ^^^ lane a (x + 5) ^^^ lane a (x + 10) ^^^ lane a (x + 15) ^^^ lane a (x + 20)
  (List.range 25).map fun i => lane a i ^^^ lane c ((i + 4) % 5) ^^^ (lane c ((i + 1) % 5)).rotateLeft 1

/-- The lanes rotated and moved to their new places. -/
def keccakMove (a : List Word) : List Word :=
  (List.range 25).map fun j =>
    let i := (j % 5 + 3 * (j / 5)) % 5 + 5 * (j % 5)
    (lane a i).rotateLeft (keccakRot.getD i 0)

/-- The rows mixed. -/
def keccakChi (b : List Word) : List Word :=
  (List.range 25).map fun i =>
    lane b i ^^^ (~~~(lane b (i / 5 * 5 + (i + 1) % 5)) &&& lane b (i / 5 * 5 + (i + 2) % 5))

/-- One round with its constant. -/
def keccakRound (a : List Word) (rc : Word) : List Word :=
  match keccakChi (keccakMove (keccakTheta a)) with
  | [] => []
  | w :: ws => (w ^^^ rc) :: ws

/-- The 24 rounds. -/
def keccakF (a : List Word) : List Word := keccakRounds.foldl keccakRound a

/-- Bytes padded to whole blocks of 136. -/
def shakePad (bs : List Byte) : List Byte :=
  let n := 136 - bs.length % 136
  bs ++ if n = 1 then [0x9F#8] else 0x1F#8 :: (List.replicate (n - 2) 0#8 ++ [0x80#8])

/-- A block put into the state. -/
def shakeAbsorb (a : List Word) (block : List Byte) : List Word :=
  let ws := (pieces 8 17 block).map fun b => BitVec.ofNat 64 (numLE b)
  keccakF ((List.range 25).map fun i => lane a i ^^^ lane ws i)

/-- SHAKE256 of some bytes, 64 bytes of output. -/
def shake256 (bs : List Byte) : List Byte :=
  let p := shakePad bs
  (((pieces 136 p.length p).foldl shakeAbsorb (List.replicate 25 0)).take 8).flatMap fun w => bytesLE 8 w.toNat

end Sys2Proof.Machine
end

