-- ==== Sys2Proof/Machine/Cause.lean ====
section
/-! DEFINITION. The 64 trap and fault causes, their codes (10 R315), their groups (01 R37) and the rank in which
pending traps are taken (10 R314). -/

namespace Sys2Proof.Machine

/-- The trap and fault causes (10 R315). -/
inductive Cause where
  /-- 0x00 BREAK: `trap`, after commit (R244). -/
  | brk
  /-- 0x01 ILLEGAL_OPCODE: Slot, check 2 or 4. -/
  | illegalOpcode
  /-- 0x02 SLOT_ILLEGAL: Slot, check 3. -/
  | slotIllegal
  /-- 0x03 HEADER_MISPLACED: Slot, check 1. -/
  | headerMisplaced
  /-- 0x04 REG_ALLOT: Slot, check 7. -/
  | regAllot
  /-- 0x05 PRIVILEGE: Slot, check 9. -/
  | privilege
  /-- 0x06 LANDING: Slot. -/
  | landing
  /-- 0x07 JTAB_BOUND: Slot. -/
  | jtabBound
  /-- 0x08 STALL_UNDERSIZED: Slot, check 8. -/
  | stallUndersized
  /-- 0x09 DELAY_SLOT: Slot, check 6. -/
  | delaySlot
  /-- 0x0A GATE_OVERFLOW: Slot. -/
  | gateOverflow
  /-- 0x0B ALIGN: Slot. -/
  | align
  /-- 0x0C EXT_UNUSED: Slot, check 5. -/
  | extUnused
  /-- 0x0D CSR_UNDEFINED: Slot. -/
  | csrUndefined
  /-- 0x0E STEP: No slot (R334). -/
  | step
  /-- 0x0F BREAKPOINT: No slot (R334). -/
  | breakpoint
  /-- 0x10 SP_RANGE: Slot. -/
  | spRange
  /-- 0x11 OWNER: Slot. -/
  | owner
  /-- 0x12 BANK_FORMAT: Slot. -/
  | bankFormat
  /-- 0x13 PAGE_NOT_PRESENT: Slot; fetch (R134); fill (R256). -/
  | pageNotPresent
  /-- 0x14 PAGE_PROTECTION: As 0x13. -/
  | pageProtection
  /-- 0x15 HOST_OWNED: Slot; fill. -/
  | hostOwned
  /-- 0x16 POISON: Slot; fetch; fill. -/
  | poison
  /-- 0x17 REGION_CONFLICT: Slot. -/
  | regionConflict
  /-- 0x18 REGION_UNMAPPED: Slot. -/
  | regionUnmapped
  /-- 0x19 FREEZE_TIMEOUT: No slot (R326, R327). -/
  | freezeTimeout
  /-- 0x1A ATOMIC_TARGET: Slot. -/
  | atomicTarget
  /-- 0x1B MIGRATION_FAILED: Slot; fill. -/
  | migrationFailed
  /-- 0x1C GLOBAL_RANGE: Slot. -/
  | globalRange
  /-- 0x1D VINTAGE: Slot. -/
  | vintage
  /-- 0x1E VIEW_ALIGN: No slot (R335). -/
  | viewAlign
  /-- 0x1F TLB_CONFLICT: No slot (R324). -/
  | tlbConflict
  /-- 0x20 CONVERT_OVERFLOW: Slot. -/
  | convertOverflow
  /-- 0x21 SCALE_INVALID: Engine (R234). -/
  | scaleInvalid
  /-- 0x22 SCALE_UNDERFLOW: Engine. -/
  | scaleUnderflow
  /-- 0x23 ANCHOR_OVERFLOW: Engine. -/
  | anchorOverflow
  /-- 0x24 ANCHOR_MISMATCH: Slot (`vblk.anc`); engine. -/
  | anchorMismatch
  /-- 0x25 MATRIX_MODE: Slot. -/
  | matrixMode
  /-- 0x26 MATRIX_STATE: Slot. -/
  | matrixState
  /-- 0x27 ACC_SATURATE: No slot (R198). -/
  | accSaturate
  /-- 0x28 RING_STATE: Slot; no slot (R239). -/
  | ringState
  /-- 0x29 ENGINE_FAULT: Slot at issue; engine. -/
  | engineFault
  /-- 0x2A COPY_SHAPE: Slot; engine. -/
  | copyShape
  /-- 0x2B CHANNEL_MISMATCH: Slot; engine; `barx`. -/
  | channelMismatch
  /-- 0x2C CHANNEL_ABORT: Engine. -/
  | channelAbort
  /-- 0x2D TRIGGER_TABLE: Slot; engine. -/
  | triggerTable
  /-- 0x2E CELLAR_MISS: Engine. -/
  | cellarMiss
  /-- 0x2F CELLAR_CAPACITY: Engine. -/
  | cellarCapacity
  /-- 0x30 SYNC_TIMEOUT: No slot (R241). -/
  | syncTimeout
  /-- 0x31 BARRIER_TIMEOUT: No slot (R242). -/
  | barrierTimeout
  /-- 0x32 PREEMPT: No slot (R336). -/
  | preempt
  /-- 0x33 QUANTUM: No slot (R295). -/
  | quantum
  /-- 0x34 ENERGY_EXHAUSTED: No slot (R296). -/
  | energyExhausted
  /-- 0x35 THERMAL_HOT: No slot. -/
  | thermalHot
  /-- 0x36 COOLANT_DRY: No slot. -/
  | coolantDry
  /-- 0x37 COOLANT_FLOW: No slot. -/
  | coolantFlow
  /-- 0x38 MC_DATA: No slot. -/
  | mcData
  /-- 0x39 MC_LOGIC: No slot. -/
  | mcLogic
  /-- 0x3A RETRY_BUDGET: No slot (R323). -/
  | retryBudget
  /-- 0x3B LINK_DOWN: No slot. -/
  | linkDown
  /-- 0x3C HOST_EVENT: No slot (R333). -/
  | hostEvent
  /-- 0x3D TIMER: No slot (R333). -/
  | timer
  /-- 0x3E YOKE_IMBALANCE: No slot. -/
  | yokeImbalance
  /-- 0x3F CORE_HUNG: No slot (R328). -/
  | coreHung
deriving DecidableEq, Repr

/-- The 6-bit code of a cause (10 R315). -/
def Cause.code : Cause → BitVec 6
  | .brk => 0
  | .illegalOpcode => 1
  | .slotIllegal => 2
  | .headerMisplaced => 3
  | .regAllot => 4
  | .privilege => 5
  | .landing => 6
  | .jtabBound => 7
  | .stallUndersized => 8
  | .delaySlot => 9
  | .gateOverflow => 10
  | .align => 11
  | .extUnused => 12
  | .csrUndefined => 13
  | .step => 14
  | .breakpoint => 15
  | .spRange => 16
  | .owner => 17
  | .bankFormat => 18
  | .pageNotPresent => 19
  | .pageProtection => 20
  | .hostOwned => 21
  | .poison => 22
  | .regionConflict => 23
  | .regionUnmapped => 24
  | .freezeTimeout => 25
  | .atomicTarget => 26
  | .migrationFailed => 27
  | .globalRange => 28
  | .vintage => 29
  | .viewAlign => 30
  | .tlbConflict => 31
  | .convertOverflow => 32
  | .scaleInvalid => 33
  | .scaleUnderflow => 34
  | .anchorOverflow => 35
  | .anchorMismatch => 36
  | .matrixMode => 37
  | .matrixState => 38
  | .accSaturate => 39
  | .ringState => 40
  | .engineFault => 41
  | .copyShape => 42
  | .channelMismatch => 43
  | .channelAbort => 44
  | .triggerTable => 45
  | .cellarMiss => 46
  | .cellarCapacity => 47
  | .syncTimeout => 48
  | .barrierTimeout => 49
  | .preempt => 50
  | .quantum => 51
  | .energyExhausted => 52
  | .thermalHot => 53
  | .coolantDry => 54
  | .coolantFlow => 55
  | .mcData => 56
  | .mcLogic => 57
  | .retryBudget => 58
  | .linkDown => 59
  | .hostEvent => 60
  | .timer => 61
  | .yokeImbalance => 62
  | .coreHung => 63

/-- The cause with a code; every 6-bit code is defined (00 R2). -/
def Cause.ofCode (c : BitVec 6) : Cause :=
  match c.toNat with
  | 0 => .brk
  | 1 => .illegalOpcode
  | 2 => .slotIllegal
  | 3 => .headerMisplaced
  | 4 => .regAllot
  | 5 => .privilege
  | 6 => .landing
  | 7 => .jtabBound
  | 8 => .stallUndersized
  | 9 => .delaySlot
  | 10 => .gateOverflow
  | 11 => .align
  | 12 => .extUnused
  | 13 => .csrUndefined
  | 14 => .step
  | 15 => .breakpoint
  | 16 => .spRange
  | 17 => .owner
  | 18 => .bankFormat
  | 19 => .pageNotPresent
  | 20 => .pageProtection
  | 21 => .hostOwned
  | 22 => .poison
  | 23 => .regionConflict
  | 24 => .regionUnmapped
  | 25 => .freezeTimeout
  | 26 => .atomicTarget
  | 27 => .migrationFailed
  | 28 => .globalRange
  | 29 => .vintage
  | 30 => .viewAlign
  | 31 => .tlbConflict
  | 32 => .convertOverflow
  | 33 => .scaleInvalid
  | 34 => .scaleUnderflow
  | 35 => .anchorOverflow
  | 36 => .anchorMismatch
  | 37 => .matrixMode
  | 38 => .matrixState
  | 39 => .accSaturate
  | 40 => .ringState
  | 41 => .engineFault
  | 42 => .copyShape
  | 43 => .channelMismatch
  | 44 => .channelAbort
  | 45 => .triggerTable
  | 46 => .cellarMiss
  | 47 => .cellarCapacity
  | 48 => .syncTimeout
  | 49 => .barrierTimeout
  | 50 => .preempt
  | 51 => .quantum
  | 52 => .energyExhausted
  | 53 => .thermalHot
  | 54 => .coolantDry
  | 55 => .coolantFlow
  | 56 => .mcData
  | 57 => .mcLogic
  | 58 => .retryBudget
  | 59 => .linkDown
  | 60 => .hostEvent
  | 61 => .timer
  | 62 => .yokeImbalance
  | _ => .coreHung

/-- The cause group g of a code (01 R37): 0x00 to 0x0F, 0x10 to 0x1F, then four groups of eight. -/
def causeGroup (code : BitVec 6) : Nat :=
  if code.toNat < 0x10 then 0 else if code.toNat < 0x20 then 1 else (code.toNat - 0x20) / 8 + 2

/-- The rank at which a pending trap raised by no slot is taken (10 R314); causes the table does not list come last. -/
def Cause.rank : Cause → Nat
  | .mcData | .mcLogic | .coreHung => 1
  | .brk => 2
  | .freezeTimeout => 3
  | .scaleInvalid | .scaleUnderflow | .anchorOverflow | .anchorMismatch | .engineFault | .copyShape
  | .channelMismatch | .channelAbort | .triggerTable | .cellarMiss | .cellarCapacity => 4
  | .accSaturate | .retryBudget | .tlbConflict | .viewAlign => 5
  | .step => 6
  | .syncTimeout | .barrierTimeout | .linkDown | .ringState => 7
  | .quantum | .energyExhausted | .preempt => 8
  | .thermalHot | .coolantDry | .coolantFlow | .yokeImbalance => 9
  | .timer | .hostEvent => 10
  | .breakpoint => 11
  | _ => 12

/-- The causes that are taken even in a handler and for which the context is rolled back (10 R311, R312). -/
def Cause.isMachineCheck : Cause → Bool
  | .mcData | .mcLogic | .coreHung => true
  | _ => false

end Sys2Proof.Machine
end

