-- ==== Sys2Proof/Syntax.lean ====
section
/-! DEFINITION. The syntax of the T48: one constructor of Instr for each row of the table of operations and
events (opcode_table.json). The first 195 rows are slot operations, decoded from 32-bit slots (03 R94 to R101);
the others are the part's events (95_what_each_step_holds.md), which no word encodes and which carry as
arguments what the outside world or an engine supplies. -/

namespace Sys2Proof

/-- A scalar register name s0 to s63; s63 is lr (00 R12). -/
abbrev SReg := BitVec 6

/-- Element types of the 3-bit TYPE field (03 R97, codes 0 to 7). -/
inductive VType where
  | i32 | i16 | i8 | n32 | n16 | n8 | f32 | bf16
deriving DecidableEq, Repr

/-- Element types of the 4-bit type fields (03 R97, codes 0 to 13; 14 and 15 are reserved). -/
inductive EType where
  | i32 | i16 | i8 | n32 | n16 | n8 | f32 | bf16 | e4m3 | e5m2 | e8m0 | pni | anc64 | raw
deriving DecidableEq, Repr

/-- Scopes of ordering (03 R95; 08 R266). -/
inductive Scope where
  | ctx | core | gang | device | system
deriving DecidableEq, Repr

/-- WIDTH of a MEM slot: bytes, halves, words, doubles (03 R95); of vins and vext: 32, 16, 8 and 64 bits (R96). -/
inductive Width where
  | w0 | w1 | w2 | w3
deriving DecidableEq, Repr

/-- WIDTH of a VPERM slot: 32-, 16- and 8-bit elements (03 R96). -/
inductive ElemW where
  | w32 | w16 | w8
deriving DecidableEq, Repr

/-- Branch conditions (04 R124). -/
inductive Cond where
  | eq | ne | lt | ge | ltn | gen | bs | bc
deriving DecidableEq, Repr

/-- Operand modes of the matrix array (03 R96; 06 R191). -/
inductive MatMode where
  | bf16 | e4m3 | e5m2 | i8 | i4 | pni
deriving DecidableEq, Repr

/-- A fabric message (12 R372, R373): the header's fields, the descriptor's fields and the data bytes. FromAddr and len are
what a get request or a host request asks for (12 R385, R397); op ties an answer to what awaits it; cause, reason and detail
are what an acknowledgement says of a fault. The manual gives these last no place in a flit (log entry 76). Via is the port of this
device that the message has come by, which its flits do not hold: none for one of the device's own. -/
structure Msg where
  kind : BitVec 4
  dst : BitVec 16
  src : BitVec 16
  route : BitVec 2
  hops : BitVec 4
  det : Bool
  dirn : Bool
  ch : BitVec 8
  seq : BitVec 16
  rcen : Bool
  rctr : BitVec 10
  runit : Bool
  accop : BitVec 3
  rdie : Bool
  tag : BitVec 16
  slots : Nat
  sbytes : Nat
  format : BitVec 4
  word1 : Word
  fromAddr : Word
  len : Nat
  op : Nat
  cause : BitVec 6
  reason : BitVec 6
  detail : Word
  comp : Bool
  data : List Byte
  via : Option (BitVec 3)
deriving DecidableEq, Repr

/-- An uncorrectable error as it is detected (10 R321), with what R317 records of it, and the port whose
link error lost a reply. -/
structure DetErr where
  source : BitVec 4
  port : Option (BitVec 3)
  detail : BitVec 56
deriving DecidableEq, Repr

/-- A matrix beat that failed its check (06 R207): the physical row, whether the error was an ECC error, whether
the second execution succeeded, and whether the beat was issued after the holder's latest mark. -/
structure BeatFail where
  row : BitVec 8
  ecc : Bool
  retryOk : Bool
  afterMark : Bool
deriving DecidableEq, Repr

/-- A place in the register window that is written, and whether the host writes it or the device's supervisor (12 R394). -/
structure WinPlace where
  offset : Nat
  host : Bool
deriving DecidableEq, Repr

/-- The read of a launch queue's head record, and the byte of it, if any, whose read met an uncorrectable error twice (09 R281;
10 R322). -/
structure HeadRead where
  queue : Nat
  bad : Option Nat
deriving DecidableEq, Repr

/-- A host access to the register window (12 R394): its offset, and the word written if it is a write. -/
structure WinAccess where
  offset : Nat
  write : Option Word
  wide : Bool
deriving DecidableEq, Repr

/-- Where a device reset has come to (13 R424). -/
inductive BootStage where
  | reset | verify (ok : Bool) | tables | training | ready
deriving DecidableEq, Repr

/-- The operations and events of the T48, one constructor for each row of the table. -/
inductive Instr where
  /-- NOP (R82). An all-zero slot reads and writes nothing in any slot. -/
  | nop
  /-- ADD (R112). d := a + b, wrapping, with an optional 32-bit W form. -/
  | add (d : SReg) (a : SReg) (b : SReg) (w : Bool)
  /-- SUB (R112). d := a - b, wrapping, with an optional W form. -/
  | sub (d : SReg) (a : SReg) (b : SReg) (w : Bool)
  /-- AND (R112). d := a AND b. -/
  | and (d : SReg) (a : SReg) (b : SReg)
  /-- OR (R112). d := a OR b. -/
  | or (d : SReg) (a : SReg) (b : SReg)
  /-- XOR (R112). d := a XOR b. -/
  | xor (d : SReg) (a : SReg) (b : SReg)
  /-- ANDN (R112). d := a AND NOT b. -/
  | andn (d : SReg) (a : SReg) (b : SReg)
  /-- ORN (R112). d := a OR NOT b. -/
  | orn (d : SReg) (a : SReg) (b : SReg)
  /-- SHL (R112). d := a shifted left by b<5:0>, with an optional W form. -/
  | shl (d : SReg) (a : SReg) (b : SReg) (w : Bool)
  /-- SHR (R112). d := a shifted right logically by b<5:0>, with an optional W form. -/
  | shr (d : SReg) (a : SReg) (b : SReg) (w : Bool)
  /-- SRA (R112). d := a shifted right arithmetically by b<5:0>, with an optional W form. -/
  | sra (d : SReg) (a : SReg) (b : SReg) (w : Bool)
  /-- ROT (R112). d := a rotated right by b<5:0>. -/
  | rot (d : SReg) (a : SReg) (b : SReg)
  /-- SLT (R112). d := 1 if a < b signed, else 0. -/
  | slt (d : SReg) (a : SReg) (b : SReg)
  /-- SLTN (R112). d := 1 if a < b natural, else 0. -/
  | sltn (d : SReg) (a : SReg) (b : SReg)
  /-- SEQ (R112). d := 1 if a = b, else 0. -/
  | seq (d : SReg) (a : SReg) (b : SReg)
  /-- MIN (R112). d := the signed lesser of a and b. -/
  | min (d : SReg) (a : SReg) (b : SReg)
  /-- MAX (R112). d := the signed greater of a and b. -/
  | max (d : SReg) (a : SReg) (b : SReg)
  /-- MINN (R112). d := the natural lesser of a and b. -/
  | minn (d : SReg) (a : SReg) (b : SReg)
  /-- MAXN (R112). d := the natural greater of a and b. -/
  | maxn (d : SReg) (a : SReg) (b : SReg)
  /-- MUL (R112). d := the low 64 bits of a × b, with an optional W form. -/
  | mul (d : SReg) (a : SReg) (b : SReg) (w : Bool)
  /-- MULH (R112). d := the high 64 bits of the signed 128-bit product. -/
  | mulh (d : SReg) (a : SReg) (b : SReg)
  /-- MULHN (R112). d := the high 64 bits of the natural 128-bit product. -/
  | mulhn (d : SReg) (a : SReg) (b : SReg)
  /-- DIV (R113). d := the signed quotient truncated toward zero, never trapping. -/
  | div (d : SReg) (a : SReg) (b : SReg) (w : Bool)
  /-- DIVN (R113). d := the natural quotient, never trapping. -/
  | divn (d : SReg) (a : SReg) (b : SReg) (w : Bool)
  /-- REM (R113). d := the signed remainder, with the sign of a. -/
  | rem (d : SReg) (a : SReg) (b : SReg) (w : Bool)
  /-- REMN (R113). d := the natural remainder. -/
  | remn (d : SReg) (a : SReg) (b : SReg) (w : Bool)
  /-- CLZ (R112). d := the count of leading zero bits of a. -/
  | clz (d : SReg) (a : SReg)
  /-- CTZ (R112). d := the count of trailing zero bits of a. -/
  | ctz (d : SReg) (a : SReg)
  /-- POPC (R112). d := the count of one bits of a. -/
  | popc (d : SReg) (a : SReg)
  /-- BSWAP (R112). d := a with its eight bytes reversed. -/
  | bswap (d : SReg) (a : SReg)
  /-- SEL (R114). d := b if a is nonzero, otherwise the old d. -/
  | sel (d : SReg) (a : SReg) (b : SReg)
  /-- ADDI (R115). d := a + imm. -/
  | addi (d : SReg) (a : SReg) (i : BitVec 14)
  /-- ANDI (R115). d := a AND imm. -/
  | andi (d : SReg) (a : SReg) (i : BitVec 14)
  /-- ORI (R115). d := a OR imm. -/
  | ori (d : SReg) (a : SReg) (i : BitVec 14)
  /-- XORI (R115). d := a XOR imm. -/
  | xori (d : SReg) (a : SReg) (i : BitVec 14)
  /-- SLTI (R115). d := 1 if a < imm signed, else 0. -/
  | slti (d : SReg) (a : SReg) (i : BitVec 14)
  /-- SLTNI (R115). d := 1 if a < the sign-extended imm natural, else 0. -/
  | sltni (d : SReg) (a : SReg) (i : BitVec 14)
  /-- SHLI (R116). d := a shifted left by the field amount. -/
  | shli (d : SReg) (a : SReg) (w : Bool) (n : BitVec 6)
  /-- SHRI (R116). d := a shifted right logically by the field amount. -/
  | shri (d : SReg) (a : SReg) (w : Bool) (n : BitVec 6)
  /-- SRAI (R116). d := a shifted right arithmetically by the field amount. -/
  | srai (d : SReg) (a : SReg) (w : Bool) (n : BitVec 6)
  /-- ROTI (R116). d := a rotated right by the field amount. -/
  | roti (d : SReg) (a : SReg) (w : Bool) (n : BitVec 6)
  /-- LI (R117). d := the sign-extended immediate. -/
  | li (d : SReg) (i : BitVec 20)
  /-- LIH (R117). d := (d << 20) OR the zero-extended 20-bit immediate. -/
  | lih (d : SReg) (i : BitVec 20)
  /-- LEA (R118). d := a + (b << SC) + imm. -/
  | lea (d : SReg) (a : SReg) (b : SReg) (s : BitVec 2) (i : BitVec 6)
  /-- EXTF (R119). d := the sign-extended bit field of a. -/
  | extf (d : SReg) (a : SReg) (p : BitVec 6) (l : BitVec 6)
  /-- EXTFN (R119). d := the zero-extended bit field of a. -/
  | extfn (d : SReg) (a : SReg) (p : BitVec 6) (l : BitVec 6)
  /-- INSF (R119). Inserts the low bits of a into a bit field of d. -/
  | insf (d : SReg) (a : SReg) (p : BitVec 6) (l : BitVec 6)
  /-- WIDF (R120). d := field k of WID, zero-extended. -/
  | widf (d : SReg) (f : BitVec 3)
  /-- CSRR (R121). Reads a special register into d. -/
  | csrr (d : SReg) (n : BitVec 12)
  /-- CSRW (R121). Writes a to a special register and returns the old value in d. -/
  | csrw (d : SReg) (a : SReg) (n : BitVec 12)
  /-- CSRS (R121). Sets the bits of a in a special register and returns the old value. -/
  | csrs (d : SReg) (a : SReg) (n : BitVec 12)
  /-- CSRC (R121). Clears the bits of a in a special register and returns the old value. -/
  | csrc (d : SReg) (a : SReg) (n : BitVec 12)
  /-- BR (R125). A conditional branch whose two delay slots always execute. -/
  | br (c : Cond) (a : SReg) (b : SReg) (i : BitVec 11)
  /-- BRL (R125). A conditional branch whose delay slots are nullified when it is not taken. -/
  | brl (c : Cond) (a : SReg) (b : SReg) (i : BitVec 11)
  /-- BRU (R125). A conditional branch whose delay slots are nullified when it is taken. -/
  | bru (c : Cond) (a : SReg) (b : SReg) (i : BitVec 11)
  /-- J (R126). An unconditional PC-relative jump with two delay slots. -/
  | j (i : BitVec 26)
  /-- JL (R126). An unconditional PC-relative jump that writes lr := B + 48. -/
  | jl (i : BitVec 26)
  /-- JR (R128). A jump to the address in a, checked for a landing pad. -/
  | jr (a : SReg) (p : BitVec 12)
  /-- JLR (R128). A register jump with a landing-pad check that writes lr. -/
  | jlr (a : SReg) (p : BitVec 12)
  /-- RET (R128). A jump to the address in lr. -/
  | ret
  /-- JTAB (R129). A bounded indirect jump through a table of 8-byte entries in global memory. -/
  | jtab (i : SReg) (t : SReg) (b : SReg) (p : BitVec 8)
  /-- LAND (R130). Marks its bundle as a permitted register-jump target with a pad. -/
  | land (p : BitVec 12)
  /-- SYNC (R240). Blocks the context until the gang's wired-AND sync line releases. -/
  | sync
  /-- BARX (R242). Sends a barrier arrival on a channel's collective group and blocks until release. -/
  | barx (c : BitVec 8)
  /-- TRAP (R244). Commits and then traps BREAK with EINFO n. -/
  | trap (i : BitVec 16)
  /-- ERET (R245). Returns from a handler and restores the queue, DC and privilege. -/
  | eret
  /-- IDLE (R246). Blocks the context until an asynchronous trap is pending. -/
  | idle
  /-- END (R247). Publishes stores, waits for the context's engine commands, and retires the context. -/
  | endTask
  /-- YIELD (R248). Ends the context's turn while it stays ready. -/
  | yield
  /-- DRAIN (R243). Blocks until every published access of the context is performed at the scope. -/
  | drain (s : Scope)
  /-- LD (R136). Loads from the scratchpad view. -/
  | ld (r : SReg) (b : SReg) (w : Width) (n : Bool) (o : BitVec 11)
  /-- ST (R136). Stores to the scratchpad view through the gated store buffer. -/
  | st (r : SReg) (b : SReg) (w : Width) (o : BitVec 11)
  /-- LDG (R138). Loads from global virtual memory. -/
  | ldg (r : SReg) (b : SReg) (w : Width) (n : Bool) (o : BitVec 11)
  /-- STG (R138). Stores to global virtual memory through the gated store buffer. -/
  | stg (r : SReg) (b : SReg) (w : Width) (o : BitVec 11)
  /-- LDA (R139). A global load with acquire semantics at system scope. -/
  | lda (r : SReg) (b : SReg) (w : Width) (n : Bool) (o : BitVec 11)
  /-- STR (R140). A release store at system scope whose bundle is a restart mark. -/
  | str (r : SReg) (b : SReg) (w : Width) (o : BitVec 11)
  /-- AMO_ADD (R141). Atomic add to a global word that returns the old value. -/
  | amoAdd (d : SReg) (b : SReg) (w : Bool) (q : Bool) (e : Bool) (s : Scope)
  /-- AMO_AND (R141). Atomic AND to a global word. -/
  | amoAnd (d : SReg) (b : SReg) (w : Bool) (q : Bool) (e : Bool) (s : Scope)
  /-- AMO_OR (R141). Atomic OR to a global word. -/
  | amoOr (d : SReg) (b : SReg) (w : Bool) (q : Bool) (e : Bool) (s : Scope)
  /-- AMO_XOR (R141). Atomic XOR to a global word. -/
  | amoXor (d : SReg) (b : SReg) (w : Bool) (q : Bool) (e : Bool) (s : Scope)
  /-- AMO_MIN (R141). Atomic signed minimum. -/
  | amoMin (d : SReg) (b : SReg) (w : Bool) (q : Bool) (e : Bool) (s : Scope)
  /-- AMO_MAX (R141). Atomic signed maximum. -/
  | amoMax (d : SReg) (b : SReg) (w : Bool) (q : Bool) (e : Bool) (s : Scope)
  /-- AMO_MINN (R141). Atomic natural minimum. -/
  | amoMinn (d : SReg) (b : SReg) (w : Bool) (q : Bool) (e : Bool) (s : Scope)
  /-- AMO_MAXN (R141). Atomic natural maximum. -/
  | amoMaxn (d : SReg) (b : SReg) (w : Bool) (q : Bool) (e : Bool) (s : Scope)
  /-- AMO_SWP (R141). Atomic swap. -/
  | amoSwp (d : SReg) (b : SReg) (w : Bool) (q : Bool) (e : Bool) (s : Scope)
  /-- CAS (R142). Compare-and-swap on a global word that returns the old value. -/
  | cas (d : SReg) (b : SReg) (c : SReg) (w : Bool) (q : Bool) (e : Bool) (s : Scope)
  /-- VADD (R153). Elementwise vector add. -/
  | vadd (d : BitVec 5) (a : BitVec 5) (b : BitVec 5) (m : BitVec 3) (t : VType)
  /-- VSUB (R153). Elementwise vector subtract. -/
  | vsub (d : BitVec 5) (a : BitVec 5) (b : BitVec 5) (m : BitVec 3) (t : VType)
  /-- VMUL (R153). Elementwise vector multiply. -/
  | vmul (d : BitVec 5) (a : BitVec 5) (b : BitVec 5) (m : BitVec 3) (t : VType)
  /-- VMULH (R153). High half of the integer product. -/
  | vmulh (d : BitVec 5) (a : BitVec 5) (b : BitVec 5) (m : BitVec 3) (t : VType)
  /-- VMIN (R154). Elementwise minimum. -/
  | vmin (d : BitVec 5) (a : BitVec 5) (b : BitVec 5) (m : BitVec 3) (t : VType)
  /-- VMAX (R154). Elementwise maximum. -/
  | vmax (d : BitVec 5) (a : BitVec 5) (b : BitVec 5) (m : BitVec 3) (t : VType)
  /-- VABS (R154). Elementwise absolute value. -/
  | vabs (d : BitVec 5) (a : BitVec 5) (m : BitVec 3) (t : VType)
  /-- VNEG (R154). Elementwise negation. -/
  | vneg (d : BitVec 5) (a : BitVec 5) (m : BitVec 3) (t : VType)
  /-- VAND (R153). Elementwise bitwise AND. -/
  | vand (d : BitVec 5) (a : BitVec 5) (b : BitVec 5) (m : BitVec 3) (t : VType)
  /-- VOR (R153). Elementwise bitwise OR. -/
  | vor (d : BitVec 5) (a : BitVec 5) (b : BitVec 5) (m : BitVec 3) (t : VType)
  /-- VXOR (R153). Elementwise bitwise XOR. -/
  | vxor (d : BitVec 5) (a : BitVec 5) (b : BitVec 5) (m : BitVec 3) (t : VType)
  /-- VANDN (R153). Elementwise a AND NOT b. -/
  | vandn (d : BitVec 5) (a : BitVec 5) (b : BitVec 5) (m : BitVec 3) (t : VType)
  /-- VSHL (R153). Elementwise shift left. -/
  | vshl (d : BitVec 5) (a : BitVec 5) (b : BitVec 5) (m : BitVec 3) (t : VType)
  /-- VSHR (R153). Elementwise logical shift right. -/
  | vshr (d : BitVec 5) (a : BitVec 5) (b : BitVec 5) (m : BitVec 3) (t : VType)
  /-- VSRA (R153). Elementwise arithmetic shift right. -/
  | vsra (d : BitVec 5) (a : BitVec 5) (b : BitVec 5) (m : BitVec 3) (t : VType)
  /-- VADDS (R153). Saturating add that sets SAT on clipping. -/
  | vadds (d : BitVec 5) (a : BitVec 5) (b : BitVec 5) (m : BitVec 3) (t : VType)
  /-- VSUBS (R153). Saturating subtract that sets SAT on clipping. -/
  | vsubs (d : BitVec 5) (a : BitVec 5) (b : BitVec 5) (m : BitVec 3) (t : VType)
  /-- VABSD (R153). Exact absolute difference as a natural value. -/
  | vabsd (d : BitVec 5) (a : BitVec 5) (b : BitVec 5) (m : BitVec 3) (t : VType)
  /-- VCLZ (R153). Elementwise leading-zero count. -/
  | vclz (d : BitVec 5) (a : BitVec 5) (m : BitVec 3) (t : VType)
  /-- VPOPC (R153). Elementwise population count. -/
  | vpopc (d : BitVec 5) (a : BitVec 5) (m : BitVec 3) (t : VType)
  /-- VCOPYSIGN (R154). The magnitude of a with the sign of b. -/
  | vcopysign (d : BitVec 5) (a : BitVec 5) (b : BitVec 5) (m : BitVec 3) (t : VType)
  /-- VSCALE (R154). x × 2^k, rounded once. -/
  | vscale (d : BitVec 5) (a : BitVec 5) (b : BitVec 5) (m : BitVec 3) (t : VType)
  /-- VFMA (R155). Fused a × b + c. -/
  | vfma (d : BitVec 5) (a : BitVec 5) (b : BitVec 5) (m : BitVec 3) (t : VType)
  /-- VFMS (R155). Fused a × b - c. -/
  | vfms (d : BitVec 5) (a : BitVec 5) (b : BitVec 5) (m : BitVec 3) (t : VType)
  /-- VFNMA (R155). Fused -(a × b) + c. -/
  | vfnma (d : BitVec 5) (a : BitVec 5) (b : BitVec 5) (m : BitVec 3) (t : VType)
  /-- VFNMS (R155). Fused -(a × b) - c. -/
  | vfnms (d : BitVec 5) (a : BitVec 5) (b : BitVec 5) (m : BitVec 3) (t : VType)
  /-- VCMP_EQ (R156). Elementwise equality compare into a mask. -/
  | vcmpEq (m : BitVec 3) (a : BitVec 5) (b : BitVec 5) (k : BitVec 3) (t : VType)
  /-- VCMP_NE (R156). Elementwise inequality compare into a mask. -/
  | vcmpNe (m : BitVec 3) (a : BitVec 5) (b : BitVec 5) (k : BitVec 3) (t : VType)
  /-- VCMP_LT (R156). Elementwise less-than compare into a mask. -/
  | vcmpLt (m : BitVec 3) (a : BitVec 5) (b : BitVec 5) (k : BitVec 3) (t : VType)
  /-- VCMP_LE (R156). Elementwise less-or-equal compare into a mask. -/
  | vcmpLe (m : BitVec 3) (a : BitVec 5) (b : BitVec 5) (k : BitVec 3) (t : VType)
  /-- VCMP_GT (R156). Elementwise greater-than compare into a mask. -/
  | vcmpGt (m : BitVec 3) (a : BitVec 5) (b : BitVec 5) (k : BitVec 3) (t : VType)
  /-- VCMP_GE (R156). Elementwise greater-or-equal compare into a mask. -/
  | vcmpGe (m : BitVec 3) (a : BitVec 5) (b : BitVec 5) (k : BitVec 3) (t : VType)
  /-- VCMP_UN (R156). Elementwise unordered (NaN) test into a mask. -/
  | vcmpUn (m : BitVec 3) (a : BitVec 5) (b : BitVec 5) (k : BitVec 3) (t : VType)
  /-- VCVT (R157). Converts elements from STYPE to DTYPE. -/
  | vcvt (d : BitVec 5) (a : BitVec 5) (m : BitVec 3) (p : EType) (s : EType)
  /-- VRED_SUM (R160). Reduces the active elements by sum into element 0. -/
  | vredSum (d : BitVec 5) (a : BitVec 5) (m : BitVec 3) (t : VType)
  /-- VRED_MAX (R160). Reduces the active elements by maximum. -/
  | vredMax (d : BitVec 5) (a : BitVec 5) (m : BitVec 3) (t : VType)
  /-- VRED_MIN (R160). Reduces the active elements by minimum. -/
  | vredMin (d : BitVec 5) (a : BitVec 5) (m : BitVec 3) (t : VType)
  /-- VRED_AND (R160). Reduces the active elements by bitwise AND. -/
  | vredAnd (d : BitVec 5) (a : BitVec 5) (m : BitVec 3) (t : VType)
  /-- VRED_OR (R160). Reduces the active elements by bitwise OR. -/
  | vredOr (d : BitVec 5) (a : BitVec 5) (m : BitVec 3) (t : VType)
  /-- VRED_XOR (R160). Reduces the active elements by bitwise XOR. -/
  | vredXor (d : BitVec 5) (a : BitVec 5) (m : BitVec 3) (t : VType)
  /-- VRED_SUMW (R160). Exact 64-bit sum of the integer elements. -/
  | vredSumw (d : BitVec 5) (a : BitVec 5) (m : BitVec 3) (t : VType)
  /-- VPERM_BCAST (R163). Broadcasts element imm of a. -/
  | vpermBcast (d : BitVec 5) (a : BitVec 5) (h : BitVec 5) (m : BitVec 3) (w : ElemW) (l : BitVec 3)
  /-- VPERM_IOTA (R163). Writes each element's own index. -/
  | vpermIota (d : BitVec 5) (m : BitVec 3) (w : ElemW)
  /-- VPERM_SLIDEUP (R163). Slides the elements up by imm. -/
  | vpermSlideup (d : BitVec 5) (a : BitVec 5) (h : BitVec 5) (m : BitVec 3) (w : ElemW) (l : BitVec 3)
  /-- VPERM_SLIDEDN (R163). Slides the elements down by imm. -/
  | vpermSlidedn (d : BitVec 5) (a : BitVec 5) (h : BitVec 5) (m : BitVec 3) (w : ElemW) (l : BitVec 3)
  /-- VPERM_PERM (R163). Permutes a by the indices in b. -/
  | vpermPerm (d : BitVec 5) (a : BitVec 5) (b : BitVec 5) (m : BitVec 3) (w : ElemW)
  /-- VPERM_ZIP (R163). Interleaves a and b. -/
  | vpermZip (d : BitVec 5) (a : BitVec 5) (b : BitVec 5) (m : BitVec 3) (w : ElemW)
  /-- VPERM_UNZIP (R163). Takes the even elements of a followed by b. -/
  | vpermUnzip (d : BitVec 5) (a : BitVec 5) (b : BitVec 5) (m : BitVec 3) (w : ElemW)
  /-- VPERM_REV (R163). Reverses the elements of a. -/
  | vpermRev (d : BitVec 5) (a : BitVec 5) (m : BitVec 3) (w : ElemW)
  /-- VMATH_EXP2 (R164). Elementwise 2^x. -/
  | vmathExp2 (d : BitVec 5) (a : BitVec 5) (m : BitVec 3) (t : VType)
  /-- VMATH_LOG2 (R164). Elementwise log2. -/
  | vmathLog2 (d : BitVec 5) (a : BitVec 5) (m : BitVec 3) (t : VType)
  /-- VMATH_RCP (R164). Elementwise reciprocal. -/
  | vmathRcp (d : BitVec 5) (a : BitVec 5) (m : BitVec 3) (t : VType)
  /-- VMATH_RSQRT (R164). Elementwise reciprocal square root. -/
  | vmathRsqrt (d : BitVec 5) (a : BitVec 5) (m : BitVec 3) (t : VType)
  /-- VMATH_TANH (R164). Elementwise tanh. -/
  | vmathTanh (d : BitVec 5) (a : BitVec 5) (m : BitVec 3) (t : VType)
  /-- VMATH_SQRT (R164). Elementwise correctly rounded square root. -/
  | vmathSqrt (d : BitVec 5) (a : BitVec 5) (m : BitVec 3) (t : VType)
  /-- MAND (R167). md := ma AND mb. -/
  | mand (d : BitVec 3) (a : BitVec 3) (b : BitVec 3)
  /-- MOR (R167). md := ma OR mb. -/
  | mor (d : BitVec 3) (a : BitVec 3) (b : BitVec 3)
  /-- MXOR (R167). md := ma XOR mb. -/
  | mxor (d : BitVec 3) (a : BitVec 3) (b : BitVec 3)
  /-- MNOT (R167). md := NOT ma. -/
  | mnot (d : BitVec 3) (a : BitVec 3)
  /-- MCNT (R167). s := the number of set bits of ma. -/
  | mcnt (s : SReg) (a : BitVec 3)
  /-- MFIRST (R167). s := the index of the lowest set bit of ma. -/
  | mfirst (s : SReg) (a : BitVec 3)
  /-- MSET (R167). Sets mask bits below s. -/
  | mset (s : SReg) (d : BitVec 3)
  /-- VSEL (R168). Selects byte-lanes from a or b by a mask. -/
  | vsel (d : BitVec 5) (a : BitVec 5) (b : BitVec 5) (m : BitVec 3)
  /-- VINS (R169). Inserts a scalar into one vector element. -/
  | vins (v : BitVec 5) (s : SReg) (w : Width) (i : BitVec 11)
  /-- VEXT (R169). Extracts one vector element into a scalar. -/
  | vext (v : BitVec 5) (s : SReg) (w : Width) (i : BitVec 11)
  /-- VMV (R169). Copies the data bytes of a vector register. -/
  | vmv (d : BitVec 5) (a : BitVec 5)
  /-- VSC_RD (R170). Reads one sidecar byte into a scalar. -/
  | vscRd (v : BitVec 5) (s : SReg) (i : BitVec 6)
  /-- VSC_WR (R170). Writes one sidecar byte from a scalar. -/
  | vscWr (v : BitVec 5) (s : SReg) (i : BitVec 6)
  /-- VBLK_BEXP (R172). Computes the greatest exponent field of each 128-lane block. -/
  | vblkBexp (d : BitVec 5) (a : BitVec 5) (m : BitVec 3)
  /-- VBLK_ANC (R173). Converts f32 lanes to two anc64 blocks against given anchors. -/
  | vblkAnc (d : BitVec 5) (a : BitVec 5) (b : BitVec 5) (m : BitVec 3)
  /-- VBLK_UNANC (R174). Decodes two anc64 blocks to f32. -/
  | vblkUnanc (d : BitVec 5) (a : BitVec 5) (m : BitVec 3)
  /-- VBLK_PLPACK (R176). Builds a pni plane image of k planes. -/
  | vblkPlpack (d : BitVec 5) (a : BitVec 5) (b : BitVec 5) (m : BitVec 3) (p : BitVec 5)
  /-- VBLK_PLUNPK (R177). Reads the first k planes of a pni image as i8. -/
  | vblkPlunpk (d : BitVec 5) (a : BitVec 5) (m : BitVec 3) (p : BitVec 5)
  /-- VBLK_BSCALE (R175). Quantises f32 lanes into block-scaled pni blocks. -/
  | vblkBscale (d : BitVec 5) (a : BitVec 5) (m : BitVec 3)
  /-- VSCAN_SUMI (R162). Wrapping inclusive integer prefix sum. -/
  | vscanSumi (d : BitVec 5) (a : BitVec 5) (m : BitVec 3) (t : VType)
  /-- VSCAN_SUMF (R162). Sequential floating prefix sum. -/
  | vscanSumf (d : BitVec 5) (a : BitVec 5) (m : BitVec 3) (t : VType)
  /-- VSCAN_MAX (R162). Running maximum. -/
  | vscanMax (d : BitVec 5) (a : BitVec 5) (m : BitVec 3) (t : VType)
  /-- VLD (R178). A vector load from scratchpad, converting from the bank format. -/
  | vld (v : BitVec 5) (b : SReg) (m : BitVec 3) (t : EType) (o : BitVec 8)
  /-- VST (R178). A vector store to scratchpad, converting to the bank format, as a gated store. -/
  | vst (v : BitVec 5) (b : SReg) (m : BitVec 3) (t : EType) (o : BitVec 8)
  /-- VGATH (R186). Gathers elements from scratchpad by index. -/
  | vgath (v : BitVec 5) (b : SReg) (i : BitVec 5) (m : BitVec 3) (t : EType)
  /-- VSCAT (R186). Scatters elements to scratchpad by index as one gated store. -/
  | vscat (v : BitVec 5) (b : SReg) (i : BitVec 5) (m : BitVec 3) (t : EType)
  /-- MPUSH (R194). Writes a vector eighth into a line of the shadow stationary bank. -/
  | mpush (v : BitVec 5) (e : BitVec 3) (r : BitVec 7)
  /-- MSWAP (R195). Exchanges the active and shadow stationary banks. -/
  | mswap
  /-- MMODE (R193). Sets the matrix mode, clears both banks and discards earlier pushes. -/
  | mmode (m : MatMode) (p : BitVec 4) (a : Bool) (s : Bool)
  /-- MZERO (R199). Zeroes a range of accumulator rows. -/
  | mzero (r : BitVec 8) (n : BitVec 8)
  /-- MACC (R196). One matrix beat into an accumulator row. -/
  | macc (v : BitVec 5) (e : BitVec 3) (r : BitVec 8)
  /-- MDRAIN (R201). Copies an accumulator row into a vector quarter. -/
  | mdrain (v : BitVec 5) (q : BitVec 2) (r : BitVec 8)
  /-- MDRAINZ (R201). Copies an accumulator row into a vector quarter and zeroes the row. -/
  | mdrainz (v : BitVec 5) (q : BitVec 2) (r : BitVec 8)
  /-- CPY (R225). Queues a shaped copy, or performs a shape load, on the copy engine. -/
  | cpy (a : SReg) (b : SReg) (h : BitVec 4) (q : BitVec 5)
  /-- PRESS (R226). Queues a quantisation command from ring qa to ring qb on the Press. -/
  | press (a : SReg) (p : BitVec 5) (q : BitVec 5)
  /-- STASH (R228). Queues a Cellar stash of ring slots under a key. -/
  | stash (a : SReg) (b : SReg) (p : BitVec 5)
  /-- FETCH (R229). Queues a Cellar fetch of a keyed entry into ring slots. -/
  | fetch (a : SReg) (q : BitVec 5)
  /-- DROP (R230). Queues a Cellar drop of a key, for recomputation or forgetting. -/
  | drop (a : SReg)
  /-- SEND (R231). Queues a send of ring slots over a channel. -/
  | send (c : BitVec 8) (p : BitVec 5)
  /-- ARM (R232). Queues the posting of a Trellis entry from a scratchpad record. -/
  | arm (a : SReg) (b : SReg)
  /-- CTRADD (R232). Queues a release add to a Trellis counter of the die. -/
  | ctradd (a : SReg) (b : SReg)
  /-- RMAP (R233). Maps a tile range onto global memory as a region. -/
  | rmap (a : SReg) (b : SReg)
  /-- RFLUSH (R233). Queues the write-back of a region range's dirty bytes. -/
  | rflush (a : SReg)
  /-- RINV (R233). Discards a region range's dirty bytes and unmaps it. -/
  | rinv (a : SReg)
  /-- WAITF (R218). Blocks while a ring is empty. -/
  | waitf (q : BitVec 5)
  /-- RELS (R219). The consumer's release of one ring slot. -/
  | rels (q : BitVec 5)
  /-- RADV (R219). The producer's advance of one ring slot. -/
  | radv (q : BitVec 5)
  /-- WAITR (R218). Blocks while a ring is full. -/
  | waitr (q : BitVec 5)
  /-- OWN (R221). Sets the owner bits of a tile range. -/
  | own (a : SReg)
  /-- VJOIN (R223). Joins the linear and swizzled views for the context's later loads. -/
  | vjoin
  /-- RINIT (R220). Initialises a ring register from a descriptor word. -/
  | rinit (q : BitVec 5) (a : SReg)
  /-- ARRIVE (R237). One arrival at a sync object. -/
  | arrive (a : SReg)
  /-- ARRIVEB (R237). One arrival and a byte decrement at a sync object. -/
  | arriveb (a : SReg) (b : SReg)
  /-- WAITPH (R238). Blocks until the phase of a sync object completes. -/
  | waitph (a : SReg) (p : Bool)
  /-- HOSTEVT (R333). A write of HOSTEVT makes HOST_EVENT pending with the written value. -/
  | hostevt (core place : Nat) (v : Word)
  /-- ACTION_RESUME (R337). ACTION 0 ends a host park as an eret. -/
  | actionResume (core place : Nat)
  /-- ACTION_HANDLER (R337). ACTION 1 ends a host park by entering the trap handler. -/
  | actionHandler (core place : Nat)
  /-- ACTION_ABORT (R337). ACTION 2 aborts every context of the gang. -/
  | actionAbort (core place : Nat)
  /-- SYNC_RELEASE (R240). All cores of a gang contribute and the sync line releases in one cycle. -/
  | syncRelease (gang : Nat)
  /-- TAIL_WRITE (R278). A doorbell tail write is accepted or refused for a launch queue. -/
  | tailWrite (queue : Nat) (tail : BitVec 32)
  /-- HELD_ARRIVAL_ENTRY (R297). A held arrival enters its Sheepdog queue when a place frees. -/
  | heldArrivalEntry (queue : Nat)
  /-- POST (R299). A write of the POST word adds a Sheepdog arrival. -/
  | dogPost (w : Word)
  /-- DECIDE (R305). A write of DECIDE launches a named entry under a row in host-assisted mode. -/
  | dogDecide (w : Word)
  /-- INVAL (R369). A write of INVAL starts a TLB invalidation. -/
  | inval (w : Word)
  /-- MIGRATE_TO_DEVICE (R370). MIGCMD with DIR 0 migrates a page to the device. -/
  | migrateToDevice (w : Word)
  /-- MIGRATE_TO_HOST (R370). MIGCMD with DIR 1 migrates a page to the host. -/
  | migrateToHost (w : Word)
  /-- MIGRATION_REFUSE (R370). MIGCMD with REFUSE makes every requester of the page fault HOST_OWNED. -/
  | migrationRefuse (w : Word)
  /-- CELDEC_PLACE (R358). CELDEC ACT 0 places a waiting stash at a tier. -/
  | celdecPlace (w : Word)
  /-- CELDEC_DROP (R358). CELDEC ACT 1 drops a waiting stash's key for recomputation. -/
  | celdecDrop (w : Word)
  /-- CELDEC_REFUSE (R358). CELDEC ACT 2 makes a waiting stash fault CELLAR_CAPACITY. -/
  | celdecRefuse (w : Word)
  /-- CHANNEL_DATA (R380). A channel message arrives and is accepted into the destination ring or refused. -/
  | channelData (m : Msg)
  /-- CREDIT (R380). A credit arrives and raises the channel's CREDIT by 1. -/
  | credit (m : Msg)
  /-- BARRIER_ARRIVAL (R392). A barrier arrival is counted at the root and may release the episode. -/
  | barrierArrival (m : Msg)
  /-- BARRIER_RELEASE (R392). A release from the root frees the contexts blocked at that sequence number. -/
  | barrierRelease (m : Msg)
  /-- ABSENCE_TOKEN (R331). An absence token holds a barrier open and suspends its timeouts. -/
  | absenceToken (m : Msg)
  /-- PRESENCE_TOKEN (R331). A presence token withdraws an absence. -/
  | presenceToken (m : Msg)
  /-- ABORT (R393). An abort flit for a group aborts it, or marks SEEN, on the receiving device. -/
  | abortFlit (m : Msg)
  /-- MISMATCH (R380). A returned mismatch flit stops the channel and faults the send. -/
  | mismatch (m : Msg)
  /-- PUT (R387). A put message writes its bytes at the destination and raises counts. -/
  | put (m : Msg)
  /-- PUT_ACCUMULATE (R388). A put-accumulate message combines its elements under ACCOP. -/
  | putAccumulate (m : Msg)
  /-- GET_REQUEST (R385). A get request makes the peer read and reply with LEN bytes. -/
  | getRequest (m : Msg)
  /-- GET_REPLY (R385). A get reply's bytes are written locally and the get completes. -/
  | getReply (m : Msg)
  /-- REMOTE_COUNTER_ADD (R385). A remote counter add raises a counter at the peer and is acknowledged. -/
  | remoteCounterAdd (m : Msg)
  /-- COMPLETION_ACKNOWLEDGEMENT (R385). An acknowledgement completes a put or remote add and raises DONE counters. -/
  | completionAcknowledgement (m : Msg)
  /-- RETRAIN (R377). Writing RETRAIN starts a retrain of a down port. -/
  | retrain (port : Nat)
  /-- CHANNEL_CONFIGURE (R378). A channel-record write setting VALID zeroes its sequence fields. -/
  | channelConfigure (word : Nat) (w : Word)
  /-- COUNTER_WRITE (R382). A table-port write of a Trellis counter stores the value and is evaluated for firing. -/
  | counterWrite (die ctr : Nat) (w : Word)
  /-- ENTRY_ARM_WRITE (R383). A table-port write of an entry's word 0 with ARMED = 1 arms it. -/
  | entryArmWrite (die entry : Nat) (w : Word)
  /-- TRELLIS_REFIRE (R384). A re-armed or newly armed entry still met fires in the next cycle. -/
  | trellisRefire (die entry : Nat)
  /-- GROUP_START (R391). CMD START sets a collective group RUNNING. -/
  | groupStart (slot : Nat)
  /-- GROUP_ABORT (R393). CMD ABORT aborts a collective group and forwards abort flits. -/
  | groupAbort (slot : Nat)
  /-- GROUP_START_COMPLETE (R391). A group started with its counter already met becomes COMPLETE the next cycle. -/
  | groupStartComplete (slot : Nat)
  /-- HOST_WINDOW_ACCESS (R394). A host access reaches a device's register window through the bridge. -/
  | hostWindowAccess (a : WinAccess)
  /-- HOST_TABDAT_ACCESS (R40). A full TABDAT access through the host table port reads or writes a word and increments TABIDX. -/
  | hostTabdatAccess (write : Option Word)
  /-- PCAP_WRITE (R404). A PCAP write below PREL stores PREL. -/
  | pcapWrite (w : Word)
  /-- DRY_CLEAR (R413). Writing 1 to DRY clears the zone's offline state and lifts the clamp. -/
  | dryClear (zone : Nat)
  /-- GRANT_WRITE (R409). A write of an irrigation grant or floor is checked and may cause a placement decision. -/
  | grantWrite (word : Nat) (w : Word)
  /-- THCMD (R419). A write of THCMD migrates a gang to a named rectangle. -/
  | thcmd (w : Word)
  /-- DEVID_WRITE (R395). The first write of DEVID after reset sets the device identifier. -/
  | devidWrite (w : Word)
  /-- DEVICE_RESET (R424). Reset runs the signed boot sequence up to BOOTST 4 or 15. -/
  | deviceReset (stage : BootStage)
  /-- REGISTER_WRITE (R11). A write to a register without behaviour of its own stores its non-reserved fields. -/
  | registerWrite (offset : WinPlace) (w : Word)
  /-- EQHEAD_WRITE (R396). A host write of EQHEAD frees places in the event queue, so events waiting in the device are posted. -/
  | eqheadWrite (w : Word)
  /-- STALL_STEP (R42). A step in which the context issues nothing, taken before a bundle with a stall count. -/
  | stallStep
  /-- BUNDLE_NULLIFIED (R25). A bundle whose N bit is set takes one step and does nothing. -/
  | bundleNullified
  /-- RESULT_DUE (R43). A result with a latency falls due and is written to its register. -/
  | resultDue
  /-- GLOBAL_REPLY (R47). The reply of a global load or atomic arrives, ending any freeze that waits on it. -/
  | globalReply (core place : Nat) (id : Nat)
  /-- TRANSLATION_RESOLVED (R49). A translation a frozen bundle waits on completes and the bundle may commit. -/
  | translationResolved (core place : Nat)
  /-- TAKE_PENDING_TRAP (R313). A pending trap raised by no slot is taken at a boundary or on a blocked context. -/
  | takePendingTrap
  /-- BREAKPOINT (R334). A bundle at BPADDR raises BREAKPOINT as it comes to issue and does not issue. -/
  | breakpoint
  /-- DETECTED_ERROR (R321). An uncorrectable ECC, reply or residue error is detected and the context is rolled back for retry. -/
  | detectedError (core place : Nat) (e : DetErr)
  /-- MATRIX_BEAT_RETRY (R207). A beat failing its residue or ECC check is executed again once, then rolled back and trapped if it fails again. -/
  | matrixBeatRetry (core : Nat) (f : BeatFail)
  /-- FREEZE_TIMEOUT_BEFORE_COMMIT (R326). A freeze before commit expires, and the context is parked or traps FREEZE_TIMEOUT. -/
  | freezeTimeoutBeforeCommit (core place : Nat)
  /-- FREEZE_TIMEOUT_AT_DUE (R327). A freeze at a due step expires, and the context is rolled back, parked or trapped. -/
  | freezeTimeoutAtDue (core place : Nat)
  /-- ATOMIC_REPLY_TIMEOUT (R327). No atomic reply within 16 × WATCHDOG of the park traps MC_DATA. -/
  | atomicReplyTimeout (core place : Nat)
  /-- CORE_HUNG (R328). A core frozen beyond 64 × WATCHDOG rolls back and traps every context. -/
  | coreHung (core : Nat)
  /-- SYNC_TIMEOUT (R241). A context blocked at sync too long traps SYNC_TIMEOUT. -/
  | syncTimeout (core place : Nat)
  /-- BARRIER_TIMEOUT (R242). A context blocked at barx beyond the channel's timeout traps. -/
  | barrierTimeout (core place : Nat)
  /-- QUANTUM_EXPIRY (R295). A turn that reaches QUANTUM steps ends or traps QUANTUM. -/
  | quantumExpiry
  /-- TIMER (R333). TIMER becomes pending when CYCLE reaches TCMP with TEN set. -/
  | timer (core place : Nat)
  /-- CLAIM_GRANT (R406). The slew limiter grants a queued claim in a ramp step and writes SKEW. -/
  | claimGrant (cluster : Nat)
  /-- RAMP_DOWN_STEP (R407). Each 4-cycle step the limiter injects filler beats to bound the fall in cluster current. -/
  | rampDownStep (cluster : Nat)
  /-- QUEUE_RESIDENT (R279). A pending launch queue takes a free resident place. -/
  | queueResident (queue : Nat)
  /-- QUEUE_SWITCH_OUT (R279). A resident queue is switched out and its counts written back. -/
  | queueSwitchOut (queue : Nat)
  /-- RECORD_FORWARD (R281). A resident queue forwards its head record into a class queue, or refuses it. -/
  | recordForward (queue : HeadRead)
  /-- PLACEMENT_DECISION (R286). The dispatcher places the first fitting head of the class queues on a rectangle. -/
  | placementDecision
  /-- CONTEXT_START (R290). A placed context starts at its phase-table start cycle. -/
  | contextStart (core place : Nat)
  /-- PREEMPTION_ROUND (R291). Every 65,536 cycles the dispatcher picks victims against a blocked head. -/
  | preemptionRound
  /-- SAVE_COMPLETE (R329). A pre-empted group's fired commands have completed and its banks are reclaimed. -/
  | saveComplete (gang : Nat)
  /-- GROUP_RETIREMENT (R310). A group whose contexts have all ended writes back its regions and frees its resources. -/
  | groupRetirement (gang core : Nat)
  /-- SHEEPDOG_DECISION (R300). The Sheepdog evaluates its policy rows and launches the first match. -/
  | sheepdogDecision
  /-- ENERGY_ESTIMATE (R421). Every 1,024 cycles each core adds estimated energy to its gang's accumulator. -/
  | energyEstimate (core uj : Nat)
  /-- REGION_FILL_COMPLETE (R256). A region tile's fill completes or faults, releasing its waiters. -/
  | regionFillComplete (core tile : Nat) (bad : Option Nat)
  /-- MIGRATION_COMPLETE (R265). A page migration finishes its copy and flips ownership, or fails. -/
  | migrationComplete (page : Nat) (copyOk : Bool)
  /-- FAULT_QUEUE_RETRY (R367). A refused migration request is retried after 4,096 cycles. -/
  | faultQueueRetry (page : Nat)
  /-- INVALIDATION_COMPLETE (R369). An invalidation ends and INVSTAT.BUSY returns to 0. -/
  | invalidationComplete
  /-- COPY_FIRE (R342). A queued copy fires and walks its elements. -/
  | copyFire (core : Nat)
  /-- COPY_COMPLETE (R344). A copy's writes are performed and it signals a ring, counter or sync object. -/
  | copyComplete (core id : Nat) (bad : Option Nat)
  /-- SHAPE_LOAD_COMPLETE (R341). The records of a shape load are read and the entries take their values at commit. -/
  | shapeLoadComplete (core place : Nat)
  /-- PRESS_FIRE (R348). A press command fires and quantises its input slots. -/
  | pressFire (core : Nat)
  /-- PRESS_COMPLETE (R351). A press command completes, advances its rings and ORs its flags. -/
  | pressComplete (core id : Nat)
  /-- STASH_FIRE (R354). A stash fires and codes its slots into the stored form. -/
  | stashFire (core : Nat)
  /-- STASH_STORED (R357). A stash has placed its entry in a tier, drops the key, or faults. -/
  | stashStored (core id : Nat)
  /-- FETCH_FIRE (R229). A fetch fires once its key is stashed. -/
  | fetchFire (core id : Nat)
  /-- FETCH_COMPLETE (R213). A fetch has written its entry and advances its ring. -/
  | fetchComplete (core id : Nat)
  /-- DROP_FIRE (R230). A drop marks a key dropped or frees it. -/
  | dropFire (core : Nat)
  /-- SEND_FIRE (R379). A send takes credit and a sequence number and emits a channel message. -/
  | sendFire (core : Nat)
  /-- SEND_COMPLETE (R379). A send's last flit has left and its source ring advances. -/
  | sendComplete (core id : Nat)
  /-- ARM_FIRE (R383). An arm copies its record into a Trellis entry or faults. -/
  | armFire (core : Nat)
  /-- CTRADD_FIRE (R232). A ctradd adds to its counter after the published stores are performed. -/
  | ctraddFire (core : Nat)
  /-- RMAP_FIRE (R233). The map unit processes a region mapping. -/
  | rmapFire (core : Nat)
  /-- RFLUSH_FIRE (R257). The map unit writes back a region range's dirty bytes. -/
  | rflushFire (core : Nat)
  /-- RINV_FIRE (R233). The map unit discards and unmaps a region range. -/
  | rinvFire (core : Nat)
  /-- CELLAR_PREFETCH_MOVE (R360). The Cellar moves hinted entries into the HBM4E pool. -/
  | cellarPrefetchMove (key : BitVec 24)
  /-- NVME_COMPLETION (R362). An NVMe command completes, and is reissued once on failure. -/
  | nvmeCompletion (id : Nat) (ok : Bool)
  /-- HOST_REQUEST (R397). A host access routed through the bridge is performed at a member. -/
  | hostRequest (m : Msg)
  /-- HOST_REPLY (R397). A member's reply to a host access returns to the bridge. -/
  | hostReply (m : Msg)
  /-- FLIT_CRC_FAILURE (R374). A flit failing its CRC is refused and resent. -/
  | flitCrcFailure (port : Nat) (resendOk : Bool)
  /-- PORT_RETRAIN_END (R374). A port retrain succeeds or fails, and the port may go down. -/
  | portRetrainEnd (port : Nat) (ok : Bool)
  /-- TABDAT_LOW_READ (R422). A 32-bit read of offset 0x10 returns the low half and latches the high half. -/
  | tabdatLowRead
  /-- TABDAT_HIGH_READ (R422). A 32-bit read of offset 0x14 returns the latched half and increments TABIDX. -/
  | tabdatHighRead
  /-- BALANCE_WINDOW_END (R400). At each 120,000-cycle window the yoke balancer adjusts ballast and BAL requests. -/
  | balanceWindowEnd (yoke : Nat)
  /-- POWER_CAP_CHECK (R404). Once per ms module power is compared with PCAP and PREL, and the CAP requests adjusted. -/
  | powerCapCheck
  /-- JUNCTION_SAMPLE (R415). Junction temperatures are sampled, and clusters enter or leave the hot state. -/
  | junctionSample
  /-- THERMAL_EVALUATION (R416). Every 1 ms each die may make one thermal migration or apply the thermal response. -/
  | thermalEvaluation (die : Nat)
  /-- VALVE_STEP (R411). Every 1,200 cycles each automatic valve steps one code toward its grant. -/
  | valveStep (zone : Nat)
  /-- COOLANT_DRY_CONDITION (R412). Flow below FLOOR for 5 ms starts the evacuation sequence. -/
  | coolantDryCondition (zone : Nat)
  /-- COOLANT_FLOW_CONDITION (R412). A flow or temperature anomaly held for 5 ms raises COOLANT_FLOW. -/
  | coolantFlowCondition (zone : Nat)
  /-- EVACUATION_FLUSH_END (R413). After 50 ms of full valve the zone is restored or taken offline. -/
  | evacuationFlushEnd (zone : Nat)
  /-- ATTCMD (R425). Writing ATTCMD starts a signed attestation report. -/
  | attcmd
  /-- ATTESTATION_REPORT_DONE (R425). The attestation report is written and DONE or ERR is set. -/
  | attestationReportDone (ok : Bool)
  /-- DRAIN_SATISFIED (R243). The accesses a blocked drain, sync contribution or barx arrival waits on become performed at the scope, and the wait ends. -/
  | drainSatisfied (core place : Nat)
  /-- PREEMPTION_REPLY_TIMEOUT (R329). A load reply awaited during pre-emption has not come within WATCHDOG cycles, and the context is rolled back to its mark before it is saved. -/
  | preemptionReplyTimeout (core place : Nat)
  /-- RESERVED_KIND_FLIT (R372). A flit arriving with KIND 15 or LEN above 240 is discarded and counted in CRCERR. -/
  | reservedKindFlit (port : Nat)
deriving DecidableEq, Repr

end Sys2Proof
end

