-- ==== Sys2Proof/WellFormed.lean ====
section
/-! DEFINITION. The limits on field values that check 4 of 03 R82 makes (03 R95, R96, R97, R100; 06 R193), as one
decidable check of an instruction; for events, that a core, place, die or other index names one that exists. -/

namespace Sys2Proof

/-- Codes 0 to 5 of 03 R97: the integer types. -/
def VType.isInt : VType → Bool
  | .i32 | .i16 | .i8 | .n32 | .n16 | .n8 => true
  | .f32 | .bf16 => false

/-- Codes 6 and 7 of 03 R97: the floating types of a 3-bit field. -/
def VType.isFloat (t : VType) : Bool := !t.isInt

/-- The types of abs and neg (03 R100): signed integers and floats. -/
def VType.isSigned : VType → Bool
  | .i32 | .i16 | .i8 | .f32 | .bf16 => true
  | .n32 | .n16 | .n8 => false

/-- Codes 0 to 10, the types vcvt takes (03 R97). -/
def EType.isCvt : EType → Bool
  | .pni | .anc64 | .raw => false
  | _ => true

/-- Codes 0 to 9 and 13, the types vgath and vscat take (03 R97). -/
def EType.isGather : EType → Bool
  | .e8m0 | .pni | .anc64 => false
  | _ => true

/-- The element counts that bound the index of vins and vext (03 R96). -/
def Width.insBound : Width → Nat
  | .w0 => 512
  | .w1 => 1024
  | .w2 => 2048
  | .w3 => 256

/-- mmode's limits (03 R96; 06 R193): PLANES 2 to 8 exactly with pni, i32 accumulation only with an integer mode,
SATT only with ACCI. -/
def mmodeOk (m : MatMode) (p : BitVec 4) (a s : Bool) : Bool :=
  (match m with
    | .pni => decide (2 ≤ p.toNat) && decide (p.toNat ≤ 8)
    | _ => p == 0) &&
  (match m with
    | .bf16 | .e4m3 | .e5m2 => !a
    | _ => true) &&
  (!s || a)

/-- vcvt's limits (03 R97): codes 0 to 10, two different types, e8m0 only with f32 or bf16. -/
def vcvtOk (p s : EType) : Bool :=
  p.isCvt && s.isCvt && decide (p ≠ s) &&
  (decide (p ≠ .e8m0) || decide (s = .f32) || decide (s = .bf16)) &&
  (decide (s ≠ .e8m0) || decide (p = .f32) || decide (p = .bf16))

/-- A core number and a context place that exist (00 R4; 01 R15). -/
def placeOk (core place : Nat) : Bool := decide (core < 288) && decide (place < 4)

/-- The limits check 4 of 03 R82 makes on an instruction's field values; every other instruction has none. -/
def Instr.wf : Instr → Bool
  | .shli _ _ w n | .shri _ _ w n | .srai _ _ w n | .roti _ _ w n => !w || decide (n.toNat < 32)
  | .extf _ _ p l | .extfn _ _ p l | .insf _ _ p l => decide (p.toNat + l.toNat + 1 ≤ 64)
  | .widf _ f => decide (f.toNat ≤ 5)
  | .ld _ _ w n _ | .ldg _ _ w n _ | .lda _ _ w n _ => !n || decide (w ≠ .w3)
  | .vmulh _ _ _ _ t | .vand _ _ _ _ t | .vor _ _ _ _ t | .vxor _ _ _ _ t | .vandn _ _ _ _ t
  | .vshl _ _ _ _ t | .vshr _ _ _ _ t | .vsra _ _ _ _ t | .vadds _ _ _ _ t | .vsubs _ _ _ _ t
  | .vabsd _ _ _ _ t => t.isInt
  | .vclz _ _ _ t | .vpopc _ _ _ t => t.isInt
  | .vabs _ _ _ t | .vneg _ _ _ t => t.isSigned
  | .vcopysign _ _ _ _ t | .vscale _ _ _ _ t => t.isFloat
  | .vfma _ _ _ _ t | .vfms _ _ _ _ t | .vfnma _ _ _ _ t | .vfnms _ _ _ _ t => t.isFloat
  | .vcmpUn _ _ _ _ t => t.isFloat
  | .vcvt _ _ _ p s => vcvtOk p s
  | .vredAnd _ _ _ t | .vredOr _ _ _ t | .vredXor _ _ _ t | .vredSumw _ _ _ t => t.isInt
  | .vmathExp2 _ _ _ t | .vmathLog2 _ _ _ t | .vmathRcp _ _ _ t | .vmathRsqrt _ _ _ t
  | .vmathTanh _ _ _ t | .vmathSqrt _ _ _ t => t.isFloat
  | .vscanSumi _ _ _ t => t.isInt
  | .vscanSumf _ _ _ t => t.isFloat
  | .vins _ _ w i | .vext _ _ w i => decide (i.toNat < w.insBound)
  | .vblkPlpack _ _ _ _ p => decide (2 ≤ p.toNat) && decide (p.toNat ≤ 8)
  | .vblkPlunpk _ _ _ p => decide (2 ≤ p.toNat) && decide (p.toNat ≤ 8)
  | .vgath _ _ _ _ t | .vscat _ _ _ _ t => t.isGather
  | .mmode m p a s => mmodeOk m p a s
  | .mzero r n => decide (r.toNat + n.toNat ≤ 255)
  | .globalReply c p _ | .translationResolved c p | .detectedError c p _ | .freezeTimeoutBeforeCommit c p
  | .freezeTimeoutAtDue c p | .atomicReplyTimeout c p | .syncTimeout c p | .barrierTimeout c p | .timer c p
  | .hostevt c p _ | .actionResume c p | .actionHandler c p | .actionAbort c p | .contextStart c p
  | .shapeLoadComplete c p | .drainSatisfied c p | .preemptionReplyTimeout c p => placeOk c p
  | .matrixBeatRetry c _ | .coreHung c | .energyEstimate c _ | .regionFillComplete c _ _ | .copyFire c
  | .copyComplete c _ _ | .pressFire c | .pressComplete c _ | .stashFire c | .stashStored c _ | .fetchFire c _
  | .fetchComplete c _ | .dropFire c | .sendFire c | .sendComplete c _ | .armFire c | .ctraddFire c
  | .rmapFire c | .rflushFire c | .rinvFire c | .groupRetirement _ c => decide (c < 288)
  | .claimGrant k | .rampDownStep k => decide (k < 36)
  | .balanceWindowEnd y => decide (y < 18)
  | .valveStep z | .coolantDryCondition z | .evacuationFlushEnd z | .dryClear z => decide (z < 20)
  | .coolantFlowCondition z => decide (z < 20) || z == 31
  | .thermalEvaluation d => decide (d < 2)
  | .counterWrite d c _ => decide (d < 2) && decide (c < 1024)
  | .entryArmWrite d e _ | .trellisRefire d e => decide (d < 2) && decide (e < 4096)
  | .groupStart g | .groupAbort g | .groupStartComplete g => decide (g < 64)
  | .flitCrcFailure p _ | .portRetrainEnd p _ | .retrain p | .reservedKindFlit p => decide (p < 8)
  | _ => true

end Sys2Proof
end

