-- ==== Sys2Proof/Decode.lean ====
section
/-! DEFINITION. Decoding: from the 32 bits of a slot, and from the four slots of a bundle, to instructions or to the
fault of the first check that fails (03 R79 to R101); after it the encoder, from the same tables. -/

namespace Sys2Proof

/-- Bits lo + len - 1 : lo of a number. -/
def bitsAt (w lo len : Nat) : Nat := w / 2 ^ lo % 2 ^ len

/-- The same bits as a bit vector. -/
def fieldAt (w lo len : Nat) : BitVec len := BitVec.ofNat len (bitsAt w lo len)

/-- TYPE code of a 3-bit field (03 R97). -/
def VType.code : VType → Nat
  | .i32 => 0 | .i16 => 1 | .i8 => 2 | .n32 => 3 | .n16 => 4 | .n8 => 5 | .f32 => 6 | .bf16 => 7

/-- The type of a 3-bit code; every code is a type (03 R97). -/
def VType.ofCode : Nat → VType
  | 0 => .i32 | 1 => .i16 | 2 => .i8 | 3 => .n32 | 4 => .n16 | 5 => .n8 | 6 => .f32 | _ => .bf16

/-- TYPE code of a 4-bit field (03 R97). -/
def EType.code : EType → Nat
  | .i32 => 0 | .i16 => 1 | .i8 => 2 | .n32 => 3 | .n16 => 4 | .n8 => 5 | .f32 => 6 | .bf16 => 7
  | .e4m3 => 8 | .e5m2 => 9 | .e8m0 => 10 | .pni => 11 | .anc64 => 12 | .raw => 13

/-- The type of a 4-bit code; 14 and 15 are reserved (03 R97). -/
def EType.ofCode? : Nat → Option EType
  | 0 => some .i32 | 1 => some .i16 | 2 => some .i8 | 3 => some .n32 | 4 => some .n16 | 5 => some .n8
  | 6 => some .f32 | 7 => some .bf16 | 8 => some .e4m3 | 9 => some .e5m2 | 10 => some .e8m0
  | 11 => some .pni | 12 => some .anc64 | 13 => some .raw | _ => none

/-- SCOPE code (03 R95). -/
def Scope.code : Scope → Nat
  | .ctx => 0 | .core => 1 | .gang => 2 | .device => 3 | .system => 4

/-- The scope of a code; 5 to 7 are reserved (03 R95). -/
def Scope.ofCode? : Nat → Option Scope
  | 0 => some .ctx | 1 => some .core | 2 => some .gang | 3 => some .device | 4 => some .system | _ => none

/-- WIDTH code of MEM, vins and vext (03 R95, R96). -/
def Width.code : Width → Nat
  | .w0 => 0 | .w1 => 1 | .w2 => 2 | .w3 => 3

/-- The width of a 2-bit code. -/
def Width.ofCode : Nat → Width
  | 0 => .w0 | 1 => .w1 | 2 => .w2 | _ => .w3

/-- WIDTH code of VPERM (03 R96). -/
def ElemW.code : ElemW → Nat
  | .w32 => 0 | .w16 => 1 | .w8 => 2

/-- The element width of a VPERM code; 3 is reserved (03 R96). -/
def ElemW.ofCode? : Nat → Option ElemW
  | 0 => some .w32 | 1 => some .w16 | 2 => some .w8 | _ => none

/-- COND code (03 R100; 04 R124). -/
def Cond.code : Cond → Nat
  | .eq => 0 | .ne => 1 | .lt => 2 | .ge => 3 | .ltn => 4 | .gen => 5 | .bs => 6 | .bc => 7

/-- The condition of a 3-bit code. -/
def Cond.ofCode : Nat → Cond
  | 0 => .eq | 1 => .ne | 2 => .lt | 3 => .ge | 4 => .ltn | 5 => .gen | 6 => .bs | _ => .bc

/-- MODE code of mmode (03 R96). -/
def MatMode.code : MatMode → Nat
  | .bf16 => 0 | .e4m3 => 1 | .e5m2 => 2 | .i8 => 3 | .i4 => 4 | .pni => 5

/-- The operand mode of a MODE code; 6 to 15 are reserved (03 R96). -/
def MatMode.ofCode? : Nat → Option MatMode
  | 0 => some .bf16 | 1 => some .e4m3 | 2 => some .e5m2 | 3 => some .i8 | 4 => some .i4 | 5 => some .pni
  | _ => none

/-- The rows of major 0x00. -/
def decodeMajor00 (x : Nat) : Option Instr :=
  if bitsAt x 0 26 = 0 then some .nop else
  none

/-- The rows of major 0x01. -/
def decodeMajor01 (x : Nat) : Option Instr :=
  if bitsAt x 0 7 = 0 then some (.add (fieldAt x 20 6) (fieldAt x 14 6) (fieldAt x 8 6) (bitsAt x 7 1 == 1)) else
  if bitsAt x 0 7 = 1 then some (.sub (fieldAt x 20 6) (fieldAt x 14 6) (fieldAt x 8 6) (bitsAt x 7 1 == 1)) else
  if bitsAt x 0 8 = 2 then some (.and (fieldAt x 20 6) (fieldAt x 14 6) (fieldAt x 8 6)) else
  if bitsAt x 0 8 = 3 then some (.or (fieldAt x 20 6) (fieldAt x 14 6) (fieldAt x 8 6)) else
  if bitsAt x 0 8 = 4 then some (.xor (fieldAt x 20 6) (fieldAt x 14 6) (fieldAt x 8 6)) else
  if bitsAt x 0 8 = 5 then some (.andn (fieldAt x 20 6) (fieldAt x 14 6) (fieldAt x 8 6)) else
  if bitsAt x 0 8 = 6 then some (.orn (fieldAt x 20 6) (fieldAt x 14 6) (fieldAt x 8 6)) else
  if bitsAt x 0 7 = 7 then some (.shl (fieldAt x 20 6) (fieldAt x 14 6) (fieldAt x 8 6) (bitsAt x 7 1 == 1)) else
  if bitsAt x 0 7 = 8 then some (.shr (fieldAt x 20 6) (fieldAt x 14 6) (fieldAt x 8 6) (bitsAt x 7 1 == 1)) else
  if bitsAt x 0 7 = 9 then some (.sra (fieldAt x 20 6) (fieldAt x 14 6) (fieldAt x 8 6) (bitsAt x 7 1 == 1)) else
  if bitsAt x 0 8 = 10 then some (.rot (fieldAt x 20 6) (fieldAt x 14 6) (fieldAt x 8 6)) else
  if bitsAt x 0 8 = 11 then some (.slt (fieldAt x 20 6) (fieldAt x 14 6) (fieldAt x 8 6)) else
  if bitsAt x 0 8 = 12 then some (.sltn (fieldAt x 20 6) (fieldAt x 14 6) (fieldAt x 8 6)) else
  if bitsAt x 0 8 = 13 then some (.seq (fieldAt x 20 6) (fieldAt x 14 6) (fieldAt x 8 6)) else
  if bitsAt x 0 8 = 14 then some (.min (fieldAt x 20 6) (fieldAt x 14 6) (fieldAt x 8 6)) else
  if bitsAt x 0 8 = 15 then some (.max (fieldAt x 20 6) (fieldAt x 14 6) (fieldAt x 8 6)) else
  if bitsAt x 0 8 = 16 then some (.minn (fieldAt x 20 6) (fieldAt x 14 6) (fieldAt x 8 6)) else
  if bitsAt x 0 8 = 17 then some (.maxn (fieldAt x 20 6) (fieldAt x 14 6) (fieldAt x 8 6)) else
  if bitsAt x 0 7 = 18 then some (.mul (fieldAt x 20 6) (fieldAt x 14 6) (fieldAt x 8 6) (bitsAt x 7 1 == 1)) else
  if bitsAt x 0 8 = 19 then some (.mulh (fieldAt x 20 6) (fieldAt x 14 6) (fieldAt x 8 6)) else
  if bitsAt x 0 8 = 20 then some (.mulhn (fieldAt x 20 6) (fieldAt x 14 6) (fieldAt x 8 6)) else
  if bitsAt x 0 7 = 21 then some (.div (fieldAt x 20 6) (fieldAt x 14 6) (fieldAt x 8 6) (bitsAt x 7 1 == 1)) else
  if bitsAt x 0 7 = 22 then some (.divn (fieldAt x 20 6) (fieldAt x 14 6) (fieldAt x 8 6) (bitsAt x 7 1 == 1)) else
  if bitsAt x 0 7 = 23 then some (.rem (fieldAt x 20 6) (fieldAt x 14 6) (fieldAt x 8 6) (bitsAt x 7 1 == 1)) else
  if bitsAt x 0 7 = 24 then some (.remn (fieldAt x 20 6) (fieldAt x 14 6) (fieldAt x 8 6) (bitsAt x 7 1 == 1)) else
  if bitsAt x 0 14 = 25 then some (.clz (fieldAt x 20 6) (fieldAt x 14 6)) else
  if bitsAt x 0 14 = 26 then some (.ctz (fieldAt x 20 6) (fieldAt x 14 6)) else
  if bitsAt x 0 14 = 27 then some (.popc (fieldAt x 20 6) (fieldAt x 14 6)) else
  if bitsAt x 0 14 = 28 then some (.bswap (fieldAt x 20 6) (fieldAt x 14 6)) else
  if bitsAt x 0 8 = 29 then some (.sel (fieldAt x 20 6) (fieldAt x 14 6) (fieldAt x 8 6)) else
  none

/-- The rows of major 0x02. -/
def decodeMajor02 (x : Nat) : Option Instr :=
  some (.addi (fieldAt x 20 6) (fieldAt x 14 6) (fieldAt x 0 14))

/-- The rows of major 0x03. -/
def decodeMajor03 (x : Nat) : Option Instr :=
  some (.andi (fieldAt x 20 6) (fieldAt x 14 6) (fieldAt x 0 14))

/-- The rows of major 0x04. -/
def decodeMajor04 (x : Nat) : Option Instr :=
  some (.ori (fieldAt x 20 6) (fieldAt x 14 6) (fieldAt x 0 14))

/-- The rows of major 0x05. -/
def decodeMajor05 (x : Nat) : Option Instr :=
  some (.xori (fieldAt x 20 6) (fieldAt x 14 6) (fieldAt x 0 14))

/-- The rows of major 0x06. -/
def decodeMajor06 (x : Nat) : Option Instr :=
  if bitsAt x 7 7 = 0 then some (.shli (fieldAt x 20 6) (fieldAt x 14 6) (bitsAt x 6 1 == 1) (fieldAt x 0 6)) else
  if bitsAt x 7 7 = 32 then some (.shri (fieldAt x 20 6) (fieldAt x 14 6) (bitsAt x 6 1 == 1) (fieldAt x 0 6)) else
  if bitsAt x 7 7 = 64 then some (.srai (fieldAt x 20 6) (fieldAt x 14 6) (bitsAt x 6 1 == 1) (fieldAt x 0 6)) else
  if bitsAt x 7 7 = 96 then some (.roti (fieldAt x 20 6) (fieldAt x 14 6) (bitsAt x 6 1 == 1) (fieldAt x 0 6)) else
  none

/-- The rows of major 0x07. -/
def decodeMajor07 (x : Nat) : Option Instr :=
  some (.slti (fieldAt x 20 6) (fieldAt x 14 6) (fieldAt x 0 14))

/-- The rows of major 0x08. -/
def decodeMajor08 (x : Nat) : Option Instr :=
  some (.sltni (fieldAt x 20 6) (fieldAt x 14 6) (fieldAt x 0 14))

/-- The rows of major 0x09. -/
def decodeMajor09 (x : Nat) : Option Instr :=
  some (.li (fieldAt x 20 6) (fieldAt x 0 20))

/-- The rows of major 0x0A. -/
def decodeMajor0A (x : Nat) : Option Instr :=
  some (.lih (fieldAt x 20 6) (fieldAt x 0 20))

/-- The rows of major 0x0B. -/
def decodeMajor0B (x : Nat) : Option Instr :=
  some (.lea (fieldAt x 20 6) (fieldAt x 14 6) (fieldAt x 8 6) (fieldAt x 6 2) (fieldAt x 0 6))

/-- The rows of major 0x0C. -/
def decodeMajor0C (x : Nat) : Option Instr :=
  if bitsAt x 12 2 = 0 then some (.extf (fieldAt x 20 6) (fieldAt x 14 6) (fieldAt x 6 6) (fieldAt x 0 6)) else
  if bitsAt x 12 2 = 1 then some (.extfn (fieldAt x 20 6) (fieldAt x 14 6) (fieldAt x 6 6) (fieldAt x 0 6)) else
  if bitsAt x 12 2 = 2 then some (.insf (fieldAt x 20 6) (fieldAt x 14 6) (fieldAt x 6 6) (fieldAt x 0 6)) else
  none

/-- The rows of major 0x0D. -/
def decodeMajor0D (x : Nat) : Option Instr :=
  if bitsAt x 3 17 = 0 then some (.widf (fieldAt x 20 6) (fieldAt x 0 3)) else
  none

/-- The rows of major 0x0E. -/
def decodeMajor0E (x : Nat) : Option Instr :=
  if bitsAt x 12 8 = 0 then some (.csrr (fieldAt x 20 6) (fieldAt x 0 12)) else
  if bitsAt x 12 2 = 1 then some (.csrw (fieldAt x 20 6) (fieldAt x 14 6) (fieldAt x 0 12)) else
  if bitsAt x 12 2 = 2 then some (.csrs (fieldAt x 20 6) (fieldAt x 14 6) (fieldAt x 0 12)) else
  if bitsAt x 12 2 = 3 then some (.csrc (fieldAt x 20 6) (fieldAt x 14 6) (fieldAt x 0 12)) else
  none

/-- The rows of major 0x10. -/
def decodeMajor10 (x : Nat) : Option Instr :=
  some (.br (Cond.ofCode (bitsAt x 23 3)) (fieldAt x 17 6) (fieldAt x 11 6) (fieldAt x 0 11))

/-- The rows of major 0x11. -/
def decodeMajor11 (x : Nat) : Option Instr :=
  some (.brl (Cond.ofCode (bitsAt x 23 3)) (fieldAt x 17 6) (fieldAt x 11 6) (fieldAt x 0 11))

/-- The rows of major 0x12. -/
def decodeMajor12 (x : Nat) : Option Instr :=
  some (.bru (Cond.ofCode (bitsAt x 23 3)) (fieldAt x 17 6) (fieldAt x 11 6) (fieldAt x 0 11))

/-- The rows of major 0x13. -/
def decodeMajor13 (x : Nat) : Option Instr :=
  some (.j (fieldAt x 0 26))

/-- The rows of major 0x14. -/
def decodeMajor14 (x : Nat) : Option Instr :=
  some (.jl (fieldAt x 0 26))

/-- The rows of major 0x15. -/
def decodeMajor15 (x : Nat) : Option Instr :=
  if bitsAt x 12 6 = 0 ∧ bitsAt x 24 2 = 0 then some (.jr (fieldAt x 18 6) (fieldAt x 0 12)) else
  if bitsAt x 12 6 = 0 ∧ bitsAt x 24 2 = 1 then some (.jlr (fieldAt x 18 6) (fieldAt x 0 12)) else
  if bitsAt x 0 26 = 33554432 then some .ret else
  none

/-- The rows of major 0x16. -/
def decodeMajor16 (x : Nat) : Option Instr :=
  some (.jtab (fieldAt x 20 6) (fieldAt x 14 6) (fieldAt x 8 6) (fieldAt x 0 8))

/-- The rows of major 0x17. -/
def decodeMajor17 (x : Nat) : Option Instr :=
  if bitsAt x 12 14 = 0 then some (.land (fieldAt x 0 12)) else
  none

/-- The rows of major 0x18. -/
def decodeMajor18 (x : Nat) : Option Instr :=
  if bitsAt x 0 26 = 0 then some .sync else
  none

/-- The rows of major 0x19. -/
def decodeMajor19 (x : Nat) : Option Instr :=
  if bitsAt x 8 18 = 0 then some (.barx (fieldAt x 0 8)) else
  none

/-- The rows of major 0x1A. -/
def decodeMajor1A (x : Nat) : Option Instr :=
  if bitsAt x 16 10 = 0 then some (.trap (fieldAt x 0 16)) else
  if bitsAt x 0 26 = 8388608 then some .eret else
  if bitsAt x 0 26 = 16777216 then some .idle else
  if bitsAt x 0 26 = 25165824 then some .endTask else
  if bitsAt x 0 26 = 33554432 then some .yield else
  none

/-- The rows of major 0x1B. -/
def decodeMajor1B (x : Nat) : Option Instr :=
  if bitsAt x 0 23 = 0 then (Scope.ofCode? (bitsAt x 23 3)).bind fun s => some (.drain s) else
  none

/-- The rows of major 0x20. -/
def decodeMajor20 (x : Nat) : Option Instr :=
  some (.ld (fieldAt x 20 6) (fieldAt x 14 6) (Width.ofCode (bitsAt x 12 2)) (bitsAt x 11 1 == 1) (fieldAt x 0 11))

/-- The rows of major 0x21. -/
def decodeMajor21 (x : Nat) : Option Instr :=
  if bitsAt x 11 1 = 0 then some (.st (fieldAt x 20 6) (fieldAt x 14 6) (Width.ofCode (bitsAt x 12 2)) (fieldAt x 0 11)) else
  none

/-- The rows of major 0x22. -/
def decodeMajor22 (x : Nat) : Option Instr :=
  some (.ldg (fieldAt x 20 6) (fieldAt x 14 6) (Width.ofCode (bitsAt x 12 2)) (bitsAt x 11 1 == 1) (fieldAt x 0 11))

/-- The rows of major 0x23. -/
def decodeMajor23 (x : Nat) : Option Instr :=
  if bitsAt x 11 1 = 0 then some (.stg (fieldAt x 20 6) (fieldAt x 14 6) (Width.ofCode (bitsAt x 12 2)) (fieldAt x 0 11)) else
  none

/-- The rows of major 0x24. -/
def decodeMajor24 (x : Nat) : Option Instr :=
  some (.lda (fieldAt x 20 6) (fieldAt x 14 6) (Width.ofCode (bitsAt x 12 2)) (bitsAt x 11 1 == 1) (fieldAt x 0 11))

/-- The rows of major 0x25. -/
def decodeMajor25 (x : Nat) : Option Instr :=
  if bitsAt x 11 1 = 0 then some (.str (fieldAt x 20 6) (fieldAt x 14 6) (Width.ofCode (bitsAt x 12 2)) (fieldAt x 0 11)) else
  none

/-- The rows of major 0x26. -/
def decodeMajor26 (x : Nat) : Option Instr :=
  if bitsAt x 0 4 = 0 ∧ bitsAt x 10 4 = 0 then (Scope.ofCode? (bitsAt x 4 3)).bind fun s => some (.amoAdd (fieldAt x 20 6) (fieldAt x 14 6) (bitsAt x 9 1 == 1) (bitsAt x 8 1 == 1) (bitsAt x 7 1 == 1) s) else
  if bitsAt x 0 4 = 0 ∧ bitsAt x 10 4 = 1 then (Scope.ofCode? (bitsAt x 4 3)).bind fun s => some (.amoAnd (fieldAt x 20 6) (fieldAt x 14 6) (bitsAt x 9 1 == 1) (bitsAt x 8 1 == 1) (bitsAt x 7 1 == 1) s) else
  if bitsAt x 0 4 = 0 ∧ bitsAt x 10 4 = 2 then (Scope.ofCode? (bitsAt x 4 3)).bind fun s => some (.amoOr (fieldAt x 20 6) (fieldAt x 14 6) (bitsAt x 9 1 == 1) (bitsAt x 8 1 == 1) (bitsAt x 7 1 == 1) s) else
  if bitsAt x 0 4 = 0 ∧ bitsAt x 10 4 = 3 then (Scope.ofCode? (bitsAt x 4 3)).bind fun s => some (.amoXor (fieldAt x 20 6) (fieldAt x 14 6) (bitsAt x 9 1 == 1) (bitsAt x 8 1 == 1) (bitsAt x 7 1 == 1) s) else
  if bitsAt x 0 4 = 0 ∧ bitsAt x 10 4 = 4 then (Scope.ofCode? (bitsAt x 4 3)).bind fun s => some (.amoMin (fieldAt x 20 6) (fieldAt x 14 6) (bitsAt x 9 1 == 1) (bitsAt x 8 1 == 1) (bitsAt x 7 1 == 1) s) else
  if bitsAt x 0 4 = 0 ∧ bitsAt x 10 4 = 5 then (Scope.ofCode? (bitsAt x 4 3)).bind fun s => some (.amoMax (fieldAt x 20 6) (fieldAt x 14 6) (bitsAt x 9 1 == 1) (bitsAt x 8 1 == 1) (bitsAt x 7 1 == 1) s) else
  if bitsAt x 0 4 = 0 ∧ bitsAt x 10 4 = 6 then (Scope.ofCode? (bitsAt x 4 3)).bind fun s => some (.amoMinn (fieldAt x 20 6) (fieldAt x 14 6) (bitsAt x 9 1 == 1) (bitsAt x 8 1 == 1) (bitsAt x 7 1 == 1) s) else
  if bitsAt x 0 4 = 0 ∧ bitsAt x 10 4 = 7 then (Scope.ofCode? (bitsAt x 4 3)).bind fun s => some (.amoMaxn (fieldAt x 20 6) (fieldAt x 14 6) (bitsAt x 9 1 == 1) (bitsAt x 8 1 == 1) (bitsAt x 7 1 == 1) s) else
  if bitsAt x 0 4 = 0 ∧ bitsAt x 10 4 = 8 then (Scope.ofCode? (bitsAt x 4 3)).bind fun s => some (.amoSwp (fieldAt x 20 6) (fieldAt x 14 6) (bitsAt x 9 1 == 1) (bitsAt x 8 1 == 1) (bitsAt x 7 1 == 1) s) else
  none

/-- The rows of major 0x27. -/
def decodeMajor27 (x : Nat) : Option Instr :=
  if bitsAt x 0 2 = 0 then (Scope.ofCode? (bitsAt x 2 3)).bind fun s => some (.cas (fieldAt x 20 6) (fieldAt x 14 6) (fieldAt x 8 6) (bitsAt x 7 1 == 1) (bitsAt x 6 1 == 1) (bitsAt x 5 1 == 1) s) else
  none

/-- The rows of major 0x28. -/
def decodeMajor28 (x : Nat) : Option Instr :=
  if bitsAt x 3 5 = 0 then some (.vadd (fieldAt x 21 5) (fieldAt x 16 5) (fieldAt x 11 5) (fieldAt x 8 3) (VType.ofCode (bitsAt x 0 3))) else
  if bitsAt x 3 5 = 1 then some (.vsub (fieldAt x 21 5) (fieldAt x 16 5) (fieldAt x 11 5) (fieldAt x 8 3) (VType.ofCode (bitsAt x 0 3))) else
  if bitsAt x 3 5 = 2 then some (.vmul (fieldAt x 21 5) (fieldAt x 16 5) (fieldAt x 11 5) (fieldAt x 8 3) (VType.ofCode (bitsAt x 0 3))) else
  if bitsAt x 3 5 = 3 then some (.vmulh (fieldAt x 21 5) (fieldAt x 16 5) (fieldAt x 11 5) (fieldAt x 8 3) (VType.ofCode (bitsAt x 0 3))) else
  if bitsAt x 3 5 = 4 then some (.vmin (fieldAt x 21 5) (fieldAt x 16 5) (fieldAt x 11 5) (fieldAt x 8 3) (VType.ofCode (bitsAt x 0 3))) else
  if bitsAt x 3 5 = 5 then some (.vmax (fieldAt x 21 5) (fieldAt x 16 5) (fieldAt x 11 5) (fieldAt x 8 3) (VType.ofCode (bitsAt x 0 3))) else
  if bitsAt x 3 5 = 6 ∧ bitsAt x 11 5 = 0 then some (.vabs (fieldAt x 21 5) (fieldAt x 16 5) (fieldAt x 8 3) (VType.ofCode (bitsAt x 0 3))) else
  if bitsAt x 3 5 = 7 ∧ bitsAt x 11 5 = 0 then some (.vneg (fieldAt x 21 5) (fieldAt x 16 5) (fieldAt x 8 3) (VType.ofCode (bitsAt x 0 3))) else
  if bitsAt x 3 5 = 8 then some (.vand (fieldAt x 21 5) (fieldAt x 16 5) (fieldAt x 11 5) (fieldAt x 8 3) (VType.ofCode (bitsAt x 0 3))) else
  if bitsAt x 3 5 = 9 then some (.vor (fieldAt x 21 5) (fieldAt x 16 5) (fieldAt x 11 5) (fieldAt x 8 3) (VType.ofCode (bitsAt x 0 3))) else
  if bitsAt x 3 5 = 10 then some (.vxor (fieldAt x 21 5) (fieldAt x 16 5) (fieldAt x 11 5) (fieldAt x 8 3) (VType.ofCode (bitsAt x 0 3))) else
  if bitsAt x 3 5 = 11 then some (.vandn (fieldAt x 21 5) (fieldAt x 16 5) (fieldAt x 11 5) (fieldAt x 8 3) (VType.ofCode (bitsAt x 0 3))) else
  if bitsAt x 3 5 = 12 then some (.vshl (fieldAt x 21 5) (fieldAt x 16 5) (fieldAt x 11 5) (fieldAt x 8 3) (VType.ofCode (bitsAt x 0 3))) else
  if bitsAt x 3 5 = 13 then some (.vshr (fieldAt x 21 5) (fieldAt x 16 5) (fieldAt x 11 5) (fieldAt x 8 3) (VType.ofCode (bitsAt x 0 3))) else
  if bitsAt x 3 5 = 14 then some (.vsra (fieldAt x 21 5) (fieldAt x 16 5) (fieldAt x 11 5) (fieldAt x 8 3) (VType.ofCode (bitsAt x 0 3))) else
  if bitsAt x 3 5 = 15 then some (.vadds (fieldAt x 21 5) (fieldAt x 16 5) (fieldAt x 11 5) (fieldAt x 8 3) (VType.ofCode (bitsAt x 0 3))) else
  if bitsAt x 3 5 = 16 then some (.vsubs (fieldAt x 21 5) (fieldAt x 16 5) (fieldAt x 11 5) (fieldAt x 8 3) (VType.ofCode (bitsAt x 0 3))) else
  if bitsAt x 3 5 = 17 then some (.vabsd (fieldAt x 21 5) (fieldAt x 16 5) (fieldAt x 11 5) (fieldAt x 8 3) (VType.ofCode (bitsAt x 0 3))) else
  if bitsAt x 3 5 = 18 ∧ bitsAt x 11 5 = 0 then some (.vclz (fieldAt x 21 5) (fieldAt x 16 5) (fieldAt x 8 3) (VType.ofCode (bitsAt x 0 3))) else
  if bitsAt x 3 5 = 19 ∧ bitsAt x 11 5 = 0 then some (.vpopc (fieldAt x 21 5) (fieldAt x 16 5) (fieldAt x 8 3) (VType.ofCode (bitsAt x 0 3))) else
  if bitsAt x 3 5 = 20 then some (.vcopysign (fieldAt x 21 5) (fieldAt x 16 5) (fieldAt x 11 5) (fieldAt x 8 3) (VType.ofCode (bitsAt x 0 3))) else
  if bitsAt x 3 5 = 21 then some (.vscale (fieldAt x 21 5) (fieldAt x 16 5) (fieldAt x 11 5) (fieldAt x 8 3) (VType.ofCode (bitsAt x 0 3))) else
  none

/-- The rows of major 0x29. -/
def decodeMajor29 (x : Nat) : Option Instr :=
  if bitsAt x 3 5 = 0 then some (.vfma (fieldAt x 21 5) (fieldAt x 16 5) (fieldAt x 11 5) (fieldAt x 8 3) (VType.ofCode (bitsAt x 0 3))) else
  if bitsAt x 3 5 = 8 then some (.vfms (fieldAt x 21 5) (fieldAt x 16 5) (fieldAt x 11 5) (fieldAt x 8 3) (VType.ofCode (bitsAt x 0 3))) else
  if bitsAt x 3 5 = 16 then some (.vfnma (fieldAt x 21 5) (fieldAt x 16 5) (fieldAt x 11 5) (fieldAt x 8 3) (VType.ofCode (bitsAt x 0 3))) else
  if bitsAt x 3 5 = 24 then some (.vfnms (fieldAt x 21 5) (fieldAt x 16 5) (fieldAt x 11 5) (fieldAt x 8 3) (VType.ofCode (bitsAt x 0 3))) else
  none

/-- The rows of major 0x2A. -/
def decodeMajor2A (x : Nat) : Option Instr :=
  if bitsAt x 3 7 = 0 then some (.vcmpEq (fieldAt x 23 3) (fieldAt x 18 5) (fieldAt x 13 5) (fieldAt x 10 3) (VType.ofCode (bitsAt x 0 3))) else
  if bitsAt x 3 7 = 16 then some (.vcmpNe (fieldAt x 23 3) (fieldAt x 18 5) (fieldAt x 13 5) (fieldAt x 10 3) (VType.ofCode (bitsAt x 0 3))) else
  if bitsAt x 3 7 = 32 then some (.vcmpLt (fieldAt x 23 3) (fieldAt x 18 5) (fieldAt x 13 5) (fieldAt x 10 3) (VType.ofCode (bitsAt x 0 3))) else
  if bitsAt x 3 7 = 48 then some (.vcmpLe (fieldAt x 23 3) (fieldAt x 18 5) (fieldAt x 13 5) (fieldAt x 10 3) (VType.ofCode (bitsAt x 0 3))) else
  if bitsAt x 3 7 = 64 then some (.vcmpGt (fieldAt x 23 3) (fieldAt x 18 5) (fieldAt x 13 5) (fieldAt x 10 3) (VType.ofCode (bitsAt x 0 3))) else
  if bitsAt x 3 7 = 80 then some (.vcmpGe (fieldAt x 23 3) (fieldAt x 18 5) (fieldAt x 13 5) (fieldAt x 10 3) (VType.ofCode (bitsAt x 0 3))) else
  if bitsAt x 3 7 = 96 then some (.vcmpUn (fieldAt x 23 3) (fieldAt x 18 5) (fieldAt x 13 5) (fieldAt x 10 3) (VType.ofCode (bitsAt x 0 3))) else
  none

/-- The rows of major 0x2B. -/
def decodeMajor2B (x : Nat) : Option Instr :=
  if bitsAt x 0 5 = 0 then (EType.ofCode? (bitsAt x 9 4)).bind fun p => (EType.ofCode? (bitsAt x 5 4)).bind fun s => some (.vcvt (fieldAt x 21 5) (fieldAt x 16 5) (fieldAt x 13 3) p s) else
  none

/-- The rows of major 0x2C. -/
def decodeMajor2C (x : Nat) : Option Instr :=
  if bitsAt x 3 10 = 0 then some (.vredSum (fieldAt x 21 5) (fieldAt x 16 5) (fieldAt x 13 3) (VType.ofCode (bitsAt x 0 3))) else
  if bitsAt x 3 10 = 128 then some (.vredMax (fieldAt x 21 5) (fieldAt x 16 5) (fieldAt x 13 3) (VType.ofCode (bitsAt x 0 3))) else
  if bitsAt x 3 10 = 256 then some (.vredMin (fieldAt x 21 5) (fieldAt x 16 5) (fieldAt x 13 3) (VType.ofCode (bitsAt x 0 3))) else
  if bitsAt x 3 10 = 384 then some (.vredAnd (fieldAt x 21 5) (fieldAt x 16 5) (fieldAt x 13 3) (VType.ofCode (bitsAt x 0 3))) else
  if bitsAt x 3 10 = 512 then some (.vredOr (fieldAt x 21 5) (fieldAt x 16 5) (fieldAt x 13 3) (VType.ofCode (bitsAt x 0 3))) else
  if bitsAt x 3 10 = 640 then some (.vredXor (fieldAt x 21 5) (fieldAt x 16 5) (fieldAt x 13 3) (VType.ofCode (bitsAt x 0 3))) else
  if bitsAt x 3 10 = 768 then some (.vredSumw (fieldAt x 21 5) (fieldAt x 16 5) (fieldAt x 13 3) (VType.ofCode (bitsAt x 0 3))) else
  none

/-- The rows of major 0x2D. -/
def decodeMajor2D (x : Nat) : Option Instr :=
  if bitsAt x 5 3 = 0 then (ElemW.ofCode? (bitsAt x 3 2)).bind fun w => some (.vpermBcast (fieldAt x 21 5) (fieldAt x 16 5) (fieldAt x 11 5) (fieldAt x 8 3) w (fieldAt x 0 3)) else
  if bitsAt x 0 3 = 0 ∧ bitsAt x 5 3 = 1 ∧ bitsAt x 11 10 = 0 then (ElemW.ofCode? (bitsAt x 3 2)).bind fun w => some (.vpermIota (fieldAt x 21 5) (fieldAt x 8 3) w) else
  if bitsAt x 5 3 = 2 then (ElemW.ofCode? (bitsAt x 3 2)).bind fun w => some (.vpermSlideup (fieldAt x 21 5) (fieldAt x 16 5) (fieldAt x 11 5) (fieldAt x 8 3) w (fieldAt x 0 3)) else
  if bitsAt x 5 3 = 3 then (ElemW.ofCode? (bitsAt x 3 2)).bind fun w => some (.vpermSlidedn (fieldAt x 21 5) (fieldAt x 16 5) (fieldAt x 11 5) (fieldAt x 8 3) w (fieldAt x 0 3)) else
  if bitsAt x 0 3 = 0 ∧ bitsAt x 5 3 = 4 then (ElemW.ofCode? (bitsAt x 3 2)).bind fun w => some (.vpermPerm (fieldAt x 21 5) (fieldAt x 16 5) (fieldAt x 11 5) (fieldAt x 8 3) w) else
  if bitsAt x 0 3 = 0 ∧ bitsAt x 5 3 = 5 then (ElemW.ofCode? (bitsAt x 3 2)).bind fun w => some (.vpermZip (fieldAt x 21 5) (fieldAt x 16 5) (fieldAt x 11 5) (fieldAt x 8 3) w) else
  if bitsAt x 0 3 = 0 ∧ bitsAt x 5 3 = 6 then (ElemW.ofCode? (bitsAt x 3 2)).bind fun w => some (.vpermUnzip (fieldAt x 21 5) (fieldAt x 16 5) (fieldAt x 11 5) (fieldAt x 8 3) w) else
  if bitsAt x 0 3 = 0 ∧ bitsAt x 5 3 = 7 ∧ bitsAt x 11 5 = 0 then (ElemW.ofCode? (bitsAt x 3 2)).bind fun w => some (.vpermRev (fieldAt x 21 5) (fieldAt x 16 5) (fieldAt x 8 3) w) else
  none

/-- The rows of major 0x2E. -/
def decodeMajor2E (x : Nat) : Option Instr :=
  if bitsAt x 3 10 = 0 then some (.vmathExp2 (fieldAt x 21 5) (fieldAt x 16 5) (fieldAt x 13 3) (VType.ofCode (bitsAt x 0 3))) else
  if bitsAt x 3 10 = 128 then some (.vmathLog2 (fieldAt x 21 5) (fieldAt x 16 5) (fieldAt x 13 3) (VType.ofCode (bitsAt x 0 3))) else
  if bitsAt x 3 10 = 256 then some (.vmathRcp (fieldAt x 21 5) (fieldAt x 16 5) (fieldAt x 13 3) (VType.ofCode (bitsAt x 0 3))) else
  if bitsAt x 3 10 = 384 then some (.vmathRsqrt (fieldAt x 21 5) (fieldAt x 16 5) (fieldAt x 13 3) (VType.ofCode (bitsAt x 0 3))) else
  if bitsAt x 3 10 = 512 then some (.vmathTanh (fieldAt x 21 5) (fieldAt x 16 5) (fieldAt x 13 3) (VType.ofCode (bitsAt x 0 3))) else
  if bitsAt x 3 10 = 640 then some (.vmathSqrt (fieldAt x 21 5) (fieldAt x 16 5) (fieldAt x 13 3) (VType.ofCode (bitsAt x 0 3))) else
  none

/-- The rows of major 0x2F. -/
def decodeMajor2F (x : Nat) : Option Instr :=
  if bitsAt x 0 11 = 0 ∧ bitsAt x 20 6 = 0 then some (.mand (fieldAt x 17 3) (fieldAt x 14 3) (fieldAt x 11 3)) else
  if bitsAt x 0 11 = 256 ∧ bitsAt x 20 6 = 0 then some (.mor (fieldAt x 17 3) (fieldAt x 14 3) (fieldAt x 11 3)) else
  if bitsAt x 0 11 = 512 ∧ bitsAt x 20 6 = 0 then some (.mxor (fieldAt x 17 3) (fieldAt x 14 3) (fieldAt x 11 3)) else
  if bitsAt x 0 14 = 768 ∧ bitsAt x 20 6 = 0 then some (.mnot (fieldAt x 17 3) (fieldAt x 14 3)) else
  if bitsAt x 0 14 = 1024 ∧ bitsAt x 17 3 = 0 then some (.mcnt (fieldAt x 20 6) (fieldAt x 14 3)) else
  if bitsAt x 0 14 = 1280 ∧ bitsAt x 17 3 = 0 then some (.mfirst (fieldAt x 20 6) (fieldAt x 14 3)) else
  if bitsAt x 0 17 = 1536 then some (.mset (fieldAt x 20 6) (fieldAt x 17 3)) else
  none

/-- The rows of major 0x30. -/
def decodeMajor30 (x : Nat) : Option Instr :=
  if bitsAt x 0 8 = 0 then some (.vsel (fieldAt x 21 5) (fieldAt x 16 5) (fieldAt x 11 5) (fieldAt x 8 3)) else
  none

/-- The rows of major 0x31. -/
def decodeMajor31 (x : Nat) : Option Instr :=
  if bitsAt x 24 2 = 0 then some (.vins (fieldAt x 19 5) (fieldAt x 13 6) (Width.ofCode (bitsAt x 11 2)) (fieldAt x 0 11)) else
  if bitsAt x 24 2 = 1 then some (.vext (fieldAt x 19 5) (fieldAt x 13 6) (Width.ofCode (bitsAt x 11 2)) (fieldAt x 0 11)) else
  if bitsAt x 0 14 = 0 ∧ bitsAt x 24 2 = 2 then some (.vmv (fieldAt x 19 5) (fieldAt x 14 5)) else
  if bitsAt x 6 7 = 0 ∧ bitsAt x 24 2 = 3 then some (.vscRd (fieldAt x 19 5) (fieldAt x 13 6) (fieldAt x 0 6)) else
  if bitsAt x 6 7 = 32 ∧ bitsAt x 24 2 = 3 then some (.vscWr (fieldAt x 19 5) (fieldAt x 13 6) (fieldAt x 0 6)) else
  none

/-- The rows of major 0x32. -/
def decodeMajor32 (x : Nat) : Option Instr :=
  if bitsAt x 0 8 = 0 ∧ bitsAt x 11 5 = 0 then some (.vblkBexp (fieldAt x 21 5) (fieldAt x 16 5) (fieldAt x 8 3)) else
  if bitsAt x 0 8 = 32 then some (.vblkAnc (fieldAt x 21 5) (fieldAt x 16 5) (fieldAt x 11 5) (fieldAt x 8 3)) else
  if bitsAt x 0 8 = 64 ∧ bitsAt x 11 5 = 0 then some (.vblkUnanc (fieldAt x 21 5) (fieldAt x 16 5) (fieldAt x 8 3)) else
  if bitsAt x 5 3 = 3 then some (.vblkPlpack (fieldAt x 21 5) (fieldAt x 16 5) (fieldAt x 11 5) (fieldAt x 8 3) (fieldAt x 0 5)) else
  if bitsAt x 5 3 = 4 ∧ bitsAt x 11 5 = 0 then some (.vblkPlunpk (fieldAt x 21 5) (fieldAt x 16 5) (fieldAt x 8 3) (fieldAt x 0 5)) else
  if bitsAt x 0 8 = 160 ∧ bitsAt x 11 5 = 0 then some (.vblkBscale (fieldAt x 21 5) (fieldAt x 16 5) (fieldAt x 8 3)) else
  none

/-- The rows of major 0x33. -/
def decodeMajor33 (x : Nat) : Option Instr :=
  if bitsAt x 3 10 = 0 then some (.vscanSumi (fieldAt x 21 5) (fieldAt x 16 5) (fieldAt x 13 3) (VType.ofCode (bitsAt x 0 3))) else
  if bitsAt x 3 10 = 128 then some (.vscanSumf (fieldAt x 21 5) (fieldAt x 16 5) (fieldAt x 13 3) (VType.ofCode (bitsAt x 0 3))) else
  if bitsAt x 3 10 = 256 then some (.vscanMax (fieldAt x 21 5) (fieldAt x 16 5) (fieldAt x 13 3) (VType.ofCode (bitsAt x 0 3))) else
  none

/-- The rows of major 0x34. -/
def decodeMajor34 (x : Nat) : Option Instr :=
  (EType.ofCode? (bitsAt x 8 4)).bind fun t => some (.vld (fieldAt x 21 5) (fieldAt x 15 6) (fieldAt x 12 3) t (fieldAt x 0 8))

/-- The rows of major 0x35. -/
def decodeMajor35 (x : Nat) : Option Instr :=
  (EType.ofCode? (bitsAt x 8 4)).bind fun t => some (.vst (fieldAt x 21 5) (fieldAt x 15 6) (fieldAt x 12 3) t (fieldAt x 0 8))

/-- The rows of major 0x36. -/
def decodeMajor36 (x : Nat) : Option Instr :=
  if bitsAt x 0 3 = 0 then (EType.ofCode? (bitsAt x 3 4)).bind fun t => some (.vgath (fieldAt x 21 5) (fieldAt x 15 6) (fieldAt x 10 5) (fieldAt x 7 3) t) else
  none

/-- The rows of major 0x37. -/
def decodeMajor37 (x : Nat) : Option Instr :=
  if bitsAt x 0 3 = 0 then (EType.ofCode? (bitsAt x 3 4)).bind fun t => some (.vscat (fieldAt x 21 5) (fieldAt x 15 6) (fieldAt x 10 5) (fieldAt x 7 3) t) else
  none

/-- The rows of major 0x38. -/
def decodeMajor38 (x : Nat) : Option Instr :=
  if bitsAt x 0 11 = 0 then some (.mpush (fieldAt x 21 5) (fieldAt x 18 3) (fieldAt x 11 7)) else
  none

/-- The rows of major 0x39. -/
def decodeMajor39 (x : Nat) : Option Instr :=
  if bitsAt x 0 26 = 0 then some .mswap else
  if bitsAt x 0 14 = 0 ∧ bitsAt x 24 2 = 1 then (MatMode.ofCode? (bitsAt x 20 4)).bind fun m => some (.mmode m (fieldAt x 16 4) (bitsAt x 15 1 == 1) (bitsAt x 14 1 == 1)) else
  if bitsAt x 16 10 = 512 then some (.mzero (fieldAt x 8 8) (fieldAt x 0 8)) else
  none

/-- The rows of major 0x3A. -/
def decodeMajor3A (x : Nat) : Option Instr :=
  if bitsAt x 0 10 = 0 then some (.macc (fieldAt x 21 5) (fieldAt x 18 3) (fieldAt x 10 8)) else
  none

/-- The rows of major 0x3B. -/
def decodeMajor3B (x : Nat) : Option Instr :=
  if bitsAt x 0 10 = 0 ∧ bitsAt x 25 1 = 0 then some (.mdrain (fieldAt x 20 5) (fieldAt x 18 2) (fieldAt x 10 8)) else
  if bitsAt x 0 10 = 0 ∧ bitsAt x 25 1 = 1 then some (.mdrainz (fieldAt x 20 5) (fieldAt x 18 2) (fieldAt x 10 8)) else
  none

/-- The rows of major 0x3C. -/
def decodeMajor3C (x : Nat) : Option Instr :=
  if bitsAt x 9 1 = 0 ∧ bitsAt x 22 4 = 0 then some (.cpy (fieldAt x 16 6) (fieldAt x 10 6) (fieldAt x 5 4) (fieldAt x 0 5)) else
  if bitsAt x 10 6 = 0 ∧ bitsAt x 22 4 = 1 then some (.press (fieldAt x 16 6) (fieldAt x 5 5) (fieldAt x 0 5)) else
  if bitsAt x 0 5 = 0 ∧ bitsAt x 22 4 = 2 then some (.stash (fieldAt x 16 6) (fieldAt x 10 6) (fieldAt x 5 5)) else
  if bitsAt x 5 11 = 0 ∧ bitsAt x 22 4 = 3 then some (.fetch (fieldAt x 16 6) (fieldAt x 0 5)) else
  if bitsAt x 0 16 = 0 ∧ bitsAt x 22 4 = 4 then some (.drop (fieldAt x 16 6)) else
  if bitsAt x 0 5 = 0 ∧ bitsAt x 10 4 = 0 ∧ bitsAt x 22 4 = 5 then some (.send (fieldAt x 14 8) (fieldAt x 5 5)) else
  if bitsAt x 0 10 = 0 ∧ bitsAt x 22 4 = 6 then some (.arm (fieldAt x 16 6) (fieldAt x 10 6)) else
  if bitsAt x 0 10 = 0 ∧ bitsAt x 22 4 = 7 then some (.ctradd (fieldAt x 16 6) (fieldAt x 10 6)) else
  if bitsAt x 0 10 = 0 ∧ bitsAt x 22 4 = 8 then some (.rmap (fieldAt x 16 6) (fieldAt x 10 6)) else
  if bitsAt x 0 16 = 0 ∧ bitsAt x 22 4 = 9 then some (.rflush (fieldAt x 16 6)) else
  if bitsAt x 0 16 = 0 ∧ bitsAt x 22 4 = 10 then some (.rinv (fieldAt x 16 6)) else
  none

/-- The rows of major 0x3D. -/
def decodeMajor3D (x : Nat) : Option Instr :=
  if bitsAt x 0 18 = 0 ∧ bitsAt x 23 3 = 0 then some (.waitf (fieldAt x 18 5)) else
  if bitsAt x 0 18 = 0 ∧ bitsAt x 23 3 = 1 then some (.rels (fieldAt x 18 5)) else
  if bitsAt x 0 18 = 0 ∧ bitsAt x 23 3 = 2 then some (.radv (fieldAt x 18 5)) else
  if bitsAt x 0 18 = 0 ∧ bitsAt x 23 3 = 3 then some (.waitr (fieldAt x 18 5)) else
  if bitsAt x 0 12 = 0 ∧ bitsAt x 18 8 = 128 then some (.own (fieldAt x 12 6)) else
  if bitsAt x 0 26 = 41943040 then some .vjoin else
  if bitsAt x 0 12 = 0 ∧ bitsAt x 23 3 = 6 then some (.rinit (fieldAt x 18 5) (fieldAt x 12 6)) else
  none

/-- The rows of major 0x3E. -/
def decodeMajor3E (x : Nat) : Option Instr :=
  if bitsAt x 0 18 = 0 ∧ bitsAt x 24 2 = 0 then some (.arrive (fieldAt x 18 6)) else
  if bitsAt x 0 12 = 0 ∧ bitsAt x 24 2 = 1 then some (.arriveb (fieldAt x 18 6) (fieldAt x 12 6)) else
  if bitsAt x 0 11 = 0 ∧ bitsAt x 12 6 = 0 ∧ bitsAt x 24 2 = 2 then some (.waitph (fieldAt x 18 6) (bitsAt x 11 1 == 1)) else
  none

/-- The instruction of a slot's 32 bits w by the fixed bits of its row, before the limits of field values
(03 R94, R98 to R101). -/
def decodeRow (w : Nat) : Option Instr :=
  match bitsAt w 26 6 with
  | 0 => decodeMajor00 w
  | 1 => decodeMajor01 w
  | 2 => decodeMajor02 w
  | 3 => decodeMajor03 w
  | 4 => decodeMajor04 w
  | 5 => decodeMajor05 w
  | 6 => decodeMajor06 w
  | 7 => decodeMajor07 w
  | 8 => decodeMajor08 w
  | 9 => decodeMajor09 w
  | 10 => decodeMajor0A w
  | 11 => decodeMajor0B w
  | 12 => decodeMajor0C w
  | 13 => decodeMajor0D w
  | 14 => decodeMajor0E w
  | 16 => decodeMajor10 w
  | 17 => decodeMajor11 w
  | 18 => decodeMajor12 w
  | 19 => decodeMajor13 w
  | 20 => decodeMajor14 w
  | 21 => decodeMajor15 w
  | 22 => decodeMajor16 w
  | 23 => decodeMajor17 w
  | 24 => decodeMajor18 w
  | 25 => decodeMajor19 w
  | 26 => decodeMajor1A w
  | 27 => decodeMajor1B w
  | 32 => decodeMajor20 w
  | 33 => decodeMajor21 w
  | 34 => decodeMajor22 w
  | 35 => decodeMajor23 w
  | 36 => decodeMajor24 w
  | 37 => decodeMajor25 w
  | 38 => decodeMajor26 w
  | 39 => decodeMajor27 w
  | 40 => decodeMajor28 w
  | 41 => decodeMajor29 w
  | 42 => decodeMajor2A w
  | 43 => decodeMajor2B w
  | 44 => decodeMajor2C w
  | 45 => decodeMajor2D w
  | 46 => decodeMajor2E w
  | 47 => decodeMajor2F w
  | 48 => decodeMajor30 w
  | 49 => decodeMajor31 w
  | 50 => decodeMajor32 w
  | 51 => decodeMajor33 w
  | 52 => decodeMajor34 w
  | 53 => decodeMajor35 w
  | 54 => decodeMajor36 w
  | 55 => decodeMajor37 w
  | 56 => decodeMajor38 w
  | 57 => decodeMajor39 w
  | 58 => decodeMajor3A w
  | 59 => decodeMajor3B w
  | 60 => decodeMajor3C w
  | 61 => decodeMajor3D w
  | 62 => decodeMajor3E w
  | _ => none
/-- The 32 bits of a slot operation, from the same encoding tables (03 R94 to R101); none for an event, which no
word encodes. -/
def encodeNat : Instr → Option Nat
  | .nop => some (0)
  | .add d a b w => some (67108864 + d.toNat * 1048576 + a.toNat * 16384 + b.toNat * 256 + w.toNat * 128)
  | .sub d a b w => some (67108865 + d.toNat * 1048576 + a.toNat * 16384 + b.toNat * 256 + w.toNat * 128)
  | .and d a b => some (67108866 + d.toNat * 1048576 + a.toNat * 16384 + b.toNat * 256)
  | .or d a b => some (67108867 + d.toNat * 1048576 + a.toNat * 16384 + b.toNat * 256)
  | .xor d a b => some (67108868 + d.toNat * 1048576 + a.toNat * 16384 + b.toNat * 256)
  | .andn d a b => some (67108869 + d.toNat * 1048576 + a.toNat * 16384 + b.toNat * 256)
  | .orn d a b => some (67108870 + d.toNat * 1048576 + a.toNat * 16384 + b.toNat * 256)
  | .shl d a b w => some (67108871 + d.toNat * 1048576 + a.toNat * 16384 + b.toNat * 256 + w.toNat * 128)
  | .shr d a b w => some (67108872 + d.toNat * 1048576 + a.toNat * 16384 + b.toNat * 256 + w.toNat * 128)
  | .sra d a b w => some (67108873 + d.toNat * 1048576 + a.toNat * 16384 + b.toNat * 256 + w.toNat * 128)
  | .rot d a b => some (67108874 + d.toNat * 1048576 + a.toNat * 16384 + b.toNat * 256)
  | .slt d a b => some (67108875 + d.toNat * 1048576 + a.toNat * 16384 + b.toNat * 256)
  | .sltn d a b => some (67108876 + d.toNat * 1048576 + a.toNat * 16384 + b.toNat * 256)
  | .seq d a b => some (67108877 + d.toNat * 1048576 + a.toNat * 16384 + b.toNat * 256)
  | .min d a b => some (67108878 + d.toNat * 1048576 + a.toNat * 16384 + b.toNat * 256)
  | .max d a b => some (67108879 + d.toNat * 1048576 + a.toNat * 16384 + b.toNat * 256)
  | .minn d a b => some (67108880 + d.toNat * 1048576 + a.toNat * 16384 + b.toNat * 256)
  | .maxn d a b => some (67108881 + d.toNat * 1048576 + a.toNat * 16384 + b.toNat * 256)
  | .mul d a b w => some (67108882 + d.toNat * 1048576 + a.toNat * 16384 + b.toNat * 256 + w.toNat * 128)
  | .mulh d a b => some (67108883 + d.toNat * 1048576 + a.toNat * 16384 + b.toNat * 256)
  | .mulhn d a b => some (67108884 + d.toNat * 1048576 + a.toNat * 16384 + b.toNat * 256)
  | .div d a b w => some (67108885 + d.toNat * 1048576 + a.toNat * 16384 + b.toNat * 256 + w.toNat * 128)
  | .divn d a b w => some (67108886 + d.toNat * 1048576 + a.toNat * 16384 + b.toNat * 256 + w.toNat * 128)
  | .rem d a b w => some (67108887 + d.toNat * 1048576 + a.toNat * 16384 + b.toNat * 256 + w.toNat * 128)
  | .remn d a b w => some (67108888 + d.toNat * 1048576 + a.toNat * 16384 + b.toNat * 256 + w.toNat * 128)
  | .clz d a => some (67108889 + d.toNat * 1048576 + a.toNat * 16384)
  | .ctz d a => some (67108890 + d.toNat * 1048576 + a.toNat * 16384)
  | .popc d a => some (67108891 + d.toNat * 1048576 + a.toNat * 16384)
  | .bswap d a => some (67108892 + d.toNat * 1048576 + a.toNat * 16384)
  | .sel d a b => some (67108893 + d.toNat * 1048576 + a.toNat * 16384 + b.toNat * 256)
  | .addi d a i => some (134217728 + d.toNat * 1048576 + a.toNat * 16384 + i.toNat)
  | .andi d a i => some (201326592 + d.toNat * 1048576 + a.toNat * 16384 + i.toNat)
  | .ori d a i => some (268435456 + d.toNat * 1048576 + a.toNat * 16384 + i.toNat)
  | .xori d a i => some (335544320 + d.toNat * 1048576 + a.toNat * 16384 + i.toNat)
  | .slti d a i => some (469762048 + d.toNat * 1048576 + a.toNat * 16384 + i.toNat)
  | .sltni d a i => some (536870912 + d.toNat * 1048576 + a.toNat * 16384 + i.toNat)
  | .shli d a w n => some (402653184 + d.toNat * 1048576 + a.toNat * 16384 + w.toNat * 64 + n.toNat)
  | .shri d a w n => some (402657280 + d.toNat * 1048576 + a.toNat * 16384 + w.toNat * 64 + n.toNat)
  | .srai d a w n => some (402661376 + d.toNat * 1048576 + a.toNat * 16384 + w.toNat * 64 + n.toNat)
  | .roti d a w n => some (402665472 + d.toNat * 1048576 + a.toNat * 16384 + w.toNat * 64 + n.toNat)
  | .li d i => some (603979776 + d.toNat * 1048576 + i.toNat)
  | .lih d i => some (671088640 + d.toNat * 1048576 + i.toNat)
  | .lea d a b s i => some (738197504 + d.toNat * 1048576 + a.toNat * 16384 + b.toNat * 256 + s.toNat * 64 + i.toNat)
  | .extf d a p l => some (805306368 + d.toNat * 1048576 + a.toNat * 16384 + p.toNat * 64 + l.toNat)
  | .extfn d a p l => some (805310464 + d.toNat * 1048576 + a.toNat * 16384 + p.toNat * 64 + l.toNat)
  | .insf d a p l => some (805314560 + d.toNat * 1048576 + a.toNat * 16384 + p.toNat * 64 + l.toNat)
  | .widf d f => some (872415232 + d.toNat * 1048576 + f.toNat)
  | .csrr d n => some (939524096 + d.toNat * 1048576 + n.toNat)
  | .csrw d a n => some (939528192 + d.toNat * 1048576 + a.toNat * 16384 + n.toNat)
  | .csrs d a n => some (939532288 + d.toNat * 1048576 + a.toNat * 16384 + n.toNat)
  | .csrc d a n => some (939536384 + d.toNat * 1048576 + a.toNat * 16384 + n.toNat)
  | .br c a b i => some (1073741824 + c.code * 8388608 + a.toNat * 131072 + b.toNat * 2048 + i.toNat)
  | .brl c a b i => some (1140850688 + c.code * 8388608 + a.toNat * 131072 + b.toNat * 2048 + i.toNat)
  | .bru c a b i => some (1207959552 + c.code * 8388608 + a.toNat * 131072 + b.toNat * 2048 + i.toNat)
  | .j i => some (1275068416 + i.toNat)
  | .jl i => some (1342177280 + i.toNat)
  | .jr a p => some (1409286144 + a.toNat * 262144 + p.toNat)
  | .jlr a p => some (1426063360 + a.toNat * 262144 + p.toNat)
  | .ret => some (1442840576)
  | .jtab i t b p => some (1476395008 + i.toNat * 1048576 + t.toNat * 16384 + b.toNat * 256 + p.toNat)
  | .land p => some (1543503872 + p.toNat)
  | .sync => some (1610612736)
  | .barx c => some (1677721600 + c.toNat)
  | .trap i => some (1744830464 + i.toNat)
  | .eret => some (1753219072)
  | .idle => some (1761607680)
  | .endTask => some (1769996288)
  | .yield => some (1778384896)
  | .drain s => some (1811939328 + s.code * 8388608)
  | .ld r b w n o => some (2147483648 + r.toNat * 1048576 + b.toNat * 16384 + w.code * 4096 + n.toNat * 2048 + o.toNat)
  | .st r b w o => some (2214592512 + r.toNat * 1048576 + b.toNat * 16384 + w.code * 4096 + o.toNat)
  | .ldg r b w n o => some (2281701376 + r.toNat * 1048576 + b.toNat * 16384 + w.code * 4096 + n.toNat * 2048 + o.toNat)
  | .stg r b w o => some (2348810240 + r.toNat * 1048576 + b.toNat * 16384 + w.code * 4096 + o.toNat)
  | .lda r b w n o => some (2415919104 + r.toNat * 1048576 + b.toNat * 16384 + w.code * 4096 + n.toNat * 2048 + o.toNat)
  | .str r b w o => some (2483027968 + r.toNat * 1048576 + b.toNat * 16384 + w.code * 4096 + o.toNat)
  | .amoAdd d b w q e s => some (2550136832 + d.toNat * 1048576 + b.toNat * 16384 + w.toNat * 512 + q.toNat * 256 + e.toNat * 128 + s.code * 16)
  | .amoAnd d b w q e s => some (2550137856 + d.toNat * 1048576 + b.toNat * 16384 + w.toNat * 512 + q.toNat * 256 + e.toNat * 128 + s.code * 16)
  | .amoOr d b w q e s => some (2550138880 + d.toNat * 1048576 + b.toNat * 16384 + w.toNat * 512 + q.toNat * 256 + e.toNat * 128 + s.code * 16)
  | .amoXor d b w q e s => some (2550139904 + d.toNat * 1048576 + b.toNat * 16384 + w.toNat * 512 + q.toNat * 256 + e.toNat * 128 + s.code * 16)
  | .amoMin d b w q e s => some (2550140928 + d.toNat * 1048576 + b.toNat * 16384 + w.toNat * 512 + q.toNat * 256 + e.toNat * 128 + s.code * 16)
  | .amoMax d b w q e s => some (2550141952 + d.toNat * 1048576 + b.toNat * 16384 + w.toNat * 512 + q.toNat * 256 + e.toNat * 128 + s.code * 16)
  | .amoMinn d b w q e s => some (2550142976 + d.toNat * 1048576 + b.toNat * 16384 + w.toNat * 512 + q.toNat * 256 + e.toNat * 128 + s.code * 16)
  | .amoMaxn d b w q e s => some (2550144000 + d.toNat * 1048576 + b.toNat * 16384 + w.toNat * 512 + q.toNat * 256 + e.toNat * 128 + s.code * 16)
  | .amoSwp d b w q e s => some (2550145024 + d.toNat * 1048576 + b.toNat * 16384 + w.toNat * 512 + q.toNat * 256 + e.toNat * 128 + s.code * 16)
  | .cas d b c w q e s => some (2617245696 + d.toNat * 1048576 + b.toNat * 16384 + c.toNat * 256 + w.toNat * 128 + q.toNat * 64 + e.toNat * 32 + s.code * 4)
  | .vadd d a b m t => some (2684354560 + d.toNat * 2097152 + a.toNat * 65536 + b.toNat * 2048 + m.toNat * 256 + t.code)
  | .vsub d a b m t => some (2684354568 + d.toNat * 2097152 + a.toNat * 65536 + b.toNat * 2048 + m.toNat * 256 + t.code)
  | .vmul d a b m t => some (2684354576 + d.toNat * 2097152 + a.toNat * 65536 + b.toNat * 2048 + m.toNat * 256 + t.code)
  | .vmulh d a b m t => some (2684354584 + d.toNat * 2097152 + a.toNat * 65536 + b.toNat * 2048 + m.toNat * 256 + t.code)
  | .vmin d a b m t => some (2684354592 + d.toNat * 2097152 + a.toNat * 65536 + b.toNat * 2048 + m.toNat * 256 + t.code)
  | .vmax d a b m t => some (2684354600 + d.toNat * 2097152 + a.toNat * 65536 + b.toNat * 2048 + m.toNat * 256 + t.code)
  | .vabs d a m t => some (2684354608 + d.toNat * 2097152 + a.toNat * 65536 + m.toNat * 256 + t.code)
  | .vneg d a m t => some (2684354616 + d.toNat * 2097152 + a.toNat * 65536 + m.toNat * 256 + t.code)
  | .vand d a b m t => some (2684354624 + d.toNat * 2097152 + a.toNat * 65536 + b.toNat * 2048 + m.toNat * 256 + t.code)
  | .vor d a b m t => some (2684354632 + d.toNat * 2097152 + a.toNat * 65536 + b.toNat * 2048 + m.toNat * 256 + t.code)
  | .vxor d a b m t => some (2684354640 + d.toNat * 2097152 + a.toNat * 65536 + b.toNat * 2048 + m.toNat * 256 + t.code)
  | .vandn d a b m t => some (2684354648 + d.toNat * 2097152 + a.toNat * 65536 + b.toNat * 2048 + m.toNat * 256 + t.code)
  | .vshl d a b m t => some (2684354656 + d.toNat * 2097152 + a.toNat * 65536 + b.toNat * 2048 + m.toNat * 256 + t.code)
  | .vshr d a b m t => some (2684354664 + d.toNat * 2097152 + a.toNat * 65536 + b.toNat * 2048 + m.toNat * 256 + t.code)
  | .vsra d a b m t => some (2684354672 + d.toNat * 2097152 + a.toNat * 65536 + b.toNat * 2048 + m.toNat * 256 + t.code)
  | .vadds d a b m t => some (2684354680 + d.toNat * 2097152 + a.toNat * 65536 + b.toNat * 2048 + m.toNat * 256 + t.code)
  | .vsubs d a b m t => some (2684354688 + d.toNat * 2097152 + a.toNat * 65536 + b.toNat * 2048 + m.toNat * 256 + t.code)
  | .vabsd d a b m t => some (2684354696 + d.toNat * 2097152 + a.toNat * 65536 + b.toNat * 2048 + m.toNat * 256 + t.code)
  | .vclz d a m t => some (2684354704 + d.toNat * 2097152 + a.toNat * 65536 + m.toNat * 256 + t.code)
  | .vpopc d a m t => some (2684354712 + d.toNat * 2097152 + a.toNat * 65536 + m.toNat * 256 + t.code)
  | .vcopysign d a b m t => some (2684354720 + d.toNat * 2097152 + a.toNat * 65536 + b.toNat * 2048 + m.toNat * 256 + t.code)
  | .vscale d a b m t => some (2684354728 + d.toNat * 2097152 + a.toNat * 65536 + b.toNat * 2048 + m.toNat * 256 + t.code)
  | .vfma d a b m t => some (2751463424 + d.toNat * 2097152 + a.toNat * 65536 + b.toNat * 2048 + m.toNat * 256 + t.code)
  | .vfms d a b m t => some (2751463488 + d.toNat * 2097152 + a.toNat * 65536 + b.toNat * 2048 + m.toNat * 256 + t.code)
  | .vfnma d a b m t => some (2751463552 + d.toNat * 2097152 + a.toNat * 65536 + b.toNat * 2048 + m.toNat * 256 + t.code)
  | .vfnms d a b m t => some (2751463616 + d.toNat * 2097152 + a.toNat * 65536 + b.toNat * 2048 + m.toNat * 256 + t.code)
  | .vcmpEq m a b k t => some (2818572288 + m.toNat * 8388608 + a.toNat * 262144 + b.toNat * 8192 + k.toNat * 1024 + t.code)
  | .vcmpNe m a b k t => some (2818572416 + m.toNat * 8388608 + a.toNat * 262144 + b.toNat * 8192 + k.toNat * 1024 + t.code)
  | .vcmpLt m a b k t => some (2818572544 + m.toNat * 8388608 + a.toNat * 262144 + b.toNat * 8192 + k.toNat * 1024 + t.code)
  | .vcmpLe m a b k t => some (2818572672 + m.toNat * 8388608 + a.toNat * 262144 + b.toNat * 8192 + k.toNat * 1024 + t.code)
  | .vcmpGt m a b k t => some (2818572800 + m.toNat * 8388608 + a.toNat * 262144 + b.toNat * 8192 + k.toNat * 1024 + t.code)
  | .vcmpGe m a b k t => some (2818572928 + m.toNat * 8388608 + a.toNat * 262144 + b.toNat * 8192 + k.toNat * 1024 + t.code)
  | .vcmpUn m a b k t => some (2818573056 + m.toNat * 8388608 + a.toNat * 262144 + b.toNat * 8192 + k.toNat * 1024 + t.code)
  | .vcvt d a m p s => some (2885681152 + d.toNat * 2097152 + a.toNat * 65536 + m.toNat * 8192 + p.code * 512 + s.code * 32)
  | .vredSum d a m t => some (2952790016 + d.toNat * 2097152 + a.toNat * 65536 + m.toNat * 8192 + t.code)
  | .vredMax d a m t => some (2952791040 + d.toNat * 2097152 + a.toNat * 65536 + m.toNat * 8192 + t.code)
  | .vredMin d a m t => some (2952792064 + d.toNat * 2097152 + a.toNat * 65536 + m.toNat * 8192 + t.code)
  | .vredAnd d a m t => some (2952793088 + d.toNat * 2097152 + a.toNat * 65536 + m.toNat * 8192 + t.code)
  | .vredOr d a m t => some (2952794112 + d.toNat * 2097152 + a.toNat * 65536 + m.toNat * 8192 + t.code)
  | .vredXor d a m t => some (2952795136 + d.toNat * 2097152 + a.toNat * 65536 + m.toNat * 8192 + t.code)
  | .vredSumw d a m t => some (2952796160 + d.toNat * 2097152 + a.toNat * 65536 + m.toNat * 8192 + t.code)
  | .vpermBcast d a h m w l => some (3019898880 + d.toNat * 2097152 + a.toNat * 65536 + h.toNat * 2048 + m.toNat * 256 + w.code * 8 + l.toNat)
  | .vpermIota d m w => some (3019898912 + d.toNat * 2097152 + m.toNat * 256 + w.code * 8)
  | .vpermSlideup d a h m w l => some (3019898944 + d.toNat * 2097152 + a.toNat * 65536 + h.toNat * 2048 + m.toNat * 256 + w.code * 8 + l.toNat)
  | .vpermSlidedn d a h m w l => some (3019898976 + d.toNat * 2097152 + a.toNat * 65536 + h.toNat * 2048 + m.toNat * 256 + w.code * 8 + l.toNat)
  | .vpermPerm d a b m w => some (3019899008 + d.toNat * 2097152 + a.toNat * 65536 + b.toNat * 2048 + m.toNat * 256 + w.code * 8)
  | .vpermZip d a b m w => some (3019899040 + d.toNat * 2097152 + a.toNat * 65536 + b.toNat * 2048 + m.toNat * 256 + w.code * 8)
  | .vpermUnzip d a b m w => some (3019899072 + d.toNat * 2097152 + a.toNat * 65536 + b.toNat * 2048 + m.toNat * 256 + w.code * 8)
  | .vpermRev d a m w => some (3019899104 + d.toNat * 2097152 + a.toNat * 65536 + m.toNat * 256 + w.code * 8)
  | .vmathExp2 d a m t => some (3087007744 + d.toNat * 2097152 + a.toNat * 65536 + m.toNat * 8192 + t.code)
  | .vmathLog2 d a m t => some (3087008768 + d.toNat * 2097152 + a.toNat * 65536 + m.toNat * 8192 + t.code)
  | .vmathRcp d a m t => some (3087009792 + d.toNat * 2097152 + a.toNat * 65536 + m.toNat * 8192 + t.code)
  | .vmathRsqrt d a m t => some (3087010816 + d.toNat * 2097152 + a.toNat * 65536 + m.toNat * 8192 + t.code)
  | .vmathTanh d a m t => some (3087011840 + d.toNat * 2097152 + a.toNat * 65536 + m.toNat * 8192 + t.code)
  | .vmathSqrt d a m t => some (3087012864 + d.toNat * 2097152 + a.toNat * 65536 + m.toNat * 8192 + t.code)
  | .mand d a b => some (3154116608 + d.toNat * 131072 + a.toNat * 16384 + b.toNat * 2048)
  | .mor d a b => some (3154116864 + d.toNat * 131072 + a.toNat * 16384 + b.toNat * 2048)
  | .mxor d a b => some (3154117120 + d.toNat * 131072 + a.toNat * 16384 + b.toNat * 2048)
  | .mnot d a => some (3154117376 + d.toNat * 131072 + a.toNat * 16384)
  | .mcnt s a => some (3154117632 + s.toNat * 1048576 + a.toNat * 16384)
  | .mfirst s a => some (3154117888 + s.toNat * 1048576 + a.toNat * 16384)
  | .mset s d => some (3154118144 + s.toNat * 1048576 + d.toNat * 131072)
  | .vsel d a b m => some (3221225472 + d.toNat * 2097152 + a.toNat * 65536 + b.toNat * 2048 + m.toNat * 256)
  | .vins v s w i => some (3288334336 + v.toNat * 524288 + s.toNat * 8192 + w.code * 2048 + i.toNat)
  | .vext v s w i => some (3305111552 + v.toNat * 524288 + s.toNat * 8192 + w.code * 2048 + i.toNat)
  | .vmv d a => some (3321888768 + d.toNat * 524288 + a.toNat * 16384)
  | .vscRd v s i => some (3338665984 + v.toNat * 524288 + s.toNat * 8192 + i.toNat)
  | .vscWr v s i => some (3338668032 + v.toNat * 524288 + s.toNat * 8192 + i.toNat)
  | .vblkBexp d a m => some (3355443200 + d.toNat * 2097152 + a.toNat * 65536 + m.toNat * 256)
  | .vblkAnc d a b m => some (3355443232 + d.toNat * 2097152 + a.toNat * 65536 + b.toNat * 2048 + m.toNat * 256)
  | .vblkUnanc d a m => some (3355443264 + d.toNat * 2097152 + a.toNat * 65536 + m.toNat * 256)
  | .vblkPlpack d a b m p => some (3355443296 + d.toNat * 2097152 + a.toNat * 65536 + b.toNat * 2048 + m.toNat * 256 + p.toNat)
  | .vblkPlunpk d a m p => some (3355443328 + d.toNat * 2097152 + a.toNat * 65536 + m.toNat * 256 + p.toNat)
  | .vblkBscale d a m => some (3355443360 + d.toNat * 2097152 + a.toNat * 65536 + m.toNat * 256)
  | .vscanSumi d a m t => some (3422552064 + d.toNat * 2097152 + a.toNat * 65536 + m.toNat * 8192 + t.code)
  | .vscanSumf d a m t => some (3422553088 + d.toNat * 2097152 + a.toNat * 65536 + m.toNat * 8192 + t.code)
  | .vscanMax d a m t => some (3422554112 + d.toNat * 2097152 + a.toNat * 65536 + m.toNat * 8192 + t.code)
  | .vld v b m t o => some (3489660928 + v.toNat * 2097152 + b.toNat * 32768 + m.toNat * 4096 + t.code * 256 + o.toNat)
  | .vst v b m t o => some (3556769792 + v.toNat * 2097152 + b.toNat * 32768 + m.toNat * 4096 + t.code * 256 + o.toNat)
  | .vgath v b i m t => some (3623878656 + v.toNat * 2097152 + b.toNat * 32768 + i.toNat * 1024 + m.toNat * 128 + t.code * 8)
  | .vscat v b i m t => some (3690987520 + v.toNat * 2097152 + b.toNat * 32768 + i.toNat * 1024 + m.toNat * 128 + t.code * 8)
  | .mpush v e r => some (3758096384 + v.toNat * 2097152 + e.toNat * 262144 + r.toNat * 2048)
  | .mswap => some (3825205248)
  | .mmode m p a s => some (3841982464 + m.code * 1048576 + p.toNat * 65536 + a.toNat * 32768 + s.toNat * 16384)
  | .mzero r n => some (3858759680 + r.toNat * 256 + n.toNat)
  | .macc v e r => some (3892314112 + v.toNat * 2097152 + e.toNat * 262144 + r.toNat * 1024)
  | .mdrain v q r => some (3959422976 + v.toNat * 1048576 + q.toNat * 262144 + r.toNat * 1024)
  | .mdrainz v q r => some (3992977408 + v.toNat * 1048576 + q.toNat * 262144 + r.toNat * 1024)
  | .cpy a b h q => some (4026531840 + a.toNat * 65536 + b.toNat * 1024 + h.toNat * 32 + q.toNat)
  | .press a p q => some (4030726144 + a.toNat * 65536 + p.toNat * 32 + q.toNat)
  | .stash a b p => some (4034920448 + a.toNat * 65536 + b.toNat * 1024 + p.toNat * 32)
  | .fetch a q => some (4039114752 + a.toNat * 65536 + q.toNat)
  | .drop a => some (4043309056 + a.toNat * 65536)
  | .send c p => some (4047503360 + c.toNat * 16384 + p.toNat * 32)
  | .arm a b => some (4051697664 + a.toNat * 65536 + b.toNat * 1024)
  | .ctradd a b => some (4055891968 + a.toNat * 65536 + b.toNat * 1024)
  | .rmap a b => some (4060086272 + a.toNat * 65536 + b.toNat * 1024)
  | .rflush a => some (4064280576 + a.toNat * 65536)
  | .rinv a => some (4068474880 + a.toNat * 65536)
  | .waitf q => some (4093640704 + q.toNat * 262144)
  | .rels q => some (4102029312 + q.toNat * 262144)
  | .radv q => some (4110417920 + q.toNat * 262144)
  | .waitr q => some (4118806528 + q.toNat * 262144)
  | .own a => some (4127195136 + a.toNat * 4096)
  | .vjoin => some (4135583744)
  | .rinit q a => some (4143972352 + q.toNat * 262144 + a.toNat * 4096)
  | .arrive a => some (4160749568 + a.toNat * 262144)
  | .arriveb a b => some (4177526784 + a.toNat * 262144 + b.toNat * 4096)
  | .waitph a p => some (4194304000 + a.toNat * 262144 + p.toNat * 2048)
  | .stallStep => none
  | .bundleNullified => none
  | .resultDue => none
  | .globalReply _ _ _ => none
  | .translationResolved _ _ => none
  | .takePendingTrap => none
  | .breakpoint => none
  | .detectedError _ _ _ => none
  | .matrixBeatRetry _ _ => none
  | .freezeTimeoutBeforeCommit _ _ => none
  | .freezeTimeoutAtDue _ _ => none
  | .atomicReplyTimeout _ _ => none
  | .coreHung _ => none
  | .syncTimeout _ _ => none
  | .barrierTimeout _ _ => none
  | .quantumExpiry => none
  | .timer _ _ => none
  | .hostevt _ _ _ => none
  | .actionResume _ _ => none
  | .actionHandler _ _ => none
  | .actionAbort _ _ => none
  | .syncRelease _ => none
  | .claimGrant _ => none
  | .rampDownStep _ => none
  | .tailWrite _ _ => none
  | .queueResident _ => none
  | .queueSwitchOut _ => none
  | .recordForward _ => none
  | .placementDecision => none
  | .contextStart _ _ => none
  | .preemptionRound => none
  | .saveComplete _ => none
  | .groupRetirement _ _ => none
  | .sheepdogDecision => none
  | .heldArrivalEntry _ => none
  | .dogPost _ => none
  | .dogDecide _ => none
  | .energyEstimate _ _ => none
  | .regionFillComplete _ _ _ => none
  | .migrationComplete _ _ => none
  | .faultQueueRetry _ => none
  | .inval _ => none
  | .invalidationComplete => none
  | .migrateToDevice _ => none
  | .migrateToHost _ => none
  | .migrationRefuse _ => none
  | .copyFire _ => none
  | .copyComplete _ _ _ => none
  | .shapeLoadComplete _ _ => none
  | .pressFire _ => none
  | .pressComplete _ _ => none
  | .stashFire _ => none
  | .stashStored _ _ => none
  | .fetchFire _ _ => none
  | .fetchComplete _ _ => none
  | .dropFire _ => none
  | .sendFire _ => none
  | .sendComplete _ _ => none
  | .armFire _ => none
  | .ctraddFire _ => none
  | .rmapFire _ => none
  | .rflushFire _ => none
  | .rinvFire _ => none
  | .celdecPlace _ => none
  | .celdecDrop _ => none
  | .celdecRefuse _ => none
  | .cellarPrefetchMove _ => none
  | .nvmeCompletion _ _ => none
  | .channelData _ => none
  | .credit _ => none
  | .barrierArrival _ => none
  | .barrierRelease _ => none
  | .absenceToken _ => none
  | .presenceToken _ => none
  | .abortFlit _ => none
  | .mismatch _ => none
  | .put _ => none
  | .putAccumulate _ => none
  | .getRequest _ => none
  | .getReply _ => none
  | .remoteCounterAdd _ => none
  | .completionAcknowledgement _ => none
  | .hostRequest _ => none
  | .hostReply _ => none
  | .flitCrcFailure _ _ => none
  | .portRetrainEnd _ _ => none
  | .retrain _ => none
  | .channelConfigure _ _ => none
  | .counterWrite _ _ _ => none
  | .entryArmWrite _ _ _ => none
  | .trellisRefire _ _ => none
  | .groupStart _ => none
  | .groupAbort _ => none
  | .groupStartComplete _ => none
  | .hostWindowAccess _ => none
  | .hostTabdatAccess _ => none
  | .tabdatLowRead => none
  | .tabdatHighRead => none
  | .balanceWindowEnd _ => none
  | .powerCapCheck => none
  | .pcapWrite _ => none
  | .junctionSample => none
  | .thermalEvaluation _ => none
  | .valveStep _ => none
  | .coolantDryCondition _ => none
  | .coolantFlowCondition _ => none
  | .evacuationFlushEnd _ => none
  | .dryClear _ => none
  | .grantWrite _ _ => none
  | .thcmd _ => none
  | .attcmd => none
  | .attestationReportDone _ => none
  | .devidWrite _ => none
  | .deviceReset _ => none
  | .registerWrite _ _ => none
  | .drainSatisfied _ _ => none
  | .preemptionReplyTimeout _ _ => none
  | .eqheadWrite _ => none
  | .reservedKindFlit _ => none

/-- The instruction of a slot's 32 bits, none where check 4 of 03 R82 (or 2, for a major) refuses them. -/
def decodeWord (w : Nat) : Option Instr :=
  match decodeRow w with
  | some i => if i.wf then some i else none
  | none => none

/-- The decoder on a table row's word (a slot operation has 32 bits). -/
def decodeTableWord (nbits w : Nat) : Option Instr :=
  if nbits ≤ 32 then decodeWord (w % 2 ^ 32) else none

/-- The slot's 32 bits of an instruction, 0 for an event. -/
def Instr.word (i : Instr) : Nat := (encodeNat i).getD 0

/-- The major opcode of a slot operation (03 R79). -/
def Instr.major (i : Instr) : Nat := bitsAt i.word 26 6

/-- The slots that may hold a major (03 R98); none for a reserved major. -/
def majorSlots (m : Nat) : List Nat :=
  if m = 0x00 then [0, 1, 2, 3]
  else if 0x01 ≤ m ∧ m ≤ 0x0D then [0, 1, 3]
  else if m = 0x0E then [0]
  else if 0x10 ≤ m ∧ m ≤ 0x1A then [0]
  else if m = 0x1B then [0, 1]
  else if 0x20 ≤ m ∧ m ≤ 0x27 then [1]
  else if 0x28 ≤ m ∧ m ≤ 0x37 then [1, 2]
  else if 0x38 ≤ m ∧ m ≤ 0x3B then [3]
  else if m = 0x3C then [2, 3]
  else if m = 0x3D ∨ m = 0x3E then [3]
  else []

/-- The first slot that may hold an instruction (03 R98). -/
def Instr.homeSlot (i : Instr) : Nat := (majorSlots i.major).headD 0

/-- The lending classes (03 R86). -/
inductive Lend where
  | immediate | override | none
deriving DecidableEq, Repr

/-- The lending class of a major (03 R98). -/
def majorLend (m : Nat) : Lend :=
  if (0x02 ≤ m ∧ m ≤ 0x05) ∨ m = 0x07 ∨ m = 0x08 ∨ m = 0x09 ∨ m = 0x0B ∨ (0x20 ≤ m ∧ m ≤ 0x25) ∨ m = 0x2D
      ∨ m = 0x34 ∨ m = 0x35 then .immediate
  else if m = 0x28 ∨ m = 0x29 ∨ m = 0x2B ∨ m = 0x2C ∨ m = 0x32 ∨ m = 0x33 then .override
  else .none

/-- A function of an immediate-class major that takes no immediate (03 R89, R100): the vperm functions not marked
(imm). -/
def Instr.noImmediate : Instr → Bool
  | .vpermIota _ _ _ | .vpermPerm _ _ _ _ _ | .vpermZip _ _ _ _ _ | .vpermUnzip _ _ _ _ _ | .vpermRev _ _ _ _ => true
  | _ => false

/-- A fault of checks 1 to 6 of 03 R82: its cause and what EINFO holds of it (10 R315). -/
structure SlotFault where
  cause : Machine.Cause
  info : Word
deriving DecidableEq, Repr

/-- A lent field that is no legal override (03 R88): RND 6, bit 1 set, or OV 0 with any other bit set. -/
def overrideIllegal (ext : BitVec 7) : Bool :=
  bitsAt ext.toNat 1 1 == 1 || bitsAt ext.toNat 4 3 == 6 || (bitsAt ext.toNat 0 1 == 0 && ext != 0)

/-- Check 4's part for the lent field of override class, then check 5 (03 R82, R88, R89). -/
def lentFault (i : Instr) (ext : BitVec 7) : Option SlotFault :=
  match majorLend i.major with
  | .override => if overrideIllegal ext then some ⟨.illegalOpcode, BitVec.ofNat 64 i.word⟩ else none
  | .immediate =>
    if ext != 0 && i.noImmediate then some ⟨.extUnused, ext.setWidth 64⟩ else none
  | .none => if ext != 0 then some ⟨.extUnused, ext.setWidth 64⟩ else none

/-- Checks 1 to 5 of 03 R82 on slot k's 32 bits w with lent field ext: an instruction, or the first check's fault. -/
def decodeSlot (k w : Nat) (ext : BitVec 7) : Except SlotFault Instr :=
  let m := bitsAt w 26 6
  let bad (c : Machine.Cause) : Except SlotFault Instr := .error ⟨c, BitVec.ofNat 64 w⟩
  if w = 0 then (if ext != 0 then .error ⟨.extUnused, ext.setWidth 64⟩ else .ok .nop)
  else if m = 0x3F then bad .headerMisplaced
  else if m = 0 ∨ majorSlots m = [] then bad .illegalOpcode
  else if k ∉ majorSlots m then bad .slotIllegal
  else match decodeWord w with
    | none => bad .illegalOpcode
    | some i => match lentFault i ext with
      | some f => .error f
      | none => .ok i

/-- The header of a bundle (03 R85). -/
structure Header where
  mark : Bool
  stall : Nat
  ext1 : BitVec 7
  ext2 : BitVec 7
  ext3 : BitVec 7
deriving DecidableEq, Repr

/-- The header that S0's 32 bits are, if they are one (03 R85). -/
def decodeHeader (w : Nat) : Option Header :=
  if bitsAt w 26 6 = 0x3F then
    some { mark := bitsAt w 25 1 == 1, stall := bitsAt w 21 4,
           ext1 := fieldAt w 14 7, ext2 := fieldAt w 7 7, ext3 := fieldAt w 0 7 }
  else none

/-- The 32 bits of a header. -/
def Header.word (h : Header) : Nat :=
  0x3F * 2 ^ 26 + h.mark.toNat * 2 ^ 25 + (h.stall % 16) * 2 ^ 21 + h.ext1.toNat * 2 ^ 14 + h.ext2.toNat * 2 ^ 7
    + h.ext3.toNat

/-- One slot of a decoded bundle: its number, its lent field (none without a header) and what its bits are. -/
structure SlotDec where
  slot : Nat
  ext : Option (BitVec 7)
  op : Except SlotFault Instr

/-- A bundle as decoded: its header and its slots in ascending order, S0 left out when it is the header. -/
structure BundleDec where
  header : Option Header
  slots : List SlotDec

/-- The four slots' 32 bits decoded (03 R79, R82, R85). -/
def decodeBundle (w0 w1 w2 w3 : Nat) : BundleDec :=
  match decodeHeader w0 with
  | some h =>
    { header := some h,
      slots := [⟨1, some h.ext1, decodeSlot 1 w1 h.ext1⟩, ⟨2, some h.ext2, decodeSlot 2 w2 h.ext2⟩,
                ⟨3, some h.ext3, decodeSlot 3 w3 h.ext3⟩] }
  | none =>
    { header := none,
      slots := [⟨0, none, decodeSlot 0 w0 0⟩, ⟨1, none, decodeSlot 1 w1 0⟩, ⟨2, none, decodeSlot 2 w2 0⟩,
                ⟨3, none, decodeSlot 3 w3 0⟩] }

/-- The handoff operations, whose bundles are restart marks (07 R208), str, amo and cas among them. -/
def Instr.handoff : Instr → Bool
  | .cpy _ _ _ _ | .press _ _ _ | .stash _ _ _ | .fetch _ _ | .drop _ | .send _ _ | .arm _ _ | .ctradd _ _
  | .rmap _ _ | .rflush _ | .rinv _ | .rels _ | .radv _ | .own _ | .rinit _ _ | .arrive _ | .arriveb _ _
  | .waitph _ _ | .sync | .barx _ | .drain _ | .endTask | .yield | .str _ _ _ _
  | .amoAdd _ _ _ _ _ _ | .amoAnd _ _ _ _ _ _ | .amoOr _ _ _ _ _ _ | .amoXor _ _ _ _ _ _ | .amoMin _ _ _ _ _ _
  | .amoMax _ _ _ _ _ _ | .amoMinn _ _ _ _ _ _ | .amoMaxn _ _ _ _ _ _ | .amoSwp _ _ _ _ _ _
  | .cas _ _ _ _ _ _ _ => true
  | _ => false

/-- str, whose bundle takes no second mark at commit (04 R140; 07 R209). -/
def Instr.isStr : Instr → Bool
  | .str _ _ _ _ => true
  | _ => false

/-- The operations barred from a delay slot (04 R131). -/
def Instr.delayBarred : Instr → Bool
  | .jtab _ _ _ _ | .trap _ | .eret | .idle | .endTask | .yield => true
  | _ => false

/-- The control transfers (04 R123). -/
def Instr.isTransfer : Instr → Bool
  | .br _ _ _ _ | .brl _ _ _ _ | .bru _ _ _ _ | .j _ | .jl _ | .jr _ _ | .jlr _ _ | .ret | .jtab _ _ _ _ => true
  | _ => false

/-- The matrix operations: majors 0x38 to 0x3B (06 R203). -/
def Instr.isMatrix : Instr → Bool
  | .mpush _ _ _ | .mswap | .mmode _ _ _ _ | .mzero _ _ | .macc _ _ _ | .mdrain _ _ _ | .mdrainz _ _ _ => true
  | _ => false

/-- Number of a slot's four bytes as they stand in memory, little-endian (00 R9). -/
def leWord (b : List Byte) : Nat := b.foldr (fun x n => x.toNat + 256 * n) 0

/-- The n low bytes of a number, little-endian (00 R9). -/
def leBytes : Nat → Nat → List Byte
  | 0, _ => []
  | n + 1, v => BitVec.ofNat 8 v :: leBytes n (v / 256)

/-- The 16 bytes of a bundle that holds one instruction in the first slot that may hold it, and no header
(03 R79). -/
def bundleBytes (w k : Nat) : List Byte := leBytes 16 (w * 2 ^ (32 * k))

/-- The slot where a word's instruction stands by itself: its first allowed slot (03 R98). -/
def homeSlotOf (w : Nat) : Nat := (majorSlots (bitsAt w 26 6)).headD 0

end Sys2Proof
end

