-- ==== Sys2Proof/Machine/Num.lean ====
section
/-! DEFINITION. Number formats to the bit, rounding, overflow policy, sticky flags, the stochastic-rounding generator
and exact arithmetic on floating elements (02 R50 to R71). An element is a natural number holding its bits. -/

namespace Sys2Proof.Machine

/-- The floating formats of 02 R51. -/
inductive Fmt where
  | f32 | bf16 | e4m3 | e5m2
deriving DecidableEq, Repr

/-- Fraction bits (02 R51). -/
def Fmt.mbits : Fmt → Nat
  | .f32 => 23 | .bf16 => 7 | .e4m3 => 3 | .e5m2 => 2

/-- Exponent bits (02 R51). -/
def Fmt.ebits : Fmt → Nat
  | .f32 => 8 | .bf16 => 8 | .e4m3 => 4 | .e5m2 => 5

/-- Exponent bias (02 R51). -/
def Fmt.bias : Fmt → Nat
  | .f32 => 127 | .bf16 => 127 | .e4m3 => 7 | .e5m2 => 15

/-- Bits of the largest finite magnitude (02 R51). -/
def Fmt.maxBits : Fmt → Nat
  | .f32 => 0x7F7FFFFF | .bf16 => 0x7F7F | .e4m3 => 0x7E | .e5m2 => 0x7B

/-- Bits of +infinity, none in e4m3 (02 R52). -/
def Fmt.infBits : Fmt → Option Nat
  | .f32 => some 0x7F800000 | .bf16 => some 0x7F80 | .e4m3 => none | .e5m2 => some 0x7C

/-- The canonical NaN (02 R52). -/
def Fmt.nan : Fmt → Nat
  | .f32 => 0x7FC00000 | .bf16 => 0x7FC0 | .e4m3 => 0x7F | .e5m2 => 0x7E

/-- The weight of the sign bit. -/
def Fmt.signBit (f : Fmt) : Nat := 2 ^ (f.mbits + f.ebits)

/-- Bits with a sign put on a magnitude. -/
def Fmt.signed (f : Fmt) (neg : Bool) (mag : Nat) : Nat := if neg then f.signBit + mag else mag

/-- An element's value: NaN (signalling or not), an infinity, or ± m × 2^e. -/
inductive Val where
  | nan (sig : Bool)
  | inf (neg : Bool)
  | num (neg : Bool) (m : Nat) (e : Int)
deriving DecidableEq, Repr

/-- The sticky arithmetic flags, laid out as VFLAGS bits 6:0 (01 R31). -/
abbrev Fl := BitVec 7

def flNX : Fl := 1
def flUF : Fl := 2
def flOF : Fl := 4
def flDZ : Fl := 8
def flNV : Fl := 16
def flSAT : Fl := 32
def flACCSAT : Fl := 64

/-- Rounding modes (01 R30; 02 R64). -/
inductive RMode where
  | rne | rtz | rdn | rup | rna | sr
deriving DecidableEq, Repr

/-- The mode of RMODE.MODE or of an override's RND 0 to 5 (01 R30; 03 R88). -/
def RMode.ofCode : Nat → RMode
  | 0 => .rne | 1 => .rtz | 2 => .rdn | 3 => .rup | 4 => .rna | _ => .sr

/-- Overflow policies (01 R30; 02 R68); ieee is the rule of arithmetic results (02 R71). -/
inductive OvPol where
  | sat | inf | nan | trap | ieee
deriving DecidableEq, Repr

/-- The policy of OVPOL.POL or of an override's POL (01 R30; 03 R88). -/
def OvPol.ofCode : Nat → OvPol
  | 0 => .sat | 1 => .inf | 2 => .nan | _ => .trap

/-- A rounded element: its bits, the flags it raises, and whether it overflowed under the trapping policy. -/
structure RRes where
  bits : Nat
  fl : Fl
  trap : Bool
deriving DecidableEq, Repr

def RRes.ok (bits : Nat) (fl : Fl := 0) : RRes := ⟨bits, fl, false⟩

/-- Two's-complement reading of the low w bits. -/
def sint (w x : Nat) : Int := if x % 2 ^ w < 2 ^ (w - 1) then (x % 2 ^ w : Nat) else (x % 2 ^ w : Nat) - (2 ^ w : Nat)

/-- The w low bits of an integer. -/
def wrapI (w : Nat) (x : Int) : Nat := (x % (2 ^ w : Nat)).toNat

/-- The value of an element of a floating format; a subnormal f32 or bf16 reads as a signed zero under FTZ
(02 R51, R52, R53). -/
def unpackF (f : Fmt) (ftz : Bool) (x : Nat) : Val :=
  let neg := x / f.signBit % 2 == 1
  let ef := x / 2 ^ f.mbits % 2 ^ f.ebits
  let fr := x % 2 ^ f.mbits
  let top := 2 ^ f.ebits - 1
  match f with
  | .e4m3 =>
    if ef = top ∧ fr = 7 then .nan false
    else if ef = 0 then .num neg fr (1 - (f.bias : Int) - f.mbits)
    else .num neg (2 ^ f.mbits + fr) ((ef : Int) - f.bias - f.mbits)
  | _ =>
    if ef = top then
      (if fr = 0 then .inf neg else .nan (decide (fr < 2 ^ (f.mbits - 1)) && f != .e5m2))
    else if ef = 0 then
      (if ftz && f != .e5m2 then .num neg 0 0 else .num neg fr (1 - (f.bias : Int) - f.mbits))
    else .num neg (2 ^ f.mbits + fr) ((ef : Int) - f.bias - f.mbits)

/-- floor(log2 m) for m > 0. -/
def ilog2 (m : Nat) : Nat := m.log2

/-- |m × 2^e| rounded to a count of 2^q, with whether that was inexact (02 R64, R65); sticky says that the true
magnitude lies strictly above m × 2^e and below (m + 1) × 2^e. -/
def roundMag (md : RMode) (neg : Bool) (r16 : Nat) (m : Nat) (e q : Int) (sticky : Bool) : Nat × Bool :=
  if q ≤ e then (m * 2 ^ (e - q).toNat, sticky)
  else
    let sh := (q - e).toNat
    let t := m / 2 ^ sh
    let rem := m % 2 ^ sh
    let den := 2 ^ sh
    if rem = 0 ∧ !sticky then (t, false)
    else
      let up : Bool := match md with
        | .rne => decide (2 * rem > den) || (2 * rem == den && (sticky || t % 2 == 1))
        | .rtz => false
        | .rdn => neg
        | .rup => !neg
        | .rna => decide (2 * rem ≥ den)
        | .sr => decide (rem * 65536 / den + r16 ≥ 65536)
      (if up then t + 1 else t, true)

/-- The bits of the greatest exponent and fraction of a format as an exponent of the last place. -/
def Fmt.qMax (f : Fmt) : Int :=
  match f with
  | .f32 => 127 - 23
  | .bf16 => 127 - 7
  | .e4m3 => 8 - 3
  | .e5m2 => 15 - 2

/-- The greatest significand at qMax. -/
def Fmt.sigMax (f : Fmt) : Nat :=
  match f with
  | .e4m3 => 14
  | f => 2 ^ (f.mbits + 1) - 1

/-- What an overflowing floating element is written as (02 R68, R71). -/
def overflowF (f : Fmt) (md : RMode) (pol : OvPol) (neg : Bool) : RRes :=
  let big := f.signed neg f.maxBits
  let inf := match f.infBits with
    | some b => f.signed neg b
    | none => f.nan
  let bits := match pol with
    | .sat => big
    | .inf => inf
    | .nan => f.nan
    | .trap => big
    | .ieee => match md with
      | .rne | .rna | .sr => inf
      | .rtz => big
      | .rdn => if neg then inf else big
      | .rup => if neg then big else inf
  if pol = .trap then ⟨bits, 0, true⟩ else .ok bits (flOF ||| flNX)

/-- RoundTo(fmt, mode, ±m × 2^e) with the flags of 02 R70 and R71: tininess is judged after rounding, and a result
that would be subnormal is flushed under FTZ in f32 and bf16 (02 R53). -/
def roundF (f : Fmt) (md : RMode) (pol : OvPol) (ftz : Bool) (r16 : Nat) (neg : Bool) (m : Nat) (e : Int)
    (sticky : Bool := false) : RRes :=
  if m = 0 ∧ !sticky then .ok (f.signed neg 0)
  else
    let emin : Int := 1 - (f.bias : Int)
    let top : Int := (ilog2 m : Int) + e
    let q := max top emin - f.mbits
    let (r0, inx) := roundMag md neg r16 m e q sticky
    let (r, q) := if r0 ≥ 2 ^ (f.mbits + 1) then (r0 / 2, q + 1) else (r0, q)
    if q > f.qMax ∨ (q = f.qMax ∧ r > f.sigMax) then overflowF f md pol neg
    else
      let nx : Fl := if inx then flNX else 0
      let tiny : Bool := inx && decide (top < emin) &&
        decide ((roundMag md neg r16 m e (top - f.mbits) sticky).1 < 2 ^ ((emin - top).toNat + f.mbits))
      let fl := if tiny then nx ||| flUF else nx
      if r < 2 ^ f.mbits then
        if ftz && (f == .f32 || f == .bf16) && r != 0 then .ok (f.signed neg 0) (flUF ||| flNX)
        else .ok (f.signed neg r) fl
      else .ok (f.signed neg ((q + f.mbits + f.bias).toNat * 2 ^ f.mbits + (r - 2 ^ f.mbits))) fl

/-- The least and greatest value of an integer type of w bits (02 R50). -/
def intMin (w : Nat) (sg : Bool) : Int := if sg then -(2 ^ (w - 1) : Nat) else 0
def intMax (w : Nat) (sg : Bool) : Int := if sg then (2 ^ (w - 1) : Nat) - 1 else (2 ^ w : Nat) - 1

/-- Rounding to an integer type, then the range check of 02 R68; the flags of 02 R70 (fromInt: the source is an
integer type, so that SAT takes NV's place). -/
def roundI (w : Nat) (sg : Bool) (md : RMode) (pol : OvPol) (fromInt : Bool) (r16 : Nat) (neg : Bool) (m : Nat)
    (e : Int) : RRes :=
  let (r, inx) := roundMag md neg r16 m e 0 false
  let v : Int := if neg then -(r : Int) else r
  let fl : Fl := if fromInt then flSAT else flNV
  if v < intMin w sg then (if pol = .trap then ⟨0, 0, true⟩ else .ok (wrapI w (intMin w sg)) fl)
  else if v > intMax w sg then (if pol = .trap then ⟨0, 0, true⟩ else .ok (wrapI w (intMax w sg)) fl)
  else .ok (wrapI w v) (if inx then flNX else 0)

/-- Conversion of a value to e8m0 (05 R159). -/
def roundE8 (md : RMode) (pol : OvPol) (r16 : Nat) (v : Val) : RRes :=
  let past : RRes := match pol with
    | .sat => .ok 254 (flOF ||| flNX)
    | .trap => ⟨254, 0, true⟩
    | _ => .ok 255 (flOF ||| flNX)
  match v with
  | .nan _ => .ok 255 flNV
  | .inf true => .ok 255 flNV
  | .inf false => past
  | .num neg m e =>
    if m = 0 ∨ neg then .ok 255 flNV
    else
      let top : Int := (ilog2 m : Int) + e
      if top < -127 then .ok 0 (flUF ||| flNX)
      else
        let (r, inx) := roundMag md false r16 m e top false
        let c := (top + 127).toNat
        let tie : Bool := md == .rne && decide (top > e) && 2 * (m - 2 ^ ilog2 m) == 2 ^ ilog2 m
        let code := if tie then c + c % 2 else c + (r - 1)
        if code > 254 then past else .ok code (if inx then flNX else 0)

/-- Width in bytes of an element type (05 R147). -/
def EType.width : EType → Nat
  | .i32 | .n32 | .f32 => 4
  | .i16 | .n16 | .bf16 => 2
  | .anc64 => 8
  | _ => 1

/-- The floating format of an element type. -/
def EType.fmt? : EType → Option Fmt
  | .f32 => some .f32
  | .bf16 => some .bf16
  | .e4m3 => some .e4m3
  | .e5m2 => some .e5m2
  | _ => none

/-- Whether an integer type, and whether signed (02 R50). -/
def EType.int? : EType → Option Bool
  | .i32 | .i16 | .i8 => some true
  | .n32 | .n16 | .n8 => some false
  | _ => none

/-- The element type a 3-bit code names (03 R97). -/
def VType.toE : VType → EType
  | .i32 => .i32 | .i16 => .i16 | .i8 => .i8 | .n32 => .n32 | .n16 => .n16 | .n8 => .n8 | .f32 => .f32
  | .bf16 => .bf16

/-- The value of an element of any type that vcvt takes. -/
def unpackE (t : EType) (ftz : Bool) (x : Nat) : Val :=
  match EType.fmt? t with
  | some f => unpackF f ftz x
  | none =>
    if t = .e8m0 then (if x % 256 = 255 then .nan false else .num false 1 ((x % 256 : Nat) - 127))
    else
      let w := 8 * EType.width t
      let v : Int := if EType.int? t = some true then sint w x else (x % 2 ^ w : Nat)
      .num (decide (v < 0)) v.natAbs 0

/-- A value converted into element type t (02 R64, R68 to R70; 05 R158, R159); fromInt says that it comes from an
integer type. -/
def convVal (t : EType) (md : RMode) (pol : OvPol) (ftz : Bool) (r16 : Nat) (fromInt : Bool) (v : Val) : RRes :=
  match EType.fmt? t with
  | some f =>
    match v with
    | .nan sg => .ok f.nan (if sg then flNV else 0)
    | .inf neg =>
      match f.infBits with
      | some b => .ok (f.signed neg b)
      | none => overflowF f md pol neg
    | .num neg m e => roundF f md pol ftz r16 neg m e
  | none =>
    if t = .e8m0 then roundE8 md pol r16 v
    else
      let w := 8 * EType.width t
      let sg := EType.int? t == some true
      match v with
      | .nan _ => if pol = .trap then ⟨0, 0, true⟩ else .ok 0 flNV
      | .inf neg =>
        if pol = .trap then ⟨0, 0, true⟩
        else .ok (wrapI w (if neg then intMin w sg else intMax w sg)) flNV
      | .num neg m e => roundI w sg md pol fromInt r16 neg m e

/-- One element converted from type s to type d (05 R158). -/
def convE (d s : EType) (md : RMode) (pol : OvPol) (ftz : Bool) (r16 : Nat) (x : Nat) : RRes :=
  convVal d md pol ftz r16 (EType.int? s).isSome (unpackE s ftz x)

/-- Significant bits and exponent of the least value of a floating type. -/
def EType.span : EType → Nat × Int
  | .f32 => (24, -149)
  | .bf16 => (8, -133)
  | .e4m3 => (4, -9)
  | .e5m2 => (3, -16)
  | _ => (1, -127)

/-- Some finite value of s lies strictly between two adjacent values of d: the pair makes a rounding operation
(02 R66). -/
def convRounds (d s : EType) : Bool :=
  if d = s then false
  else match EType.int? d, EType.int? s with
    | some _, some _ => false
    | some _, none => true
    | none, some sg =>
      let bits := 8 * EType.width s - (if sg then 1 else 0)
      decide (bits > (EType.span d).1)
    | none, none =>
      decide ((EType.span s).1 > (EType.span d).1) || decide ((EType.span s).2 < (EType.span d).2)

/-- One advance of the stochastic-rounding state (02 R66). -/
def srNext (s : Word) : Word :=
  let s := s ^^^ (s <<< 13)
  let s := s ^^^ (s >>> 7)
  s ^^^ (s <<< 17)

/-- The 16-bit draw of destination element i (02 R67). -/
def srLane (s : Word) (i : Nat) : Nat :=
  let z := s + BitVec.ofNat 64 (i + 1) * 0x9E3779B97F4A7C15#64
  let z := (z ^^^ (z >>> 31)) * 0xB5A73C19E8D246F3#64
  let z := (z ^^^ (z >>> 29)) * 0x8F1E6D0B57C4A329#64
  let z := z ^^^ (z >>> 32)
  (z >>> 48).toNat

/-- The exact sum of two finite values: sign, magnitude and exponent, m = 0 when the sum is zero. -/
def exactAdd (na : Bool) (ma : Nat) (ea : Int) (nb : Bool) (mb : Nat) (eb : Int) : Bool × Nat × Int :=
  if ma = 0 then (nb, mb, eb)
  else if mb = 0 then (na, ma, ea)
  else
    let e := min ea eb
    let sa : Int := ((ma * 2 ^ (ea - e).toNat : Nat) : Int) * (if na then -1 else 1)
    let sb : Int := ((mb * 2 ^ (eb - e).toNat : Nat) : Int) * (if nb then -1 else 1)
    let s := sa + sb
    (decide (s < 0), s.natAbs, e)

/-- Sign changed. -/
def Val.neg : Val → Val
  | .nan s => .nan s
  | .inf n => .inf (!n)
  | .num n m e => .num (!n) m e

/-- Whether a signalling NaN. -/
def Val.isSig : Val → Bool
  | .nan true => true
  | _ => false

def Val.isNan : Val → Bool
  | .nan _ => true
  | _ => false

/-- The sum of two values that are no NaN, rounded once; an exact zero of opposite signs is +0.0, −0.0 under rdn
(02 R64, R71). -/
def addVal (f : Fmt) (md : RMode) (ftz : Bool) (r16 : Nat) (x y : Val) : RRes :=
  match x, y with
  | .inf a, .inf b => if a = b then .ok (f.signed a (f.infBits.getD f.nan)) else .ok f.nan flNV
  | .inf a, _ => .ok (f.signed a (f.infBits.getD f.nan))
  | _, .inf b => .ok (f.signed b (f.infBits.getD f.nan))
  | .num na ma ea, .num nb mb eb =>
    let (n, m, e) := exactAdd na ma ea nb mb eb
    if m = 0 then
      let neg := if ma = 0 ∧ mb = 0 ∧ na = nb then na else decide (md = .rdn)
      .ok (f.signed neg 0)
    else roundF f md .ieee ftz r16 n m e
  | _, _ => .ok f.nan

/-- The exact product of two values that are no NaN; none for infinity times zero. -/
def mulVal (x y : Val) : Option Val :=
  match x, y with
  | .inf a, .inf b => some (.inf (a != b))
  | .inf a, .num b m _ => if m = 0 then none else some (.inf (a != b))
  | .num a m _, .inf b => if m = 0 then none else some (.inf (a != b))
  | .num a ma ea, .num b mb eb => some (.num (a != b) (ma * mb) (ea + eb))
  | _, _ => none

/-- The floating sum of two elements (05 R154; 02 R71). -/
def fAdd (f : Fmt) (md : RMode) (ftz : Bool) (r16 : Nat) (a b : Nat) (sub : Bool := false) : RRes :=
  let x := unpackF f ftz a
  let y := unpackF f ftz b
  let y := if sub then y.neg else y
  if x.isNan || y.isNan then .ok f.nan (if x.isSig || y.isSig then flNV else 0)
  else addVal f md ftz r16 x y

/-- The floating product of two elements (05 R154; 02 R71). -/
def fMul (f : Fmt) (md : RMode) (ftz : Bool) (r16 : Nat) (a b : Nat) : RRes :=
  let x := unpackF f ftz a
  let y := unpackF f ftz b
  if x.isNan || y.isNan then .ok f.nan (if x.isSig || y.isSig then flNV else 0)
  else match mulVal x y with
    | none => .ok f.nan flNV
    | some (.inf n) => .ok (f.signed n (f.infBits.getD f.nan))
    | some (.num n m e) => roundF f md .ieee ftz r16 n m e
    | some (.nan _) => .ok f.nan

/-- ±(a × b) ± c, rounded once (05 R155): negP negates the product, negC the addend. -/
def fFma (f : Fmt) (md : RMode) (ftz : Bool) (r16 : Nat) (negP negC : Bool) (a b c : Nat) : RRes :=
  let x := unpackF f ftz a
  let y := unpackF f ftz b
  let z := unpackF f ftz c
  let infZero := !(x.isNan || y.isNan) && (mulVal x y).isNone
  if infZero then .ok f.nan flNV
  else if x.isNan || y.isNan || z.isNan then .ok f.nan (if x.isSig || y.isSig || z.isSig then flNV else 0)
  else match mulVal x y with
    | none => .ok f.nan flNV
    | some p => addVal f md ftz r16 (if negP then p.neg else p) (if negC then z.neg else z)

/-- x × 2^k, rounded once (05 R154, code 21). Infinities, zeros and k = 0 give x. A k beyond ±2,000 rounds as
±2,000 does. An overflow gives an infinity in every mode, as R154's row for scale says, where 02 R71 goes by the mode: DEDUCED, log
entry 84. -/
def fScale (f : Fmt) (md : RMode) (ftz : Bool) (r16 : Nat) (a b : Nat) : RRes :=
  let k := sint (if f = .f32 then 32 else 16) b
  match unpackF f ftz a with
  | .nan sg => .ok f.nan (if sg then flNV else 0)
  | .inf n => .ok (f.signed n (f.infBits.getD f.nan))
  | .num n m e =>
    if m = 0 then .ok (f.signed n 0)
    else if k = 0 then .ok (a % (2 * f.signBit))
    else roundF f md .inf ftz r16 n m (e + max (-2000) (min 2000 k))

/-- The order of floating values with −0 below +0 (05 R154). -/
def valLe (x y : Val) : Bool :=
  match x, y with
  | .inf true, _ => true
  | _, .inf false => true
  | .inf false, _ => false
  | _, .inf true => false
  | .num na ma ea, .num nb mb eb =>
    if ma = 0 ∧ mb = 0 then na || !nb
    else
      let (n, m, _) := exactAdd na ma ea (!nb) mb eb
      n || m == 0
  | _, _ => false

/-- An operand passed through: itself, or the signed zero FTZ reads it as. -/
def passF (f : Fmt) (ftz : Bool) (a : Nat) : Nat :=
  match unpackF f ftz a with
  | .nan _ => f.nan
  | .num n 0 _ => f.signed n 0
  | _ => a % (2 * f.signBit)

/-- Floating min and max (05 R154). -/
def fMinMax (f : Fmt) (ftz : Bool) (isMax : Bool) (a b : Nat) : RRes :=
  let x := unpackF f ftz a
  let y := unpackF f ftz b
  let fl : Fl := if x.isSig || y.isSig then flNV else 0
  if x.isNan then .ok (passF f ftz b) fl
  else if y.isNan then .ok (passF f ftz a) fl
  else if (if isMax then valLe y x else valLe x y) then .ok (passF f ftz a) else .ok (passF f ftz b)

/-- The sign-bit functions abs, neg and copysign (05 R154): no flag, no FTZ; a NaN gives the canonical NaN. -/
def fSign (f : Fmt) (a : Nat) (sign : Bool → Bool) : Nat :=
  match unpackF f false a with
  | .nan _ => f.nan
  | _ => f.signed (sign (a / f.signBit % 2 == 1)) (a % f.signBit)

/-- A bf16 element rounded from f32 bits, as arithmetic results are (02 R71). -/
def f32ToBf16 (md : RMode) (ftz : Bool) (r16 : Nat) (x : Nat) : RRes :=
  convVal .bf16 md .ieee ftz r16 false (unpackF .f32 ftz x)

end Sys2Proof.Machine
end

