-- ==== Sys2Proof/Machine/VLane.lean ====
section
/-! DEFINITION. Vector operations as functions of their operands (05 R147 to R177): elements, masks, arithmetic,
comparison, conversion, reduction, scan, permutation, selection, moves and block operations. -/

namespace Sys2Proof.Machine

/-- Element i of width w bytes (05 R147). -/
def elem (w : Nat) (v : VData) (i : Nat) : Nat := v.toNat / 2 ^ (8 * w * i) % 2 ^ (8 * w)

/-- The number whose element 0 is the head. -/
def packNat (w : Nat) : List Nat → Nat
  | [] => 0
  | x :: xs => x % 2 ^ (8 * w) + 2 ^ (8 * w) * packNat w xs

/-- A register from its elements of width w bytes, those beyond the list 0. -/
def packV (w : Nat) (xs : List Nat) : VData := BitVec.ofNat 16384 (packNat w xs)

/-- The elements of a register (05 R147). -/
def elems (w : Nat) (v : VData) : List Nat := (List.range (2048 / w)).map (elem w v)

/-- Element i is active: the mask bit of its lowest byte-lane is 1 (05 R148). -/
def active (m : VMask) (w i : Nat) : Bool := m.getLsbD (w * i)

/-- Whether any of the first n elements is active. -/
def anyActive (m : VMask) (w n : Nat) : Bool := (List.range n).any (active m w)

/-- All 64 sidecar bytes 0x7F (01 R20). -/
def sideOne : VSide := BitVec.ofNat 512 (packNat 1 (List.replicate 64 0x7F))

/-- Sidecar byte j (01 R20). -/
def sideByte (s : VSide) (j : Nat) : Nat := s.toNat / 2 ^ (8 * j) % 256

/-- A sidecar from its bytes. -/
def packSide (xs : List Nat) : VSide := BitVec.ofNat 512 (packNat 1 xs)

/-- How an operation rounds: its mode, overflow policy, FTZ, and the state its draws come from (02 R64 to R68). -/
structure RCtx where
  md : RMode
  pol : OvPol
  ftz : Bool
  s : Word
deriving DecidableEq, Repr

/-- The result of a vector operation: data, sidecar, flags, and the lowest element that trapped, if any. -/
structure VRes where
  data : VData
  side : VSide
  fl : Fl
  trap : Option Nat
deriving DecidableEq, Repr

/-- The flags of a list of elements, together. -/
def flagsOf (rs : List RRes) : Fl := rs.foldl (fun f r => f ||| r.fl) 0

/-- The index of the first element that trapped. -/
def trapOf (rs : List RRes) : Option Nat := rs.findIdx? (fun r => r.trap)

/-- A register of rounded elements of width w; its sidecar is 0x7F throughout. -/
def vresOf (w : Nat) (rs : List RRes) : VRes :=
  ⟨packV w (rs.map RRes.bits), sideOne, flagsOf rs, trapOf rs⟩

/-- Elements computed where active, the old destination's elsewhere (05 R149). -/
def mapActive (w : Nat) (m : VMask) (old : VData) (f : Nat → RRes) : VRes :=
  vresOf w ((List.range (2048 / w)).map fun i => if active m w i then f i else .ok (elem w old i))

/-- The functions of `v` (05 R153, R154). -/
inductive VFn where
  | add | sub | mul | mulh | min | max | abs | neg | and | or | xor | andn | shl | shr | sra | adds | subs | absd
  | clz | popc | copysign | scale
deriving DecidableEq, Repr

/-- Number of leading zeros in the low w bits. -/
def clzN : Nat → Nat → Nat
  | 0, _ => 0
  | w + 1, x => if x / 2 ^ w % 2 = 1 then 0 else clzN w x + 1

/-- Number of one bits among the low w. -/
def popcN : Nat → Nat → Nat
  | 0, _ => 0
  | w + 1, x => x / 2 ^ w % 2 + popcN w x

/-- Number of trailing zeros in the low w bits. -/
def ctzN : Nat → Nat → Nat
  | 0, _ => 0
  | w + 1, x => if x % 2 = 1 then 0 else ctzN w (x / 2) + 1

/-- A value clipped to the type's range, setting SAT when clipped (05 R153). -/
def clipI (wb : Nat) (sg : Bool) (v : Int) : RRes :=
  if v < intMin wb sg then .ok (wrapI wb (intMin wb sg)) flSAT
  else if v > intMax wb sg then .ok (wrapI wb (intMax wb sg)) flSAT
  else .ok (wrapI wb v)

/-- The integer functions of `v` on elements of wb bits (05 R153). -/
def iFn (fn : VFn) (wb : Nat) (sg : Bool) (x y : Nat) : RRes :=
  let rd (z : Nat) : Int := if sg then sint wb z else (z % 2 ^ wb : Nat)
  let xi := rd x
  let yi := rd y
  let k := y % wb
  match fn with
  | .add => .ok (wrapI wb (xi + yi))
  | .sub => .ok (wrapI wb (xi - yi))
  | .mul => .ok (wrapI wb (xi * yi))
  | .mulh => .ok (wrapI wb (xi * yi / (2 ^ wb : Nat)))
  | .min => .ok (wrapI wb (min xi yi))
  | .max => .ok (wrapI wb (max xi yi))
  | .abs => .ok (wrapI wb xi.natAbs)
  | .neg => .ok (wrapI wb (-xi))
  | .and => .ok (x &&& y)
  | .or => .ok (x ||| y)
  | .xor => .ok (x ^^^ y)
  | .andn => .ok (x &&& (2 ^ wb - 1 - y % 2 ^ wb))
  | .shl => .ok (x * 2 ^ k % 2 ^ wb)
  | .shr => .ok (x % 2 ^ wb / 2 ^ k)
  | .sra => .ok (wrapI wb (sint wb x / (2 ^ k : Nat)))
  | .adds => clipI wb sg (xi + yi)
  | .subs => clipI wb sg (xi - yi)
  | .absd => .ok ((xi - yi).natAbs % 2 ^ wb)
  | .clz => .ok (clzN wb x)
  | .popc => .ok (popcN wb x)
  | .copysign | .scale => .ok 0

/-- The floating functions of `v` (05 R154). -/
def fFn (fn : VFn) (f : Fmt) (c : RCtx) (i x y : Nat) : RRes :=
  let r16 := srLane c.s i
  match fn with
  | .add => fAdd f c.md c.ftz r16 x y
  | .sub => fAdd f c.md c.ftz r16 x y true
  | .mul => fMul f c.md c.ftz r16 x y
  | .min => fMinMax f c.ftz false x y
  | .max => fMinMax f c.ftz true x y
  | .abs => .ok (fSign f x (fun _ => false))
  | .neg => .ok (fSign f x not)
  | .copysign => .ok (fSign f x (fun _ => y / f.signBit % 2 == 1))
  | .scale => fScale f c.md c.ftz r16 x y
  | _ => .ok 0

/-- The floating format of a 3-bit type. -/
def VType.fmt? : VType → Option Fmt
  | .f32 => some .f32
  | .bf16 => some .bf16
  | _ => none

/-- Width in bytes of a 3-bit type (05 R147). -/
def VType.width (t : VType) : Nat := EType.width (VType.toE t)

/-- Whether an integer type is signed (05 R153). -/
def VType.signed (t : VType) : Bool := EType.int? (VType.toE t) == some true

/-- `v` (05 R153, R154). -/
def vOp (fn : VFn) (t : VType) (c : RCtx) (m : VMask) (a b old : VData) : VRes :=
  let w := VType.width t
  mapActive w m old fun i =>
    match VType.fmt? t with
    | some f => fFn fn f c i (elem w a i) (elem w b i)
    | none => iFn fn (8 * w) (VType.signed t) (elem w a i) (elem w b i)

/-- A `v` function that is a rounding operation on a floating type (02 R66). -/
def VFn.rounds : VFn → VType → Bool
  | .add, t | .sub, t | .mul, t | .scale, t => (VType.fmt? t).isSome
  | _, _ => false

/-- `vfma` (05 R155). -/
def vFma (negP negC : Bool) (t : VType) (c : RCtx) (m : VMask) (a b old : VData) : VRes :=
  let w := VType.width t
  let f := (VType.fmt? t).getD .f32
  mapActive w m old fun i =>
    fFma f c.md c.ftz (srLane c.s i) negP negC (elem w a i) (elem w b i) (elem w old i)

/-- The relations of vcmp (05 R156). -/
inductive CmpRel where
  | eq | ne | lt | le | gt | ge | un
deriving DecidableEq, Repr

/-- A relation on an order of three outcomes: less, equal, greater. -/
def CmpRel.holds (r : CmpRel) (lt eq : Bool) : Bool :=
  match r with
  | .eq => eq
  | .ne => !eq
  | .lt => lt
  | .le => lt || eq
  | .gt => !(lt || eq)
  | .ge => !lt
  | .un => false

/-- One floating comparison: whether the relation holds, and its flags (05 R156). A subnormal operand is read as zero under FTZ: 02
R53 speaks of vector arithmetic and names no compare (DEDUCED, log entry 92). -/
def fCmp (f : Fmt) (ftz : Bool) (r : CmpRel) (x y : Nat) : Bool × Fl :=
  let a := unpackF f ftz x
  let b := unpackF f ftz y
  if a.isNan || b.isNan then
    (r == .ne || r == .un,
     if a.isSig || b.isSig || r == .lt || r == .le || r == .gt || r == .ge then flNV else 0)
  else
    let zero (v : Val) : Val := match v with
      | .num _ 0 e => .num false 0 e
      | v => v
    let le := valLe (zero a) (zero b)
    let ge := valLe (zero b) (zero a)
    (r.holds (le && !ge) (le && ge), 0)

/-- A mask from the list of its bits, bit 0 first. -/
def packMask (bs : List Bool) : VMask := BitVec.ofNat 2048 (bs.foldr (fun b n => b.toNat + 2 * n) 0)

/-- `vcmp` (05 R156): the mask and the flags. -/
def vCmp (r : CmpRel) (t : VType) (ftz : Bool) (m : VMask) (a b : VData) : VMask × Fl :=
  let w := VType.width t
  let one (i : Nat) : Bool × Fl :=
    if active m w i then
      match VType.fmt? t with
      | some f => fCmp f ftz r (elem w a i) (elem w b i)
      | none =>
        let x := elem w a i
        let y := elem w b i
        (if VType.signed t then r.holds (decide (sint (8 * w) x < sint (8 * w) y)) (x == y)
         else r.holds (decide (x < y)) (x == y), 0)
    else (false, 0)
  let rs := (List.range (2048 / w)).map one
  (packMask (rs.flatMap fun p => List.replicate w p.1), rs.foldl (fun f p => f ||| p.2) 0)

/-- `vcvt` from type s to type d (05 R157, R158). -/
def vCvt (d s : EType) (c : RCtx) (m : VMask) (a old : VData) : VRes :=
  let ws := EType.width s
  let wd := EType.width d
  vresOf wd ((List.range (2048 / max ws wd)).map fun i =>
    if active m wd i then convE d s c.md c.pol c.ftz (srLane c.s i) (elem ws a i) else .ok (elem wd old i))

/-- The elements of a source that are active, absent ones none. -/
def present (w : Nat) (m : VMask) (a : VData) : List (Option Nat) :=
  (List.range (2048 / w)).map fun i => if active m w i then some (elem w a i) else none

/-- A leaf of a floating sum as an f32 element: a bf16 is widened exactly (02 R71 to R74), a subnormal is read as
zero under FTZ. -/
def leafF32 (t : VType) (ftz : Bool) (x : Nat) : Nat :=
  match t with
  | .bf16 => (match unpackF .bf16 ftz x with
    | .num n 0 _ => Fmt.f32.signed n 0
    | _ => x * 2 ^ 16)
  | _ => (match unpackF .f32 ftz x with
    | .num n 0 _ => Fmt.f32.signed n 0
    | _ => x)

/-- One level of the pairwise tree: t[i] := t[i] + t[i + d], absent operands passed over (02 R72, R74, R440). -/
def treeLevel (c : RCtx) (d : Nat) (xs : List (Option Nat)) : List (Option Nat) × Fl :=
  let rs := (List.range d).map fun i =>
    match xs[i]?.join, xs[i + d]?.join with
    | some x, some y =>
      let r := fAdd .f32 c.md c.ftz (srLane c.s (d + i)) x y
      (some r.bits, r.fl)
    | some x, none => (some x, (0 : Fl))
    | none, y => (y, 0)
  (rs.map Prod.fst, rs.foldl (fun f p => f ||| p.2) 0)

/-- The fixed pairwise tree over 2^k lanes (02 R72). -/
def treeSum (c : RCtx) : Nat → List (Option Nat) → Fl → Option Nat × Fl
  | 0, xs, f => (xs.head?.join, f)
  | k + 1, xs, f =>
    let (ys, g) := treeLevel c (2 ^ k) xs
    treeSum c k ys (f ||| g)

/-- An f32 element with any NaN made canonical (02 R52). -/
def canonF (f : Fmt) (x : Nat) : Nat :=
  match unpackF f false x with
  | .nan _ => f.nan
  | _ => x

/-- The floating sum of vred (02 R72, R74, R440). A lone active signalling NaN, which no addition meets, is written as the canonical
NaN (R52) and sets no NV, at the rounding to bf16 too: DESIGN CHOICE, log entry 89. -/
def redSumF (t : VType) (c : RCtx) (xs : List (Option Nat)) : RRes :=
  let (r, f) := treeSum c (if t = .bf16 then 10 else 9) (xs.map fun o => o.map (leafF32 t c.ftz)) 0
  match r with
  | none => .ok 0 f
  | some x =>
    if t = .bf16 then
      let y := f32ToBf16 c.md c.ftz (srLane c.s 0) (canonF .f32 x)
      .ok y.bits (f ||| y.fl)
    else .ok (canonF .f32 x) f

/-- The functions of vred (05 R160). -/
inductive RedFn where
  | sum | max | min | and | or | xor | sumw
deriving DecidableEq, Repr

/-- The identity of max and min, the result when no element is active (05 R161). -/
def extIdent (t : VType) (isMax : Bool) : Nat :=
  match VType.fmt? t with
  | some f => f.signed isMax (f.infBits.getD f.nan)
  | none =>
    let wb := 8 * VType.width t
    wrapI wb (if isMax then intMin wb (VType.signed t) else intMax wb (VType.signed t))

/-- One step of a running maximum or minimum (05 R154, R160). -/
def extStep (t : VType) (ftz isMax : Bool) (acc : Option Nat) (x : Nat) : Nat :=
  match acc with
  | none => match VType.fmt? t with
    | some f => passF f ftz x
    | none => x
  | some r =>
    match VType.fmt? t with
    | some f => (fMinMax f ftz isMax r x).bits
    | none => (iFn (if isMax then .max else .min) (8 * VType.width t) (VType.signed t) r x).bits

/-- NV if any of the elements is a signalling NaN. -/
def sigFlags (t : VType) (xs : List Nat) : Fl :=
  match VType.fmt? t with
  | some f => if xs.any (fun x => (unpackF f false x).isSig) then flNV else 0
  | none => 0

/-- `vred` (05 R160, R161): element 0 of the result, its width in bytes, and flags. -/
def vRed (fn : RedFn) (t : VType) (c : RCtx) (m : VMask) (a : VData) : VRes :=
  let w := VType.width t
  let xs := present w m a
  let ys := xs.filterMap id
  let one (r : RRes) : VRes := ⟨packV 8 [r.bits], sideOne, r.fl, none⟩
  match fn with
  | .sum =>
    (match VType.fmt? t with
      | some _ => one (redSumF t c xs)
      | none => one (.ok (ys.foldl (· + ·) 0 % 2 ^ (8 * w))))
  | .max | .min =>
    let isMax := fn == .max
    (match ys with
      | [] => one (.ok (extIdent t isMax))
      | _ => one (.ok ((ys.foldl (fun acc x => some (extStep t c.ftz isMax acc x)) none).getD 0) (sigFlags t ys)))
  | .and => one (.ok (ys.foldl (· &&& ·) (2 ^ (8 * w) - 1)))
  | .or => one (.ok (ys.foldl (· ||| ·) 0))
  | .xor => one (.ok (ys.foldl (· ^^^ ·) 0))
  | .sumw =>
    let rd (x : Nat) : Int := if VType.signed t then sint (8 * w) x else x
    one (.ok (wrapI 64 (ys.foldl (fun s x => s + rd x) 0)))

/-- The functions of vscan (05 R162). -/
inductive ScanFn where
  | sumi | sumf | max
deriving DecidableEq, Repr

/-- The running values of a scan over the sources, none before the first active element: state, flags. Of the first active element,
which no addition meets, a signalling NaN is written as the canonical NaN and sets no NV (DESIGN CHOICE, log entry 89). The
rounding to bf16 of an inactive output lane raises its flags (DESIGN CHOICE, log entry 95). -/
def scanRun (fn : ScanFn) (t : VType) (c : RCtx) : Nat → Option Nat → List (Option Nat) → List RRes
  | _, _, [] => []
  | i, acc, x :: xs =>
    let out (r : Option Nat) (f : Fl) : RRes :=
      match fn, r with
      | .sumi, r => .ok (r.getD 0) f
      | .max, none => .ok (extIdent t true) f
      | .max, some r => .ok (match VType.fmt? t with
        | some g => canonF g r
        | none => r) f
      | .sumf, none => .ok 0 f
      | .sumf, some r =>
        if t = .bf16 then
          let y := f32ToBf16 c.md c.ftz (srLane c.s i) (canonF .f32 r)
          .ok y.bits (f ||| y.fl)
        else .ok (canonF .f32 r) f
    match x with
    | none => out acc 0 :: scanRun fn t c (i + 1) acc xs
    | some x =>
      let (acc', f) : Option Nat × Fl :=
        match fn with
        | .sumi => (some ((acc.getD 0 + x) % 2 ^ (8 * VType.width t)), 0)
        | .max => (some (extStep t c.ftz true acc x), sigFlags t [x])
        | .sumf =>
          match acc with
          | none => (some (leafF32 t c.ftz x), 0)
          | some r =>
            let d := if t = .bf16 then 1024 + i else i
            let y := fAdd .f32 c.md c.ftz (srLane c.s d) r (leafF32 t c.ftz x)
            (some y.bits, y.fl)
      out acc' f :: scanRun fn t c (i + 1) acc' xs

/-- `vscan` (05 R162). -/
def vScan (fn : ScanFn) (t : VType) (c : RCtx) (m : VMask) (a : VData) : VRes :=
  let w := VType.width t
  vresOf w (scanRun fn t c 0 none (present w m a))

/-- Width in bytes of a VPERM element (03 R96). -/
def ElemW.bytes : ElemW → Nat
  | .w32 => 4 | .w16 => 2 | .w8 => 1

/-- The functions of vperm (05 R163). -/
inductive PermFn where
  | bcast | iota | slideup | slidedn | perm | zip | unzip | rev
deriving DecidableEq, Repr

/-- The element that vperm moves to element i (05 R163). -/
def permElem (fn : PermFn) (w imm : Nat) (a b : VData) (i : Nat) : Nat :=
  let n := 2048 / w
  match fn with
  | .bcast => elem w a imm
  | .iota => i % 2 ^ (8 * w)
  | .slideup => if i ≥ imm then elem w a (i - imm) else 0
  | .slidedn => if i + imm < n then elem w a (i + imm) else 0
  | .perm =>
    let j := elem w b i
    elem w a (if w = 4 then j % 512 else if w = 2 then j % 1024 else i / 256 * 256 + j % 256)
  | .zip => if i % 2 = 0 then elem w a (i / 2) else elem w b ((i - 1) / 2)
  | .unzip => if i < n / 2 then elem w a (2 * i) else elem w b (2 * i - n)
  | .rev => elem w a (n - 1 - i)

/-- `vperm` (05 R163). -/
def vPerm (fn : PermFn) (w imm : Nat) (m : VMask) (a b old : VData) : VRes :=
  mapActive w m old fun i => .ok (permElem fn w imm a b i)

/-- `vsel` (05 R168). -/
def vSel (m : VMask) (a b : VData) : VData :=
  packV 1 ((List.range 2048).map fun j => if m.getLsbD j then elem 1 a j else elem 1 b j)

/-- Number of set bits of a mask (05 R167). -/
def maskCount (m : VMask) : Nat := popcN 2048 m.toNat

/-- Index of the lowest set bit, 2,048 if none (05 R167). -/
def maskFirst (m : VMask) : Nat := ctzN 2048 m.toNat

/-- The mask whose bits below n are set (05 R167). -/
def maskSet (n : Nat) : VMask := BitVec.ofNat 2048 (2 ^ (Nat.min n 2048) - 1)

/-- Width in bytes of a vins or vext element (03 R96). -/
def Width.insBytes : Width → Nat
  | .w0 => 4 | .w1 => 2 | .w2 => 1 | .w3 => 8

/-- `vins` (05 R169). -/
def vIns (w i : Nat) (x : Nat) (v : VData) : VData :=
  packV w ((List.range (2048 / w)).map fun j => if j = i then x else elem w v j)

/-- `vblk.bexp` (05 R172). -/
def vBexp (m : VMask) (a : VData) : VData :=
  let blk (j : Nat) : Nat :=
    (List.range 128).foldl (fun e i =>
      if active m 4 (128 * j + i) then max e (elem 4 a (128 * j + i) / 2 ^ 23 % 256) else e) 0
  packV 4 ((List.range 4).flatMap fun j => List.replicate 128 (blk j))

/-- One f32 converted to anc64 against anchor e, with rne: N as 64 bits; an inexact one sets NX (02 R61, R70). -/
def ancOf (e : Nat) (x : Nat) : RRes :=
  match unpackF .f32 false x with
  | .num neg m ex =>
    let r := roundMag .rne neg 0 m (ex + 173 - e) 0 false
    .ok (wrapI 64 (if neg then -(r.1 : Int) else r.1)) (if r.2 then flNX else 0)
  | _ => .ok 0

/-- The anchor word of a block as its 32 sidecar bytes: E, the count, zeros (02 R60). -/
def ancWord (e c : Nat) : List Nat :=
  [e, c % 256, c / 256 % 256, c / 65536 % 256] ++ List.replicate 28 0

/-- `vblk.anc` (05 R173); trap holds the lowest finite lane whose exponent exceeds its anchor, in a block that a NaN or an
infinite lane makes a NaN block too, since 02 R61 judges each element against the given anchor (log entry 60). The elements of a
NaN block are not converted, and raise no flag. -/
def vAnc (m : VMask) (a b : VData) : VRes :=
  let lane (l : Nat) : Nat := if active m 4 l then elem 4 a l else 0
  let anchor (j : Nat) : Nat := elem 4 b (128 * j) % 256
  let expo (l : Nat) : Nat := lane l / 2 ^ 23 % 256
  let isNanBlk (j : Nat) : Bool :=
    anchor j == 255 || (List.range 128).any fun i => expo (128 * j + i) == 255
  let bad (l : Nat) : Bool :=
    anchor (l / 128) != 255 && expo l != 255 && decide (expo l > anchor (l / 128))
  let ns := (List.range 256).map fun l =>
    if isNanBlk (l / 128) then .ok 0 else ancOf (anchor (l / 128)) (lane l)
  { data := packV 8 (ns.map RRes.bits),
    side := packSide ((List.range 2).flatMap fun j => ancWord (if isNanBlk j then 255 else anchor j) 1),
    fl := flagsOf ns,
    trap := (List.range 256).find? bad }

/-- An anc64 element decoded to f32 (02 R63). -/
def ancToF32 (md : RMode) (pol : OvPol) (r16 : Nat) (e n : Nat) : RRes :=
  let v := sint 64 n
  if v = 0 then .ok 0 else roundF .f32 md pol false r16 (decide (v < 0)) v.natAbs ((e : Int) - 173)

/-- `vblk.unanc` (05 R174). In a NaN block every element gives the canonical NaN, inactive ones too, where R171 lets an inactive
element decode to +0.0 (log entry 60). -/
def vUnanc (c : RCtx) (m : VMask) (a : VData) (sd : VSide) : VRes :=
  vresOf 4 ((List.range 256).map fun l =>
    let e := sideByte sd (32 * (l / 128))
    if e = 255 then .ok Fmt.f32.nan
    else ancToF32 c.md c.pol (srLane c.s l) e (if active m 8 l then elem 8 a l else 0))

/-- A block of 32 elements (none: inactive) quantised under 05 R175: its scale, its elements as i8, flags; trapAt is
the first element that overflows under the trapping policy. The draw of element i is r i. -/
def quantBlock (c : RCtx) (f : Fmt) (r : Nat → Nat) (xs : List (Option Nat)) : Nat × List RRes :=
  let vals := xs.map fun o => o.map (unpackF f c.ftz)
  let special := vals.any fun o => match o with
    | some (.nan _) | some (.inf _) => true
    | _ => false
  let expoOf (x : Nat) : Nat :=
    match unpackF f c.ftz x with
    | .num _ 0 _ => 0
    | _ => x / 2 ^ f.mbits % 2 ^ f.ebits
  let e := xs.foldl (fun m o => match o with
    | some x => max m (expoOf x)
    | none => m) 0
  if special then
    (255, (List.range xs.length).map fun i => .ok 0 (if i = 0 then flNV else 0))
  else
    (e, (List.range xs.length).map fun i =>
      match (vals[i]?).getD none with
      | some (Val.num neg m ex) => roundI 8 true c.md c.pol false (r i) neg m (ex + 133 - e)
      | _ => .ok 0)

/-- `vblk.bscale` (05 R175). -/
def vBscale (c : RCtx) (m : VMask) (a : VData) : VRes :=
  let blks := (List.range 16).map fun k =>
    quantBlock c .f32 (fun i => srLane c.s (32 * k + i))
      ((List.range 32).map fun i => if active m 4 (32 * k + i) then some (elem 4 a (32 * k + i)) else none)
  let rs := blks.flatMap Prod.snd
  { data := packV 1 (rs.map RRes.bits),
    side := packSide (blks.map Prod.fst ++ List.replicate 48 0x7F),
    fl := flagsOf rs,
    trap := trapOf rs }

/-- The bytes of a pni plane image: byte 256 × (7 − j) + t div 8 holds bit j of elements 8 × (t div 8) and on
(02 R56). -/
def planeByte (q : Nat → Nat) (j g : Nat) : Nat :=
  (List.range 8).foldl (fun n t => n + (q (8 * g + t) / 2 ^ j % 2) * 2 ^ t) 0

/-- `vblk.plpack` (05 R176): the data. -/
def vPlpack (k : Nat) (m : VMask) (a b : VData) : VData :=
  let q (t : Nat) : Nat := if active m 1 t then elem 1 a t else 0
  packV 1 ((List.range 2048).map fun y =>
    if y < 256 * k then planeByte q (7 - y / 256) (y % 256) else elem 1 b y)

/-- The first k planes of an i8 element, the others 0 (02 R57). -/
def topPlanes (k q : Nat) : Nat := q % 256 / 2 ^ (8 - k) * 2 ^ (8 - k)

/-- Element t of a plane image's first k planes, a plane having g bytes (02 R56, R57). -/
def planeElem (byteAt : Nat → Nat) (g k t : Nat) : Nat :=
  (List.range k).foldl (fun n p => n + (byteAt (g * p + t / 8) / 2 ^ (t % 8) % 2) * 2 ^ (7 - p)) 0

/-- `vblk.plunpk` (05 R177): the data. -/
def vPlunpk (k : Nat) (m : VMask) (a : VData) : VData :=
  packV 1 ((List.range 2048).map fun t => if active m 1 t then planeElem (elem 1 a) 256 k t else 0)

end Sys2Proof.Machine
end

