-- ==== Sys2Proof/Machine/MatNum.lean ====
section
/-! DEFINITION. The arithmetic of a matrix beat: the terms of each column (06 R191, R192, R197), the aligned sum (02 R75
to R78) and the saturating integer sum (02 R77). -/

namespace Sys2Proof.Machine

/-- One stationary line: 256 data bytes and 8 scale bytes (06 R189). An operand eighth has the same form. -/
structure Line where
  data : BitVec 2048
  sc : BitVec 64
deriving DecidableEq, Repr

/-- A line of zeros with every scale byte 0x7F (06 R190). -/
def Line.zero : Line := ⟨0, 0x7F7F7F7F7F7F7F7F#64⟩

/-- The matrix mode as mmode sets it (06 R189, R193). -/
structure MatCfg where
  mode : MatMode
  planes : Nat
  acci : Bool
  satt : Bool
deriving DecidableEq, Repr

/-- Eighth e of a vector register with its 8 sidecar bytes (06 R191). -/
def eighthOf (v : VData) (sd : VSide) (e : Nat) : Line :=
  ⟨v.extractLsb' (2048 * e) 2048, sd.extractLsb' (64 * e) 64⟩

/-- Byte k of a line. -/
def Line.byte (l : Line) (k : Nat) : Nat := l.data.toNat / 2 ^ (8 * k) % 256

/-- Scale byte b of a line. -/
def Line.scale (l : Line) (b : Nat) : Nat := l.sc.toNat / 2 ^ (8 * b) % 256

/-- Whether elements are nibbles, so that a beat takes K = 512 (06 R191). -/
def MatCfg.nibbles (c : MatCfg) : Bool :=
  match c.mode with
  | .i4 => true
  | .pni => decide (c.planes ≤ 4)
  | _ => false

/-- Element k of an integer or pni operand as its integer (06 R191). -/
def MatCfg.intElem (c : MatCfg) (l : Line) (k : Nat) : Int :=
  if c.nibbles then
    let n := l.byte (k / 2) / 2 ^ (4 * (k % 2)) % 16
    match c.mode with
    | .pni => sint 8 (n / 2 ^ (4 - c.planes) * 2 ^ (8 - c.planes))
    | _ => sint 4 n
  else
    match c.mode with
    | .pni => sint 8 (topPlanes c.planes (l.byte k))
    | _ => sint 8 (l.byte k)

/-- Element k of a floating operand, and the scale byte that governs it, none where scales are ignored. -/
def MatCfg.fltElem (c : MatCfg) (l : Line) (k : Nat) : Val × Option Nat :=
  match c.mode with
  | .bf16 => (unpackF .bf16 false (l.byte (2 * k) + 256 * l.byte (2 * k + 1)), none)
  | .e4m3 => (unpackF .e4m3 false (l.byte k), some (l.scale (k / 32)))
  | _ => (unpackF .e5m2 false (l.byte k), some (l.scale (k / 32)))

/-- Dot product of the K-block m: elements 32m to 32m + 31 (02 R76; 06 R192). -/
def MatCfg.dot (c : MatCfg) (a w : Line) (m : Nat) : Int :=
  (List.range 32).foldl (fun s i => s + c.intElem a (32 * m + i) * c.intElem w (32 * m + i)) 0

/-- The K-blocks of a beat (06 R192). -/
def MatCfg.blocks (c : MatCfg) : Nat := if c.nibbles then 16 else 8

/-- The product of two floating elements as a term (06 R197; 02 R78). -/
def fltTerm (x y : Val × Option Nat) : Val :=
  if x.2 = some 255 ∨ y.2 = some 255 then .nan false
  else
    let sc : Int := match x.2, y.2 with
      | some a, some b => (a : Int) + b - 254
      | _, _ => 0
    match mulVal x.1 y.1 with
    | none => .nan false
    | some (.num n m e) => .num n m (e + sc)
    | some v => v

/-- The terms of a beat for one column, the accumulator's value apart (06 R197). -/
def MatCfg.terms (c : MatCfg) (a w : Line) : List Val :=
  match c.mode with
  | .bf16 => (List.range 128).map fun k => fltTerm (c.fltElem a k) (c.fltElem w k)
  | .e4m3 | .e5m2 => (List.range 256).map fun k => fltTerm (c.fltElem a k) (c.fltElem w k)
  | _ => (List.range c.blocks).map fun m =>
    let b := if c.nibbles then m / 2 else m
    let sa := a.scale b
    let sw := w.scale b
    if sa = 255 ∨ sw = 255 then .nan false
    else
      let d := c.dot a w m
      .num (decide (d < 0)) d.natAbs ((sa : Int) + sw - 266)

/-- The largest floor(log2 |x|) among the nonzero terms (02 R75). -/
def topExp (ts : List Val) : Option Int :=
  ts.foldl (fun acc t => match t with
    | .num _ m e =>
      if m = 0 then acc
      else
        let x := (ilog2 m : Int) + e
        match acc with
        | none => some x
        | some y => some (max x y)
    | _ => acc) none

/-- A term truncated toward zero to a count of 2^q (02 R75). -/
def truncTo (q : Int) (t : Val) : Int :=
  match t with
  | .num n m e =>
    let c : Nat := if q ≤ e then m * 2 ^ (e - q).toNat else m / 2 ^ (q - e).toNat
    if n then -(c : Int) else c
  | _ => 0

/-- The aligned sum of a beat's terms, rounded once to f32 (02 R75, R78). -/
def beatSum (ts : List Val) : Nat :=
  let posInf := ts.any fun t => t == .inf false
  let negInf := ts.any fun t => t == .inf true
  if ts.any Val.isNan || (posInf && negInf) then Fmt.f32.nan
  else if posInf then 0x7F800000
  else if negInf then 0xFF800000
  else match topExp ts with
    | none => 0
    | some e =>
      let q := e - 36
      let s := ts.foldl (fun acc t => acc + truncTo q t) 0
      if s = 0 then 0 else (roundF .f32 .rne .ieee false 0 (decide (s < 0)) s.natAbs q).bits

/-- The integer sum of a column, saturated to i32; whether it saturated (02 R77). -/
def satAdd32 (d c : Int) : Nat × Bool :=
  let s := d + c
  if s < -(2 ^ 31 : Nat) then (2 ^ 31, true)
  else if s > (2 ^ 31 : Nat) - 1 then (2 ^ 31 - 1, true)
  else (wrapI 32 s, false)

/-- Column j of an accumulator row. -/
def AccRow.col (r : AccRow) (j : Nat) : Nat := r.toNat / 2 ^ (32 * j) % 2 ^ 32

/-- A beat into a row: the row after it, and the lowest column that saturated (06 R196, R198). -/
def beat (c : MatCfg) (a : Line) (bank : List Line) (row : AccRow) : AccRow × Option Nat :=
  let cols := (List.range 128).map fun j =>
    let w := (bank[j]?).getD Line.zero
    let x := AccRow.col row j
    if c.acci then
      let d := (List.range c.blocks).foldl (fun s m => s + c.dot a w m) 0
      satAdd32 d (sint 32 x)
    else (beatSum (c.terms a w ++ [unpackF .f32 false x]), false)
  (BitVec.ofNat 4096 (packNat 4 (cols.map Prod.fst)), cols.findIdx? Prod.snd)

/-- A row with 0x7FC0_0000 in every column (06 R207). -/
def nanRow : AccRow := BitVec.ofNat 4096 (packNat 4 (List.replicate 128 0x7FC00000))

end Sys2Proof.Machine
end

