-- ==== Sys2Proof/Machine/State.lean ====
section
/-! DEFINITION. The state of one T48 device (01 R15 to R46 and the chapters it names), as plain data; what a step can
end in; and the state after reset. Fields marked MODEL are the model's own bookkeeping, which the manual does not
name. -/

namespace Sys2Proof.Machine

/-- What stops the machine. -/
inductive Fault where
  /-- Raised by a slot operation given to exec while the focus names no context: no agent executes it. Safe: no step
  of the machine does this. -/
  | noContext
deriving DecidableEq, Repr

/-- Why an instruction has no meaning. -/
inductive Refusal where
  /-- Raised by an arm of exec whose instruction is not modelled. Safe. -/
  | notModelled (mnemonic : String)
deriving DecidableEq, Repr

/-- An entry of the successor queue: bits 55:4 of the bundle address, and N (01 R24). -/
structure QEnt where
  addr : BitVec 52
  n : Bool
deriving DecidableEq, Repr

/-- A vector pool entry with its sidecar (01 R15, R20). -/
structure VReg where
  data : VData
  side : VSide
deriving DecidableEq, Repr

/-- The register classes of EINFO (01 R22). -/
inductive RegClass where
  | scalar | vector | mask | acc | ring | side
deriving DecidableEq, Repr

/-- A register named by a slot: its class and number (01 R22), and the eighth of a vector register that is read where
only that is (03 R92; 06 R191). -/
structure RegRef where
  cls : RegClass
  num : Nat
  part : Option Nat := none
deriving DecidableEq, Repr

/-- The value of a result in flight (01 R43). A vector result writes the bits that its two write masks select. -/
inductive FlightVal where
  | scalar (k : Nat) (v : Word)
  | vec (k : Nat) (data dmask : VData) (side smask : VSide)
  | mask (k : Nat) (v : VMask)
  | flags (f : Fl)
  | load (k : Nat) (id : Nat) (v : Option Word)
  | sat (row : Nat) (col : Option Nat) (trap : Bool)
deriving DecidableEq, Repr

/-- A result in flight. Due counts the context's steps (MODEL: absolute at the current hold level, steps remaining at
a lower one, 01 R46); ord is the order of issue. -/
structure Flight where
  due : Nat
  lvl : Nat
  ord : Nat
  val : FlightVal
deriving DecidableEq, Repr

/-- A pending effect on the matrix unit (06 R193 to R201). A row carries its value after the update, in issue order. -/
inductive MatOp where
  | push (bank : Bool) (line : Nat) (l : Line) (v : Nat)
  | swap
  | mode (c : MatCfg)
  | row (r : Nat) (v : AccRow)
deriving DecidableEq, Repr

/-- A matrix effect in flight, timed as a Flight is. -/
structure MatFlight where
  due : Nat
  lvl : Nat
  ord : Nat
  op : MatOp
deriving DecidableEq, Repr

/-- The matrix unit of a core (06 R189); rows are physical. Active false is bank 0. -/
structure MatUnit where
  holder : Option Nat
  mode : Option MatCfg
  active : Bool
  bank0 : Tab Line
  bank1 : Tab Line
  rows : Tab AccRow
  pend : List MatFlight
deriving DecidableEq, Repr

/-- A byte stored to scratchpad (04 R137): its physical offset, its value, the bits of it that the store writes (a plane
store under a mask writes some bits of a byte, 05 R183), and whether it was stored through the swizzled view. -/
structure SpStore where
  off : Nat
  byte : Byte
  mask : Byte
  swz : Bool
deriving DecidableEq, Repr

/-- An entry of the gated store buffer (04 R137): scratchpad bytes; global bytes by virtual and physical address; or a word of
the register window. Joined: a vjoin came after. -/
inductive GateEnt where
  | sp (bytes : List SpStore) (joined : Bool)
  | gl (va pa : Nat) (bytes : List Byte) (rel : Bool) (ord : Nat)
  | win (offset : Nat) (v : Word) (rel : Bool)
deriving DecidableEq, Repr

/-- A byte this context stored through one view since its last vjoin, and what the byte held without the stores
through that view (08 R251). -/
structure ViewRec where
  off : Nat
  swz : Bool
  prior : Byte
deriving DecidableEq, Repr

/-- The kinds of global access of a context (08 R269). -/
inductive AccKind where
  | ldg | lda | stg | str | atomic
deriving DecidableEq, Repr

/-- The combinations of amo and the exchange of cas (04 R141, R142). -/
inductive AmoFn where
  | add | and | or | xor | min | max | minn | maxn | swp | cas
deriving DecidableEq, Repr

/-- What an atomic does to its location: its function and its operands (04 R141, R142). -/
structure Atom where
  fn : AmoFn
  x : Word
  y : Word
deriving DecidableEq, Repr

/-- A published global access (08 R266): a load or an atomic until its reply, a store until it is performed. Fwd holds the bytes a
load takes from the context's own earlier stores; got the value once performed; win says that it is one of the register window;
acq and rel are the ordering bits of an atomic, and atom what it does (04 R143). -/
structure Access where
  id : Nat
  ord : Nat
  kind : AccKind
  va : Nat
  pa : Nat
  len : Nat
  zext : Bool
  bytes : List Byte
  fwd : List (Option Byte)
  got : Option Word
  win : Bool
  acq : Bool
  rel : Bool
  atom : Option Atom
deriving DecidableEq, Repr

/-- An entry of a context's region table (08 R255). -/
structure Region where
  first : Nat
  count : Nat
  base : Nat
  vint : Bool
deriving DecidableEq, Repr

/-- A pending trap raised by no slot (10 R313). -/
structure Pend where
  cause : Cause
  info : Word
deriving DecidableEq, Repr

/-- What a blocked context waits for (07 R218, R238 to R247; 08 R256). -/
inductive Block where
  | ringFilled (q : Nat)
  | ringRoom (q : Nat)
  | phase (off : Nat) (ph : Bool)
  | sync
  | barx (ch : Nat)
  | drain (scope : Nat)
  | queuePlaces (eng n : Nat)
  | fill (tiles : List Nat)
  | shapes (glob : Bool) (a n : Nat)
  | ending
  | idle
deriving DecidableEq, Repr

/-- Whether a context may issue (09 R294; 10 R313, R326, R327, R337). -/
inductive Run where
  | starting (cycle : Nat)
  | ready
  | blocked (b : Block) (since : Nat)
  | migrating (page : Nat)
  | awaitAtomic (id : Nat) (since : Nat)
  | parked
  | retired
deriving DecidableEq, Repr

/-- The part of a context that a rollback restores and a mark records (10 R319): queue, DC, privilege, lr, masks,
special registers, shape table, and the handler state of 10 R312. SavedFl (MODEL): the flags that fell due at the step of
the bundle a handler interrupted, for its csrw VFLAGS (01 R32). -/
structure Arch where
  pc : QEnt
  q1 : QEnt
  q2 : QEnt
  dc : Nat
  priv : Bool
  lr : Word
  masks : Tab VMask
  rmode : Word
  ovpol : Word
  vflags : Word
  rngs : Word
  check : Word
  wid : Word
  widw : Word
  mbt : Word
  stage : Word
  vint : Word
  step : Word
  ecause : Word
  einfo : Word
  epc : Word
  epcq1 : Word
  epcq2 : Word
  slotfault : Word
  estatus : Word
  quantum : Word
  tabsel : Word
  tabidx : Word
  inHandler : Bool
  savedDc : Nat
  savedFl : Fl
  epcWritten : Bool
  bpExempt : Bool
  lvl : Nat
  shapes : Tab Word
deriving DecidableEq, Repr

/-- The matrix state a mark shadows (06 R206). -/
structure MatShadow where
  mode : Option MatCfg
  active : Bool
  bank0 : Tab Line
  bank1 : Tab Line
  rows : Tab AccRow
  pend : List MatFlight
deriving DecidableEq, Repr

/-- A mark's record (10 R319). At is the context's step count when it was taken; pre says that the mark point lies
before the stall steps of the bundle at PC. -/
structure Mark where
  arch : Arch
  sregs : List Word
  vregs : List VReg
  flights : List Flight
  dueFlags : Fl
  mat : Option MatShadow
  point : Nat
  ord : Nat
deriving DecidableEq, Repr

/-- A page translation (11 R363 to R366). Size is the page's bytes; perms holds SUP, X, W, R in bits 3:0. -/
structure TlbEnt where
  va : Nat
  size : Nat
  pa : Nat
  sup : Bool
  x : Bool
  w : Bool
  r : Bool
  hv : Bool
  hown : Bool
  pin : Bool
  poison : Bool
deriving DecidableEq, Repr

/-- What a translation gave a waiting bundle (11 R365). -/
inductive XRes where
  | ok (e : TlbEnt)
  | fault (c : Cause)
deriving DecidableEq, Repr

/-- Bytes whose value the manual leaves undefined: lo, length, the seed of their free values and the number of the
first of them (MODEL). A bank that is saved and restored elsewhere keeps these numbers. -/
structure Undef where
  lo : Nat
  len : Nat
  seed : Nat
  org : Nat
deriving DecidableEq, Repr

/-- What a context's fetch sees (04 R134): device memory, with its undefined ranges, and host memory as they were when its
task started, followed through the migrations of pages since and through no store. -/
structure CodeView where
  mem : Mem
  undef : List Undef
  host : Mem
deriving DecidableEq, Repr

/-- A context (01 R15). Loaded holds the records that shape loads of its bundle have read, by
where they stand (11 R341). BarSent lists the barrier arrivals it has sent and not yet joined: channel, sequence number,
released (07 R242); barChs the channels of every barx since it started (10 R331). SyncIn says that its part of the
core's contribution is ready, actIn that its sync was released (07 R240), syncWait the cycles it was blocked at its sync while
placed, before the present block (07 R241). StartAt is the start cycle of its latest placement (09 R290, R293). TurnStart says that a park ended before its bundle issued, so that its next turn
starts at a boundary (10 R313, R326); absent the absence tokens that stand for it, each a group and a sequence number, which its
presence tokens withdraw (10 R331); code what its fetch sees of memory (04 R134). -/
structure Ctx where
  arch : Arch
  gang : Nat
  field0 : Nat
  coreIdx : Nat
  ttype : Nat
  sBase : Nat
  sCount : Nat
  vBase : Nat
  vCount : Nat
  aBase : Nat
  aCount : Nat
  rings : BitVec 32
  banks : List Nat
  holder : Bool
  stepNo : Nat
  ord : Nat
  flights : List Flight
  dueFlags : Fl
  gate : List GateEnt
  views : List ViewRec
  mark : Option Mark
  window : Option Nat
  regions : List Region
  pends : List Pend
  run : Run
  stalls : Nat
  inUnit : Bool
  acc : List Access
  nextId : Nat
  walks : List (Nat × XRes)
  loaded : List ((Bool × Nat × Nat) × List Word)
  fillBad : List (Nat × Cause × Nat)
  cmds : Nat
  barSent : List (Nat × Nat × Bool)
  barChs : List Nat
  ctl : Word
  bpaddr : Word
  tcmp : Word
  saveCycle : Word
  quantumSteps : Nat
  qtrap : Bool
  syncIn : Bool
  actIn : Bool
  syncWait : Nat
  startAt : Nat
  turnStart : Bool
  absent : Option (List (Nat × Nat))
  code : Option CodeView
deriving DecidableEq, Repr

/-- A ring register (07 R215) and, as recorded by rinit, the physical tiles of its extent (07 R220) and the channel
that filled each slot (12 R380). -/
structure Ring where
  valid : Bool
  pside : Bool
  cside : Bool
  prod : Nat
  cons : Nat
  perm1 : Nat
  countm1 : Nat
  slotm1 : Nat
  first : Nat
  tiles : List Nat
  filled : Tab Nat
  reserved : Nat
  taken : Nat
deriving DecidableEq, Repr

/-- A region tile of scratchpad (08 R256, R257): its state, where it fills from, with whose privilege, its dirty bits, one a
byte, and the stores made to it while it is unfilled, by offset in the tile, which its fill lies under; the first flushed of them an
rflush has captured: they leave no byte dirty (07 R233). -/
structure TileSt where
  filled : Bool
  filling : Bool
  base : Nat
  priv : Bool
  dirty : BitVec 8192
  held : List SpStore
  flushed : Nat
deriving DecidableEq, Repr

/-- Where a command stands (07 R211, R212). -/
inductive CmdSt where
  | queued | aside | fired | storing
deriving DecidableEq, Repr

/-- An engine command (07 R210 to R233) with what was captured as it committed (cells: the dirty bytes of rflush), the page or
the tiles of cores it waits for, and the first fault of an rflush that goes on with the rest of its bytes (08 R257). -/
structure Cmd where
  id : Nat
  eng : Nat
  fn : Nat
  place : Nat
  gang : Nat
  coreIdx : Nat
  field0 : Nat
  ordinal : Nat
  sa : Word
  sb : Word
  qa : Nat
  qb : Nat
  priv : Bool
  mbt : Word
  stage : Word
  shape : List Word
  md : Nat
  sr : Word
  banks : List Nat
  range : List Nat
  order : Nat
  accOrd : Nat
  st : CmdSt
  data : List Byte
  aux : Nat
  page : Option Nat
  waitTiles : List (Nat × Nat)
  cells : List Host.Cell
  bad : Option (Cause × Nat)
deriving DecidableEq, Repr

/-- Why a core is frozen (10 R325): a translation, a late reply, a migration wait, or a target or table read, which is late or
waits for an earlier lda (04 R128, R129, R139). -/
inductive FrzKind where
  | xlate (va : Nat)
  | reply (id : Nat)
  | migrate (va : Nat)
  | read (va : Nat) (late : Bool)
deriving DecidableEq, Repr

/-- A freeze: the context it is on account of, its first cycle and the bound it began with (01 R33; 10 R325). -/
structure Freeze where
  place : Nat
  since : Nat
  bound : Nat
  kind : FrzKind
deriving DecidableEq, Repr

/-- Who makes an update of a sync object: a context by an arrival, ord standing after the accesses it published before, or a copy
as it completes (07 R237 to R239; 11 R344). -/
inductive SobjBy where
  | context (gang coreIdx field0 ord : Nat) (sa : Word)
  | command (id sobj : Nat)
deriving DecidableEq, Repr

/-- The maker of an update is the command of a number. -/
def SobjBy.isCmd (id : Nat) : SobjBy → Bool
  | .command n _ => n == id
  | _ => false

/-- An update of the sync object at a physical offset, made in the present cycle: arrivals and bytes (07 R237). -/
structure SobjUpd where
  off : Nat
  arr : Nat
  bytes : Nat
  who : SobjBy
deriving DecidableEq, Repr

/-- A control transfer as it moves the queue (01 R25; 04 R123 to R129). -/
structure Xfer where
  taken : Bool
  target : BitVec 52
  nullify : Bool
deriving DecidableEq, Repr

/-- The effects of a slot at commit (01 R49), as data. -/
inductive Act where
  | result (lat : Nat) (v : FlightVal)
  | rngs (s : Word)
  | csr (num : Nat) (v : Word)
  | tabdat (v : Option Word)
  | gate (e : GateEnt)
  | load (kind : AccKind) (reg : Nat) (va pa len : Nat) (zext win : Bool)
  | atomic (reg : Nat) (va pa len : Nat) (atom : Atom) (acq rel : Bool)
  | winRead (offset : Nat)
  | xfer (x : Xfer)
  | link (v : Word)
  | mat (lat : Nat) (op : MatOp)
  | shapes (k : Nat) (ws : List Word)
  | regionMap (r : Region)
  | cmd (c : Cmd)
  | ringSide (q : Nat) (producer : Bool)
  | radv (q : Nat)
  | rels (q : Nat)
  | own (tiles : List Nat) (v : Bool)
  | vjoin
  | rinit (q : Nat) (r : Ring)
  | arrive (off : Nat) (bytes : Option Word) (sa : Word)
  | trap (n : Nat)
  | eret
  | idle
  | retire
  | yield
  | joined (ch : Option Nat)
  | viewBad (ea : Nat)
  | tlbConflict (va : Nat)
deriving DecidableEq, Repr

/-- A slot of a committed bundle that its core has still to run (13 R403): its number, whether it is a matrix operation, a beat
or a handoff, and its effects. -/
structure SubSlot where
  slot : Nat
  matrix : Bool
  beat : Bool
  handoff : Bool
  acts : List Act
deriving DecidableEq, Repr

/-- The rest of a bundle split into sub-bundles (01 R34, R45; 13 R403): its context, the slots left, what follows its step,
whether its handoffs take a mark, and whether one has taken effect (07 R209). -/
structure Split where
  place : Nat
  left : List SubSlot
  after : List Act
  publishes : Bool
  remarks : Bool
  handed : Bool
deriving DecidableEq, Repr

/-- A core (01 R15). Beats and mats are the cycles of its beats and of its matrix operations (06 R203; 13 R407); wbWaits
the pages that write-backs of a group that retires or is reclaimed wait for, wbFails those of them that did not come, with the cause (08 R257,
R263). -/
structure Core where
  spool : Tab Word
  vpool : Tab VReg
  mat : MatUnit
  sp : Mem
  undef : List Undef
  owner : BitVec 512
  readyBits : BitVec 512
  arrived : Tab Nat
  bankFmt : Tab Word
  tiles : Tab TileSt
  rings : Tab Ring
  cmds : List Cmd
  nextCmd : Nat
  slotmask : Word
  skew : Word
  tvec : Word
  watchdog : Word
  bal : Nat
  hot : Nat
  therm : Nat
  cap : Nat
  sup : Nat
  ctxs : Tab Ctx
  turn : Nat
  turnSteps : Nat
  freeze : Option Freeze
  busy : Nat
  utlb : List TlbEnt
  press : Word
  transients : List Nat
  startctl : Word
  startbp : Word
  clamped : Bool
  offline : Bool
  beats : List Nat
  mats : List Nat
  sobj : List SobjUpd
  split : Option Split
  wbWaits : List Nat
  wbFails : List (Nat × Cause)
deriving DecidableEq, Repr

/-- A fired Trellis operation not yet complete (12 R385): the entry's words as it fired, who armed it, whether it has
started, whether its message has been sent, whether an abort stopped it. -/
structure FiredOp where
  id : Nat
  entry : Nat
  kind : Nat
  words : List Word
  armer : Nat
  started : Bool
  sent : Bool
  dead : Bool
deriving DecidableEq, Repr

/-- A published store whose page has left the device (08 R265): its bytes, whether it is a release store, and whose it is, by
gang, core of the gang, context and place in that context's order of accesses. -/
structure HeldStore where
  va : Nat
  bytes : List Byte
  gang : Nat
  coreIdx : Nat
  field0 : Nat
  ord : Nat
  rel : Bool
deriving DecidableEq, Repr

/-- A page waiting in the fault queue, with the stores held for it (08 R265; 11 R367). Host says that the host decides its
migration: FUNCMODE.PGMIG as its decision began (01 R38; 08 R263). -/
structure FqEnt where
  page : Nat
  queued : Bool
  refusedAt : Nat
  held : List HeldStore
  host : Bool
deriving DecidableEq, Repr

/-- A die (01 R15). Changed holds the counters that changed in this cycle; refire the entries that have fired in it or were
armed in it while met, which are judged again in the next; due those left so by the cycle before (12 R384). -/
structure Die where
  tlb : List TlbEnt
  trellis : Tab Word
  armOrd : Tab Nat
  counters : Tab Word
  changed : List Nat
  refire : List Nat
  due : List Nat
  fired : List FiredOp
  nextOp : Nat
  faultq : List FqEnt
deriving DecidableEq, Repr

/-- What a Sheepdog launch keeps of its row and its entry (09 R301 to R304): the pass kind, the post at retirement, the
place the entry had in its queue, and for a FWD pass the vintage bound, with word 1 of the vintage before. -/
structure DogPass where
  kind : Nat
  ondone : Nat
  poststage : Nat
  place : Nat
  bound : Option (Nat × Nat × Word)
deriving DecidableEq, Repr

/-- A launch record as it waits in a class queue (09 R280, R286): its 16 words, the launch queue and count it came from,
its gang index, what a Sheepdog launch keeps, and for a pre-empted gang the gang's number. -/
structure LRec where
  words : List Word
  queue : Option Nat
  count : Nat
  gangIdx : Nat
  dog : Option DogPass
  saved : Option Nat
deriving DecidableEq, Repr

/-- Victims being saved for the head of a class queue, which is recorded as it stood when they were chosen (09 R291, R292). -/
structure Preempting where
  cls : Nat
  head : Option LRec
  victims : List Nat
deriving DecidableEq, Repr

/-- A bank saved at pre-emption (10 R329): offsets and tiles within the bank. -/
structure SavedBank where
  phys : Nat
  fmt : Word
  cells : List Host.Cell
  undef : List Undef
  owner : BitVec 32
  tiles : Tab TileSt
deriving DecidableEq, Repr

/-- A context saved at pre-emption, with its registers, matrix state and unfired commands (10 R329). -/
structure SavedCtx where
  ctx : Ctx
  sregs : List Word
  vregs : List VReg
  mat : Option MatShadow
deriving DecidableEq, Repr

/-- A core's group as saved (10 R329). -/
structure SavedGroup where
  coreIdx : Nat
  ctxs : List SavedCtx
  cmds : List Cmd
  rings : Tab Ring
  banks : List SavedBank
deriving DecidableEq, Repr

/-- How far a gang has come (09 R286 to R293, R310). -/
inductive GangSt where
  | placed | saving | saved | aborting
deriving DecidableEq, Repr

/-- A gang (09 R288 to R296, R310): its record and the words of its task type as it was first placed, where it stands,
its class and coolant demand class, its energy, the cores whose groups have not retired, and what pre-emption saved. -/
structure Gang where
  launch : LRec
  tt : List Word
  st : GangSt
  die : Nat
  row : Nat
  col : Nat
  w : Nat
  h : Nat
  line : Nat
  cls : Nat
  cool : Nat
  budget : Option Word
  ebal : Word
  placedAt : Nat
  order : Nat
  coresLeft : List Nat
  groups : List SavedGroup
  slots : List Nat
  energy : Word
  esat : Bool
  lastMig : Option Nat
  dest : Option Nat
deriving DecidableEq, Repr

/-- A launch queue (09 R276 to R282): its entry as read, the tail last accepted, since when it is resident and idle, the
counts of its gangs that have not retired and of those that have out of order, the count whose placement it awaits, and
the gang index of its next record. -/
structure LQueue where
  base : Word
  last : BitVec 32
  tail : BitVec 32
  head : BitVec 32
  progress : BitVec 32
  error : Bool
  since : Nat
  idleSince : Option Nat
  gangs : List Nat
  retired : List Nat
  waitPlace : Option Nat
  gangIdx : Nat
deriving DecidableEq, Repr

/-- An entry of a Sheepdog arrival queue (09 R297). -/
structure Arrival where
  tag : Nat
  stage : Nat
deriving DecidableEq, Repr

/-- An entry of the Cellar's directory (11 R353 to R357): stashed, or dropped for recomputation; its tier, the units of the tier
that hold its stored form, in order, and the bytes of that form and of what was stashed. -/
structure CEntry where
  stashed : Bool
  tier : Nat
  units : List Nat
  size : Nat
  bytes : Nat
deriving DecidableEq, Repr

/-- What a key was for the commands between two places in directory order, while a fetch among them has not fired (11 R353,
R359). -/
structure KeyPast where
  key : Nat
  lo : Nat
  hi : Nat
  ent : Option CEntry
deriving DecidableEq, Repr

/-- A prefetch move that its hint has found room for (11 R360): the key, the units of the HBM4E pool, and the number of its reads of
the NVMe region. -/
structure PrefMove where
  key : Nat
  units : List Nat
  seq : Nat
deriving DecidableEq, Repr

/-- A transfer of an NVMe controller (11 R361, R362): its number, which the transfers of one side of a command share; whether it
writes; the port, namespace, first logical block and count of blocks; how often it has failed; and the queue pair it has been
submitted to. -/
structure NvOp where
  id : Nat
  write : Bool
  port : Nat
  nsid : Nat
  lba : Nat
  blocks : Nat
  tries : Nat
  pair : Option Nat
deriving DecidableEq, Repr

/-- A queue pair of an NVMe controller (11 R361): the places the next submission and the next completion take, and the phase tag
that the next completion has. -/
structure NvPair where
  tail : Nat
  head : Nat
  phase : Bool
deriving DecidableEq, Repr

/-- A page migration (08 R265): to the device or to the host. -/
structure Migration where
  page : Nat
  toHost : Bool
deriving DecidableEq, Repr

/-- An event of the event queue (12 R396): its four words. -/
structure Event where
  w0 : Word
  w1 : Word
  w2 : Word
  w3 : Word
deriving DecidableEq, Repr

/-- A Ryuja port (12 R374, R377, R381); refusals counts how often in succession a flit of its link was refused, corrupt how often the
message that comes by it was, for a packet that does not decode; lostOps the operations of the device's Trellis, numbered as messages number them, whose
flits a retrain has discarded (12 R376). -/
structure Port where
  state : Nat
  cmp : Bool
  cthr : Word
  replay : Word
  crcerr : Word
  refusals : Nat
  corrupt : Nat
  failedRetrains : Nat
  queued : Nat
  lostOps : List Nat
deriving DecidableEq, Repr

/-- Bytes that a collective has written on the device (12 R393): physical scratchpad offsets of a core, or global addresses. -/
structure Wrote where
  core : Option Nat
  at' : Nat
  len : Nat
deriving DecidableEq, Repr

/-- A collective group slot (12 R391), with what its collective has written since its START (12 R393). -/
structure Group where
  w0 : Word
  fthr : Word
  gbuf : Word
  progress : Word
  forwarded : Bool
  startMet : Bool
  wrote : List Wrote
deriving DecidableEq, Repr

/-- A barrier episode as counted at its root (12 R392). -/
structure BarEp where
  group : Nat
  seq : Nat
  srcs : List Nat
  chans : List Nat
deriving DecidableEq, Repr

/-- An absence token that a root or member holds, and since when one stands (10 R331; 12 R392). -/
structure Absence where
  group : Nat
  seq : Nat
  src : Nat
  start : Nat
deriving DecidableEq, Repr

/-- A claim on a cluster (13 R406). -/
structure Claim where
  core : Nat
  size : Nat
  made : Nat
  places : List Nat
deriving DecidableEq, Repr

/-- The slew limiter of a cluster (13 R406, R407). -/
structure Cluster where
  claims : List Claim
  rampStart : Option Nat
  rampStep : Nat
  lastEst : Nat
  downRun : Nat
  fillers : Nat
  hot : Bool
deriving DecidableEq, Repr

/-- A sensor condition of a zone (13 R412, R413): since when it holds, and when it last ceased after raising. -/
structure Sensor where
  since : Option Nat
  raised : Bool
  ceased : Option Nat
deriving DecidableEq, Repr

/-- An evacuation of a zone (13 R413): whether it has failed, the cycle its flush began, the opening the valve returns to
under MAN, and the gangs it pre-empted. -/
structure Evac where
  failed : Bool
  flushFrom : Nat
  valve : Nat
  gangs : List Nat
deriving DecidableEq, Repr

/-- The device (01 R15). Tables of words are keyed as the table port numbers them (01 R40). KeyOrd is the place in directory order
of the last command that acted on a key of the Cellar (11 R353); nvTurn the queue pair of a port that is next in rotation,
doorbells what was last written to the doorbells of NVMe controllers, by PCIe address (11 R361); members the identifiers of the
host group's members by GIDX, as the bridge keeps them (12 R397); bootWait the messages that came to the device (true) or were
to leave it before BOOTST 4 (13 R424). -/
structure Dev where
  mem : Mem
  memUndef : List Undef
  hostMem : Mem
  nvme : Mem
  funcmode : Word
  funcPast : List (Nat × Word)
  taskTab : Tab Word
  chanTab : Tab Word
  polTab : Tab Word
  sctl : Word
  vintTab : Tab Word
  tagMap : Tab Word
  readyOrder : List Nat
  irrTab : Tab Word
  valveTab : Tab Word
  junction : Tab Nat
  inmeas : Nat
  energyTab : Tab Word
  rampTab : Tab Word
  hostTabsel : Word
  hostTabidx : Word
  latch : Word
  qtbase : Word
  qtcount : Word
  savebase : Word
  saveslots : Word
  resident : List Nat
  pendingQ : List Nat
  queues : Tab LQueue
  lastSwitch : Option Nat
  classq : Tab (List LRec)
  gangs : Tab Gang
  nextGang : Nat
  preempt : List Preempting
  slotsUsed : List Nat
  dogDue : Bool
  placeDue : Bool
  arrivals : Tab (List Arrival)
  heldArr : List (Nat × Arrival)
  infl : Tab Nat
  prefs : List PrefMove
  cellar : Tab CEntry
  cellarRegs : Tab Word
  prefSeq : Nat
  keyOrd : Tab Nat
  keyPast : List KeyPast
  nvmeOps : List NvOp
  nvPairs : Tab NvPair
  nvTurn : Tab Nat
  doorbells : Tab Nat
  ptroot : Word
  ptrootNew : Word
  invBusy : Option Word
  migs : List Migration
  migFail : Bool
  eqbase : Word
  eqlog : Word
  eqtail : BitVec 32
  eqhead : BitVec 32
  ovf : Bool
  dropped : BitVec 32
  waiting : List Event
  msix : Nat
  ports : Tab Port
  groups : Tab Group
  episodes : List BarEp
  absences : List Absence
  barOut : List (Nat × Nat)
  outbox : List (Nat × Msg)
  waitMsgs : List (Nat × Msg)
  abortsDue : List Nat
  hostReplies : List Word
  devid : Word
  devidSet : Bool
  sizes : Word
  bridge : Bool
  gidx : Word
  members : Tab Nat
  mwbase : Word
  nonce : Tab Word
  attaddr : Word
  attStatus : Word
  attBody : List Byte
  bootst : Nat
  bootWait : List (Bool × Msg)
  clusters : Tab Cluster
  sensors : Tab Sensor
  evacs : Tab Evac
  dieOff : List Nat
  slowDies : List Nat
  aboveCap : Bool
  meters : Tab (Nat × Nat)
  raisedZones : List Nat
  relaxZones : List Nat
deriving DecidableEq, Repr

/-- What a slot's operation waits for before it can commit, with its core frozen (01 R49; 08 R263). -/
inductive Wait where
  | xlate (va : Nat)
  | migrate (va : Nat)
  | read (va : Nat)
deriving DecidableEq, Repr

/-- What a slot holds as its bundle comes to issue: the registers it names (check 7) and reads (check 8), a fault of
check 4 that depends on lent bits (early), EINFO of a premature read of matrix state (stall), the fault of its own
checks (check 9), what it waits or blocks for, and its effects. -/
structure SlotPlan where
  names : List RegRef
  reads : List RegRef
  early : Option (Cause × Word)
  stall : Option Word
  fault : Option (Cause × Word)
  wait : Option Wait
  block : Option Block
  acts : List Act
deriving DecidableEq, Repr

/-- A slot's place in an open bundle: a plan, or the fault of checks 1 to 6. -/
structure Staged where
  slot : Nat
  word : Nat
  instr : Option Instr
  bad : Option (Cause × Word)
  plan : SlotPlan
deriving DecidableEq, Repr

/-- The bundle being put together (MODEL): its header, the slot at hand with its lent field, the slots done, and the
stochastic state the next draw starts from (01 R32), and what its fetch found (10 R324). -/
structure OpenBundle where
  header : Option Header
  slot : Nat
  ext : Option (BitVec 7)
  staged : List Staged
  rngs : Word
  pre : List Act
deriving DecidableEq, Repr

/-- What the machine does next (MODEL: the manual leaves the order of independent agents and the durations of engines
open; the agenda fixes them as data). Event names an event of the table; issue gives a context its turn; perform makes
one published access; evict drops a translation; lateRead makes one of the target and table reads of the bundle that a core
comes to late, lateReply ends its lateness; tick is a cycle; the rest set what the outside world measures, and bytes of host memory; hostMsg is a host request or reply that comes. -/
inductive Move where
  | event (i : Instr)
  | issue (core place : Nat)
  | perform (core place id : Nat)
  | evict (die : Nat) (va : Nat)
  | evictCore (core : Nat) (va : Nat)
  | lateRead (core which : Nat)
  | lateReply (core : Nat)
  | tick
  | flow (zone v : Nat)
  | temps (zone tin tout : Nat)
  | junction (cluster v : Nat)
  | inflow (v : Nat)
  | yokeCur (yoke up lo : Nat)
  | modulePower (v : Nat)
  | supply (word uj : Nat)
  | hostWrite (a : Nat) (b : List Byte)
  | hostMsg (m : Msg)
deriving DecidableEq, Repr

/-- The state of the machine. Free counts the free values taken (MODEL); focus is the core and context place at work
(MODEL). -/
structure State where
  cycle : Nat
  free : Nat
  focus : Nat × Nat
  bundle : Option OpenBundle
  agenda : List Move
  cores : Tab Core
  die0 : Die
  die1 : Die
  dev : Dev
deriving DecidableEq, Repr

/-- A matrix unit that no context holds. -/
def MatUnit.reset : MatUnit :=
  { holder := none, mode := none, active := false, bank0 := [], bank1 := [], rows := [], pend := [] }

/-- A core after reset (01 R28; 07 R215; 13 R402); registers without a reset value hold 0 (log entry 3). -/
def Core.reset : Core :=
  { spool := [], vpool := [], mat := MatUnit.reset, sp := [], undef := [], owner := 0, readyBits := 0, arrived := [],
    bankFmt := [], tiles := [], rings := [], cmds := [], nextCmd := 0, slotmask := 0, skew := 0, tvec := 0,
    watchdog := 4096, bal := 0, hot := 0, therm := 0, cap := 0, sup := 0, ctxs := [], turn := 0, turnSteps := 0,
    freeze := none, busy := 0, utlb := [], press := 0, transients := [], startctl := 0,
    startbp := 0, clamped := false, offline := false, beats := [], mats := [], sobj := [],
    split := none, wbWaits := [], wbFails := [] }

/-- A die after reset (12 R382). -/
def Die.reset : Die :=
  { tlb := [], trellis := [], armOrd := [], counters := [], changed := [], refire := [], due := [], fired := [], nextOp := 0,
    faultq := [] }

/-- The device after reset: every table word 0 but those with another reset value (13 R399 to R409). -/
def Dev.reset : Dev :=
  { mem := [], memUndef := [], hostMem := [], nvme := [], funcmode := 0, funcPast := [], taskTab := [],
    chanTab := [], polTab := [], sctl := 0, vintTab := [], tagMap := [], readyOrder := [],
    irrTab := [(80, 6000), (82, 20)],
    valveTab := (List.range 20).map fun z => (4 * z, (128 : Word)), junction := [], inmeas := 0,
    energyTab := [(201, 3600), (202, 3400)], rampTab := [(16, 0x8000000000000000#64)], hostTabsel := 0,
    hostTabidx := 0, latch := 0, qtbase := 0, qtcount := 0, savebase := 0, saveslots := 0, resident := [],
    pendingQ := [], queues := [], lastSwitch := none, classq := [], gangs := [], nextGang := 0, preempt := [], slotsUsed := [],
    dogDue := false, placeDue := false, arrivals := [], heldArr := [], infl := [], prefs := [],
    cellar := [], cellarRegs := [], prefSeq := 0, keyOrd := [], keyPast := [], nvmeOps := [], nvPairs := [], nvTurn := [], doorbells := [], ptroot := 0, ptrootNew := 0, invBusy := none,
    migs := [], migFail := false, eqbase := 0, eqlog := 0, eqtail := 0, eqhead := 0, ovf := false,
    dropped := 0, waiting := [], msix := 0, ports := [], groups := [], episodes := [], absences := [], barOut := [], outbox := [],
    waitMsgs := [], abortsDue := [], hostReplies := [], devid := 0, devidSet := false, sizes := 0, bridge := false,
    gidx := 0, members := [], mwbase := 0, nonce := [], attaddr := 0, attStatus := 0, attBody := [], bootst := 0, bootWait := [],
    clusters := [], sensors := [], evacs := [], dieOff := [], slowDies := [], aboveCap := false, meters := [], raisedZones := [],
    relaxZones := [] }

/-- The machine right after reset: no context placed, CYCLE 0, BOOTST 0 (01 R28; 13 R424). -/
def State.reset : State :=
  { cycle := 0, free := 0, focus := (0, 0), bundle := none, agenda := [], cores := [], die0 := Die.reset,
    die1 := Die.reset, dev := Dev.reset }

end Sys2Proof.Machine
end

