-- ==== Sys2Proof/Machine/Flags.lean ====
section
/-! DEFINITION. The fields of the status and mode registers (01 R30, R31, R36, R37), the effective rounding mode and
overflow policy (02 R64, R68; 03 R88), the sticky flags at a csr write (01 R32), and slot limits (01 R34; 13 R402). -/

namespace Sys2Proof.Machine

/-- RMODE.MODE (01 R30). -/
def rmodeMode (w : Word) : RMode := RMode.ofCode (fld w 2 0)

/-- RMODE.FTZ (01 R30). -/
def rmodeFtz (w : Word) : Bool := bit w 3

/-- A write of RMODE: a MODE of 6 or 7 leaves MODE as it stands (01 R30). -/
def rmodeWrite (old new : Word) : Word :=
  if fld new 2 0 ≥ 6 then setFld (new &&& 0x8#64) 2 0 (fld old 2 0) else new &&& 0xF#64

/-- A write of RNGS: zero stores 1 (01 R29). -/
def rngsWrite (new : Word) : Word := if new = 0 then 1 else new

/-- A write of WATCHDOG: below 256 stores 256 (01 R39). -/
def watchdogWrite (new : Word) : Word :=
  if fld new 31 0 < 256 then 256 else new &&& 0xFFFFFFFF#64

/-- The value of VFLAGS after a csr write of new in a bundle at whose step the flags f fall due (01 R32). -/
def vflagsWrite (new : Word) (f : Fl) : Word := (new &&& 0x7F#64) ||| f.setWidth 64

/-- VFLAGS with the flags f set (01 R31). -/
def vflagsOr (old : Word) (f : Fl) : Word := old ||| f.setWidth 64

/-- The flags a csr-free step leaves: VFLAGS.SAT and its neighbours come from operations alone (01 R31). -/
def flagWord (f : Fl) : Word := f.setWidth 64

/-- The rounding mode of a slot of override class (02 R64; 03 R88). -/
def effMode (rmode : Word) (ext : Option (BitVec 7)) : RMode :=
  match ext with
  | some e =>
    if e.getLsbD 0 && bitsAt e.toNat 4 3 ≤ 5 then RMode.ofCode (bitsAt e.toNat 4 3) else rmodeMode rmode
  | none => rmodeMode rmode

/-- The overflow policy of a slot of override class (02 R68; 03 R88). -/
def effPol (ovpol : Word) (ext : Option (BitVec 7)) : OvPol :=
  match ext with
  | some e => if e.getLsbD 0 then OvPol.ofCode (bitsAt e.toNat 2 2) else OvPol.ofCode (fld ovpol 1 0)
  | none => OvPol.ofCode (fld ovpol 1 0)

/-- SLOTFAULT for a mask of faulting slots (01 R36). -/
def slotfaultWord (mask first : Nat) : Word := BitVec.ofNat 64 (first % 4 * 16 + mask % 16)

/-- The handler's address for cause group g: TVEC.BASE × 0x800 + g × 0x100 (01 R37), as bits 55:4. -/
def handlerAddr (tvec : Word) (g : Nat) : BitVec 52 := BitVec.ofNat 52 ((fld tvec 55 11 * 0x800 + g * 0x100) / 16)

/-- The rank of a LIMIT value, least restrictive first: 0, 1, 4, 2, 3 (13 R402). -/
def limitRank : Nat → Nat
  | 0 => 0 | 1 => 1 | 4 => 2 | 2 => 3 | _ => 4

/-- The LIMIT value of a rank (13 R402). -/
def limitOfRank : Nat → Nat
  | 0 => 0 | 1 => 1 | 2 => 4 | 3 => 2 | _ => 3

/-- A request moved one rank toward the most restrictive (13 R402). -/
def tighten (l : Nat) : Nat := limitOfRank (min 4 (limitRank l + 1))

/-- A request moved one rank toward 0 (13 R402). -/
def loosen (l : Nat) : Nat := limitOfRank (limitRank l - 1)

/-- The more restrictive of two LIMIT values (01 R34; 13 R402). -/
def stricter (a b : Nat) : Nat := if limitRank a < limitRank b then b else a

/-- The value SLOTMASK holds: the most restrictive of SUP and the four requests (13 R402). -/
def Core.limit (k : Core) : Nat := stricter k.sup (stricter k.bal (stricter k.hot (stricter k.therm k.cap)))

/-- A core with SLOTMASK rewritten from its requests (13 R402). -/
def Core.relimit (k : Core) : Core := { k with slotmask := BitVec.ofNat 64 k.limit }

end Sys2Proof.Machine
end

