-- ==== Sys2Proof/Machine/Operands.lean ====
section
/-! DEFINITION. Where the state is found: cores, contexts, registers by name (01 R16 to R21), effective immediates
(03 R87; 04 R111), effective addresses (04 R135; 05 R178). -/

namespace Sys2Proof.Machine

/-- Core c; one not listed is as after reset. -/
def State.core (s : State) (c : Nat) : Core := Tab.get s.cores Core.reset c

/-- The state with core c replaced. -/
def State.setCore (s : State) (c : Nat) (k : Core) : State := { s with cores := Tab.set s.cores c k }

/-- The context at place p of core c. -/
def State.ctx? (s : State) (c p : Nat) : Option Ctx := Tab.find? (s.core c).ctxs p

/-- The state with the context at place p of core c replaced. -/
def State.setCtx (s : State) (c p : Nat) (x : Ctx) : State :=
  s.setCore c { s.core c with ctxs := Tab.set (s.core c).ctxs p x }

/-- The state with the context at a place changed; as it is where there is none. -/
def State.modCtx (s : State) (c p : Nat) (f : Ctx → Ctx) : State :=
  match s.ctx? c p with
  | some x => s.setCtx c p (f x)
  | none => s

/-- The state with a core changed. -/
def State.modCore (s : State) (c : Nat) (f : Core → Core) : State := s.setCore c (f (s.core c))

/-- Die d. -/
def State.die (s : State) (d : Nat) : Die := if d = 0 then s.die0 else s.die1

/-- The state with die d replaced. -/
def State.setDie (s : State) (d : Nat) (x : Die) : State := if d = 0 then { s with die0 := x } else { s with die1 := x }

/-- The state with a die changed. -/
def State.modDie (s : State) (d : Nat) (f : Die → Die) : State := s.setDie d (f (s.die d))

/-- The state with the device changed. -/
def State.modDev (s : State) (f : Dev → Dev) : State := { s with dev := f s.dev }

/-- The die of a device-wide core (00 R4). -/
def dieOf (c : Nat) : Nat := c / 144

/-- Row and column of a core within its die (00 R4). -/
def rowOf (c : Nat) : Nat := c % 144 / 12
def colOf (c : Nat) : Nat := c % 144 % 12

/-- The device-wide core at a row and column of a die (00 R4). -/
def coreAt (d r c : Nat) : Nat := 144 * d + 12 * r + c

/-- The device-wide cluster of a core (00 R5). -/
def clusterOf (c : Nat) : Nat := 18 * dieOf c + 3 * (rowOf c / 2) + colOf c / 4

/-- The device-wide yoke of a core (00 R6). -/
def yokeOf (c : Nat) : Nat := 9 * dieOf c + clusterOf c % 18 / 2

/-- The device zone of a core (00 R7). -/
def zoneOf (c : Nat) : Nat := 10 * dieOf c + clusterOf c % 18 / 2

/-- The cores of a device-wide cluster, ascending (00 R5). -/
def clusterCores (k : Nat) : List Nat := (List.range 288).filter fun c => clusterOf c == k

/-- CYCLE as it reads (01 R45). -/
def State.cycleWord (s : State) : Word := BitVec.ofNat 64 s.cycle

/-- The n-th free value from now, and the state with n taken (MODEL). -/
def State.takeFree (s : State) (n : Nat) : State := { s with free := s.free + n }

/-- Scalar sk as the context reads it (01 R16). -/
def Core.scalar (k : Core) (x : Ctx) (n : Nat) : Word :=
  if n = 0 then 0 else if n = 63 then x.arch.lr else Tab.get k.spool 0 (x.sBase + n)

/-- A vector pool entry that nothing has written. -/
def VReg.zero : VReg := ⟨0, sideOne⟩

/-- Vector vk (01 R17). -/
def Core.vector (k : Core) (x : Ctx) (n : Nat) : VReg := Tab.get k.vpool VReg.zero (x.vBase + n)

/-- Mask mk; m0 reads all ones (01 R18). -/
def Ctx.maskOf (x : Ctx) (n : Nat) : VMask := if n = 0 then BitVec.allOnes 2048 else Tab.get x.arch.masks 0 n

/-- The state with scalar k of a context written; s0 discards (01 R16). -/
def State.writeScalar (s : State) (c p k : Nat) (v : Word) : State :=
  match s.ctx? c p with
  | none => s
  | some x =>
    if k = 0 then s
    else if k = 63 then s.setCtx c p { x with arch := { x.arch with lr := v } }
    else s.modCore c fun q => { q with spool := Tab.set q.spool (x.sBase + k) v }

/-- The state with the selected bits of vector k of a context written (01 R17, R20). -/
def State.writeVector (s : State) (c p k : Nat) (data dmask : VData) (side smask : VSide) : State :=
  match s.ctx? c p with
  | none => s
  | some x =>
    let old := (s.core c).vector x k
    let new : VReg := ⟨(old.data &&& ~~~dmask) ||| (data &&& dmask), (old.side &&& ~~~smask) ||| (side &&& smask)⟩
    s.modCore c fun q => { q with vpool := Tab.set q.vpool (x.vBase + k) new }

/-- The state with mask k of a context written; m0 discards (01 R18). -/
def State.writeMask (s : State) (c p k : Nat) (v : VMask) : State :=
  if k = 0 then s else s.modCtx c p fun x => { x with arch := { x.arch with masks := Tab.set x.arch.masks k v } }

/-- The focus: the core and place at work (MODEL). -/
def State.fc (s : State) : Nat := s.focus.1
def State.fp (s : State) : Nat := s.focus.2

/-- The core at the focus. -/
def State.fcore (s : State) : Core := s.core s.fc

/-- The context at the focus, and a stand-in where there is none. -/
def State.fctx? (s : State) : Option Ctx := s.ctx? s.fc s.fp

/-- The special registers and handler state a task starts from (01 R23, R28, R29). -/
def Arch.start (entry : BitVec 52) (priv : Bool) (wid : Word) : Arch :=
  { pc := ⟨entry, false⟩, q1 := ⟨entry + 1, false⟩, q2 := ⟨entry + 2, false⟩, dc := 0, priv := priv, lr := 0,
    masks := [], rmode := 0, ovpol := 0, vflags := 0,
    rngs := if wid ^^^ 0x9E3779B97F4A7C15#64 = 0 then 1 else wid ^^^ 0x9E3779B97F4A7C15#64,
    check := 0, wid := wid, widw := 0, mbt := 0, stage := 0, vint := 0, step := 0, ecause := 0, einfo := 0, epc := 0,
    epcq1 := 0, epcq2 := 0, slotfault := 0, estatus := 0, quantum := 0, tabsel := 0, tabidx := 0, inHandler := false,
    savedDc := 0, savedFl := 0, epcWritten := false, bpExempt := false, lvl := 0, shapes := [] }

/-- A context with no allotment, ready at address 0. -/
def Ctx.blank : Ctx :=
  { arch := Arch.start 0 false 0, gang := 0, field0 := 0, coreIdx := 0, ttype := 0, sBase := 0, sCount := 0,
    vBase := 0, vCount := 0, aBase := 0, aCount := 0, rings := 0, banks := [], holder := false, stepNo := 0,
    ord := 0, flights := [], dueFlags := 0, gate := [], views := [], mark := none, window := none, regions := [],
    pends := [], run := .ready, stalls := 0, inUnit := false, acc := [], nextId := 0, walks := [], loaded := [], fillBad := [], cmds := 0,
    barSent := [], barChs := [], ctl := 0, bpaddr := 0, tcmp := 0, saveCycle := 0, quantumSteps := 0,
    qtrap := false, syncIn := false, actIn := false, syncWait := 0, startAt := 0, turnStart := false, absent := none, code := none }

/-- The context at the focus. -/
def State.fctx (s : State) : Ctx := s.fctx?.getD Ctx.blank

/-- The scalar operand n of the context at the focus. -/
def State.sreg (s : State) (n : SReg) : Word := s.fcore.scalar s.fctx n.toNat

/-- The vector operand n of the context at the focus. -/
def State.vreg (s : State) (n : BitVec 5) : VReg := s.fcore.vector s.fctx n.toNat

/-- The mask operand n of the context at the focus. -/
def State.mreg (s : State) (n : BitVec 3) : VMask := s.fctx.maskOf n.toNat

/-- The field lent to the slot at hand (03 R86). -/
def State.ext (s : State) : Option (BitVec 7) := (s.bundle.map OpenBundle.ext).getD none

/-- The stochastic state at the slot at hand (01 R32). -/
def State.rngsNow (s : State) : Word := (s.bundle.map OpenBundle.rngs).getD s.fctx.arch.rngs

/-- A signed immediate field of n bits with what is lent above it (03 R87; 04 R111). -/
def immS (ext : Option (BitVec 7)) (n : Nat) (x : BitVec n) : Word :=
  match ext with
  | some e => (e ++ x).signExtend 64
  | none => x.signExtend 64

/-- An unsigned immediate with what is lent above it (03 R87). -/
def immU (ext : Option (BitVec 7)) (n : Nat) (x : BitVec n) : Nat :=
  match ext with
  | some e => (e ++ x).toNat
  | none => x.toNat

/-- References for the checks of names and due steps (01 R22; 03 R92). -/
def rS (n : SReg) : RegRef := { cls := .scalar, num := n.toNat }
def rV (n : BitVec 5) : RegRef := { cls := .vector, num := n.toNat }
def rM (n : BitVec 3) : RegRef := { cls := .mask, num := n.toNat }
def rSide (n : BitVec 5) : RegRef := { cls := .side, num := n.toNat }
def rQ (n : BitVec 5) : RegRef := { cls := .ring, num := n.toNat }
def rA (n : Nat) : RegRef := { cls := .acc, num := n }
def rEighth (n : BitVec 5) (e : Nat) : RegRef := { cls := .vector, num := n.toNat, part := some e }

/-- The code of a register class in EINFO (01 R22). -/
def RegClass.code : RegClass → Nat
  | .scalar => 0 | .vector => 1 | .mask => 2 | .acc => 3 | .ring => 4 | .side => 5

/-- EINFO for a register (01 R22). -/
def RegRef.info (r : RegRef) : Word := BitVec.ofNat 64 (r.cls.code * 256 + r.num % 256)

/-- A named register lies outside the allotment or the ring set (01 R22). -/
def Ctx.outside (x : Ctx) (r : RegRef) : Bool :=
  match r.cls with
  | .scalar => decide (1 ≤ r.num) && decide (r.num ≤ 62) && decide (r.num ≥ x.sCount)
  | .vector => decide (r.num ≥ x.vCount)
  | .acc => decide (r.num ≥ x.aCount)
  | .ring => !x.rings.getLsbD r.num
  | _ => false

/-- A pending write of a flight to a register, a part of one or its sidecar (01 R43; 03 R92). A read that names no part is one of the
whole register or the whole sidecar: a vext of one element, or a vsc.rd of one byte, is premature while any part has a write
pending, be it an mdrain's quarter that leaves that element alone (DESIGN CHOICE, log entry 94). -/
def FlightVal.writes (v : FlightVal) (r : RegRef) : Bool :=
  match v with
  | .scalar k _ => r.cls == .scalar && r.num == k && k != 0
  | .load k _ _ => r.cls == .scalar && r.num == k && k != 0
  | .vec k _ dm _ sm =>
    r.num == k &&
      (match r.cls, r.part with
        | .vector, none => dm != 0
        | .vector, some e => dm.extractLsb' (2048 * e) 2048 != 0
        | .side, none => sm != 0
        | .side, some e => sm.extractLsb' (64 * e) 64 != 0
        | _, _ => false)
  | .mask k _ => r.cls == .mask && r.num == k && k != 0
  | _ => false

/-- The first register of a slot's reads with a write not yet due (03 R92): flights still in the list are not due. Of several
premature reads of one slot EINFO names the first in the order of its plan's reads: a, b, d, then the mask of vfma; a, b, d of sel;
the sidecar first of a whole-group vst; 01 R22 orders slots only: DESIGN CHOICE, log entry 87. -/
def Ctx.premature (x : Ctx) (rs : List RegRef) : Option RegRef :=
  rs.find? fun r => x.flights.any fun f => f.lvl == x.arch.lvl && decide (f.due > x.stepNo) && f.val.writes r

/-- Bytes of a MEM width (03 R95). -/
def Width.bytes : Width → Nat
  | .w0 => 1 | .w1 => 2 | .w2 => 4 | .w3 => 8

end Sys2Proof.Machine
end

