-- ==== Sys2Proof/Machine/Scratch.lean ====
section
/-! DEFINITION. Scratchpad: the view (08 R249 to R251), tiles, owner bits and region tiles (08 R254 to R257), loads past
the gated store buffer (04 R137), and writes as they take effect for other agents. -/

namespace Sys2Proof.Machine

/-- The number of a free value: one family for each value of State.free (MODEL). -/
def freeKey (free n : Nat) : Nat := free * 2 ^ 24 + n

/-- The seed and number of the free value at an address, from the latest undefined range that covers it. -/
def undefAt : List Undef → Nat → Option (Nat × Nat)
  | [], _ => none
  | u :: us, a => if u.lo ≤ a ∧ a < u.lo + u.len then some (u.seed, u.org + (a - u.lo)) else undefAt us a

/-- The ranges without address a: a write defines its byte. -/
def undefDrop (us : List Undef) (a : Nat) : List Undef :=
  us.flatMap fun u =>
    if u.lo ≤ a ∧ a < u.lo + u.len then
      ([⟨u.lo, a - u.lo, u.seed, u.org⟩, ⟨a + 1, u.lo + u.len - (a + 1), u.seed, u.org + (a + 1 - u.lo)⟩] :
        List Undef).filter fun v => v.len != 0
    else [u]

/-- The ranges without the n addresses from lo. -/
def undefCut (us : List Undef) (lo n : Nat) : List Undef :=
  us.flatMap fun u =>
    let hi := u.lo + u.len
    let from' := max u.lo (lo + n)
    ([⟨u.lo, min hi lo - u.lo, u.seed, u.org⟩, ⟨from', hi - from', u.seed, u.org + (from' - u.lo)⟩] : List Undef).filter
      fun v => v.len != 0

/-- A byte of memory, a free value where it is undefined. -/
def byteAt (m : Mem) (us : List Undef) (a : Nat) : Byte :=
  match undefAt us a with
  | some q => Config.freeByte q.1 q.2
  | none => Mem.read m a

/-- The byte at a physical offset of a core's scratchpad (08 R249). -/
def Core.spByte (k : Core) (off : Nat) : Byte := byteAt k.sp k.undef off

/-- The n bytes from a physical offset. -/
def Core.spBytes (k : Core) (off n : Nat) : List Byte := (List.range n).map fun i => k.spByte (off + i)

/-- The swizzled offset within a bank (08 R250). -/
def swizzle (x : Nat) : Nat :=
  let l := x / 2048
  l * 2048 + 64 * ((x / 64 % 32) ^^^ (l % 32)) + x % 64

/-- The physical offset of local address a, whose bits above 22 are 0; none beyond the allotted banks (08 R250). -/
def viewPhys (banks : List Nat) (a : Nat) : Option Nat :=
  match banks[a / 0x40000 % 16]? with
  | none => none
  | some b =>
    let x := a % 0x40000
    some (b * 0x40000 + (if a / 0x400000 % 2 = 1 then swizzle x else x))

/-- The tile of a physical offset (08 R254). -/
def tileOf (off : Nat) : Nat := off / 0x2000

/-- The physical tile of a view tile (08 R254). -/
def viewTile (banks : List Nat) (t : Nat) : Option Nat := (banks[t / 32]?).map fun b => 32 * b + t % 32

/-- The owner bit of a tile is 1: the engines own it (08 R254). -/
def Core.engineOwns (k : Core) (t : Nat) : Bool := k.owner.getLsbD t

/-- A tile is an unfilled or filling region tile (08 R256). -/
def Core.unfilled (k : Core) (t : Nat) : Bool :=
  match Tab.find? k.tiles t with
  | some r => !r.filled
  | none => false

/-- The unfilled tiles among those of some offsets. -/
def Core.unfilledOf (k : Core) (offs : List Nat) : List Nat :=
  ((offs.map tileOf).eraseDups).filter k.unfilled

/-- The state of owner bits of a list of tiles set to v; a READY bit whose owner bit changes is cleared (08 R254; 12
R389). -/
def Core.setOwner (k : Core) (ts : List Nat) (v : Bool) : Core :=
  ts.foldl (fun k t =>
    if k.owner.getLsbD t = v then k
    else
      let m : BitVec 512 := BitVec.ofNat 512 (2 ^ t)
      { k with owner := k.owner ^^^ m, readyBits := k.readyBits &&& ~~~m }) k

/-- The dirty bytes of some region tiles, with their physical offsets (08 R257). -/
def Core.dirtyCells (k : Core) (ts : List Nat) : List Host.Cell :=
  ts.flatMap fun t => match Tab.find? k.tiles t with
    | some r =>
      if r.dirty = 0 then []
      else ((List.range 8192).filter fun i => r.dirty.getLsbD i).map fun i => (0x2000 * t + i, k.spByte (0x2000 * t + i))
    | none => []

/-- The dirty bits of some region tiles cleared, those of the stores that wait for their fill with them (08 R257). -/
def Core.cleanTiles (k : Core) (ts : List Nat) : Core :=
  { k with tiles := k.tiles.map fun q => if ts.contains q.1 then (q.1, { q.2 with dirty := 0, flushed := q.2.held.length }) else q }

/-- The bits of a byte that a mask selects, over the others of an older byte. -/
def mergeByte (old new mask : Byte) : Byte := (old &&& ~~~mask) ||| (new &&& mask)

/-- The dirty bit of a byte set where its tile is a filled region tile (08 R257). -/
def Core.setDirty (k : Core) (off : Nat) : Core :=
  match Tab.find? k.tiles (tileOf off) with
  | some r =>
    if r.filled then
      let r' : TileSt := { r with dirty := r.dirty ||| BitVec.ofNat 8192 (2 ^ (off % 0x2000)) }
      { k with tiles := Tab.set k.tiles (tileOf off) r' }
    else k
  | none => k

/-- One byte written to scratchpad as other agents see it (08 R257, R268). -/
def Core.spPut (k : Core) (off : Nat) (b : Byte) : Core :=
  Core.setDirty { k with sp := Mem.write k.sp off b, undef := undefDrop k.undef off } off

/-- Bytes written to scratchpad. -/
def Core.spPutAll (k : Core) (cs : List Host.Cell) : Core := cs.foldl (fun k c => k.spPut c.1 c.2) k

/-- The view records of the contexts other than p no longer hold for a byte that another agent wrote (08 R251). -/
def Core.dropViews (k : Core) (p : Option Nat) (offs : List Nat) : Core :=
  { k with ctxs := k.ctxs.map fun q =>
      if some q.1 = p then q
      else (q.1, { q.2 with views := q.2.views.filter fun v => !offs.contains v.off }) }

/-- Bytes written by an agent that is no context: an engine or a bank controller. -/
def Core.agentPut (k : Core) (cs : List Host.Cell) : Core :=
  (k.spPutAll cs).dropViews none (cs.map Prod.fst)

/-- Whole bytes stored through one view. -/
def spStores (swz : Bool) (cs : List Host.Cell) : List SpStore := cs.map fun c => ⟨c.1, c.2, BitVec.allOnes 8, swz⟩

/-- A store published to scratchpad: to a tile that is not filled it starts the fill, which it then lies over (08 R256). -/
def Core.storePut (k : Core) (b : SpStore) : Core :=
  match Tab.find? k.tiles (tileOf b.off) with
  | some r =>
    if r.filled then k.spPut b.off (mergeByte (k.spByte b.off) b.byte b.mask)
    else
      let r' : TileSt := { r with filling := true, held := r.held ++ [{ b with off := b.off % 0x2000 }] }
      { k with tiles := Tab.set k.tiles (tileOf b.off) r' }
  | none => k.spPut b.off (mergeByte (k.spByte b.off) b.byte b.mask)

/-- A store to a byte laid over it, where a test of its view and of its entry's join lets it through. -/
def SpStore.over (ok : Bool → Bool → Bool) (j : Bool) (off : Nat) (b : Byte) (c : SpStore) : Byte :=
  if c.off = off ∧ ok c.swz j then mergeByte b c.byte c.mask else b

/-- The byte at an offset with an entry's stores over it. -/
def GateEnt.spOver (ok : Bool → Bool → Bool) (off : Nat) (b : Byte) (e : GateEnt) : Byte :=
  match e with
  | .sp bs j => bs.foldl (SpStore.over ok j off) b
  | _ => b

/-- The byte at an offset with the buffered stores that a test lets through over it, in their order. -/
def gateOver (ok : Bool → Bool → Bool) (es : List GateEnt) (off : Nat) (b : Byte) : Byte :=
  es.foldl (GateEnt.spOver ok off) b

/-- A byte seen through a view without a vjoin: stored through that view, or before the last vjoin (08 R251). -/
def seenBy (swz : Bool) (w j : Bool) : Bool := w == swz || j

/-- What a load through a view would return for a byte after a vjoin (07 R223; 04 R137). -/
def Core.joined (k : Core) (x : Ctx) (off : Nat) : Byte :=
  gateOver (fun _ _ => true) x.gate off (k.spByte off)

/-- What it would return had the stores through the other view since the last vjoin not been made (08 R251). -/
def Core.unjoined (k : Core) (x : Ctx) (swz : Bool) (off : Nat) : Byte :=
  gateOver (seenBy swz) x.gate off
    (match x.views.find? fun v => v.off == off && v.swz != swz with
      | some v => v.prior
      | none => k.spByte off)

/-- The segments a load takes unjoined: a free choice for each 64-byte segment where the two differ (08 R251). -/
def takesOld (free : Nat) (off : Nat) : Bool := Config.freeBit (freeKey free (off / 64))

/-- The byte a load of the context through a view returns. -/
def Core.loadByte (k : Core) (x : Ctx) (free : Nat) (swz : Bool) (off : Nat) : Byte :=
  if k.joined x off = k.unjoined x swz off then k.joined x off
  else if takesOld free off then k.unjoined x swz off else k.joined x off

/-- A load that returned, in some segment, another value than after a vjoin (10 R335). -/
def Core.loadBad (k : Core) (x : Ctx) (free : Nat) (swz : Bool) (offs : List Nat) : Bool :=
  offs.any fun o => k.joined x o != k.loadByte x free swz o

/-- The record of a byte published through a view, given what the byte held before (08 R251). -/
def Ctx.noteView (x : Ctx) (swz joined : Bool) (off : Nat) (before : Byte) : Ctx :=
  let rest := x.views.filter fun v => v.off != off
  if joined then { x with views := rest }
  else match x.views.find? fun v => v.off == off with
    | some v => if v.swz = swz then x else { x with views := ⟨off, swz, before⟩ :: rest }
    | none => { x with views := ⟨off, swz, before⟩ :: rest }

/-- One gated scratchpad entry published: its bytes written, the records kept (04 R137; 08 R251, R257). -/
def State.publishSp (s : State) (c p : Nat) (bs : List SpStore) (joined : Bool) : State :=
  match s.ctx? c p with
  | none => s
  | some x =>
    let r := bs.foldl (fun r b => (r.1.noteView b.swz joined b.off (r.2.spByte b.off), r.2.storePut b)) (x, s.core c)
    (s.setCore c (r.2.dropViews (some p) (bs.map SpStore.off))).setCtx c p r.1

/-- The footprint of n bytes from local address a through its view: physical offsets, in order; none where a byte lies
beyond the allotted banks. -/
def viewOffs (banks : List Nat) (a n : Nat) : Option (List Nat) :=
  (List.range n).mapM fun i => if a % 0x400000 + i < 0x400000 then viewPhys banks (a + i) else none

/-- Local address a names the swizzled view (08 R250). -/
def isSwz (a : Nat) : Bool := a / 0x400000 % 2 == 1

end Sys2Proof.Machine
end

