-- ==== Sys2Proof/Machine/Tables.lean ====
section
/-! DEFINITION. The device tables as the table port reads and writes them (01 R40): bounds, the bits that are not
reserved, computed words. A write with a behaviour of its own becomes the event that carries it. -/

namespace Sys2Proof.Machine

/-- Moves put at the head of the agenda, to be taken next in their order (MODEL). -/
def State.push (s : State) (ms : List Move) : State := { s with agenda := ms ++ s.agenda }

/-- The cores of a gang's rectangle, row-major (09 R288). -/
def Gang.cores (g : Gang) : List Nat :=
  (List.range g.h).flatMap fun r => (List.range g.w).map fun c => coreAt g.die (g.row + r) (g.col + c)

/-- The gangs that hold cores (09 R292). -/
def State.placed (s : State) : List (Nat × Gang) :=
  s.dev.gangs.filter fun g => g.2.st == .placed || g.2.st == .saving || g.2.st == .aborting

/-- CUR and FLOWC of class c (13 R398). -/
def State.classCur (s : State) (c : Nat) : Nat := fld (Tab.get s.dev.irrTab 0 (64 + c)) 47 32
def State.classFlow (s : State) (c : Nat) : Nat := fld (Tab.get s.dev.irrTab 0 (64 + c)) 31 16

/-- DEMAND of zone z: FLOWC summed over the placed gangs' cores in it (13 R409). -/
def State.demand (s : State) (z : Nat) : Nat :=
  s.placed.foldl (fun n g => n + (g.2.cores.filter fun c => zoneOf c == z).length * s.classFlow g.2.cool) 0

/-- GANGS of zone z (13 R409). -/
def State.gangBits (s : State) (z : Nat) : Nat :=
  s.placed.foldl (fun n g =>
    if g.2.cores.any fun c => zoneOf c == z then n ||| 2 ^ (16 * g.2.die + g.2.line) else n) 0

/-- SOCC (09 R299). -/
def State.socc (s : State) : Word :=
  BitVec.ofNat 64 ((List.range 4).foldl (fun n k => n + (Tab.get s.dev.arrivals [] k).length * 2 ^ (16 * k)) 0)

/-- SINFL (09 R299). -/
def State.sinfl (s : State) : Word :=
  BitVec.ofNat 64 ((List.range 4).foldl (fun n k => n + (Tab.get s.dev.infl 0 k % 65536) * 2 ^ (16 * k)) 0)

/-- SSTASH (09 R299; 11 R357). -/
def State.sstash (s : State) : Word :=
  BitVec.ofNat 64 (s.dev.cellar.foldl (fun n e => if e.2.stashed then n + e.2.size else n) 0)

/-- Words 128 to 133 of the policy table (09 R299). -/
def State.dogWord (s : State) (i : Nat) : Word :=
  match i with
  | 128 => s.dev.sctl
  | 129 => s.socc
  | 130 => s.sinfl
  | 131 => s.sstash
  | _ => 0

/-- A word of a device table; a reserved table or an index beyond it reads 0 (01 R40). -/
def State.tableRead (s : State) (sel idx : Nat) : Word :=
  let d := s.dev
  match sel with
  | 0 => if idx < 1024 then Tab.get d.taskTab 0 idx else 0
  | 1 => if idx < 2048 then Tab.get d.chanTab 0 idx else 0
  | 2 => if idx < 32768 then Tab.get s.die0.trellis 0 idx else 0
  | 3 => if idx < 32768 then Tab.get s.die1.trellis 0 idx else 0
  | 4 => if idx < 1024 then Tab.get s.die0.counters 0 idx else 0
  | 5 => if idx < 1024 then Tab.get s.die1.counters 0 idx else 0
  | 6 => if idx < 128 then Tab.get d.polTab 0 idx else s.dogWord idx
  | 7 =>
    if idx < 160 then Tab.get d.vintTab 0 idx
    else if idx < 160 + 4 * 4096 then Tab.get d.tagMap 0 (idx - 160) else 0
  | 8 =>
    if idx < 40 then
      (if idx % 2 = 0 then setFld (Tab.get d.irrTab 0 idx) 31 16 (s.demand (idx / 2))
       else BitVec.ofNat 64 (s.gangBits (idx / 2)))
    else if idx = 81 then BitVec.ofNat 64 (d.inmeas % 65536)
    else if (64 ≤ idx ∧ idx < 72) ∨ idx = 80 ∨ idx = 82 then Tab.get d.irrTab 0 idx
    else 0
  | 9 =>
    if idx < 80 then Tab.get d.valveTab 0 idx
    else if 96 ≤ idx ∧ idx < 132 then BitVec.ofNat 64 (Tab.get d.junction 0 (idx - 96) % 256) else 0
  | 10 =>
    if idx < 102 ∨ (128 ≤ idx ∧ idx < 164) ∨ (200 ≤ idx ∧ idx ≤ 202) then Tab.get d.energyTab 0 idx else 0
  | 11 => if idx ≤ 16 ∨ (32 ≤ idx ∧ idx < 80) then Tab.get d.rampTab 0 idx else 0
  | _ => 0

/-- The bits of a task-type word that are not reserved (09 R283). Bits 15:13 of a bank record of
words 4–7 are zero. DEDUCED (log entry 43): a write leaves them zero. -/
def taskMask (w : Nat) : Word :=
  if w = 0 then 0xF0FFFFFFFFFFFFF0#64 else if w = 1 then 0x073FFFFF#64
  else if 4 ≤ w ∧ w < 8 then 0x1FFF1FFF1FFF1FFF#64 else BitVec.allOnes 64

/-- The bits of a channel word that software writes (12 R378). -/
def chanMask (w : Nat) : Word :=
  if w = 0 then 0xFF3FFF0F0000FFFF#64 else if w = 1 then BitVec.allOnes 64
  else if w = 2 then 0x00007F7F0000FFFF#64 else if w = 3 then 0x01FF1FF0FFFF03FF#64 else 0

/-- The bits of a Trellis word that software writes; ARMER is the hardware's (12 R383). -/
def trellisMask (w : Nat) : Word :=
  if w = 0 then 0xFFFFFFFF0000FFFF#64
  else if w = 3 then 0xC3FF03FF03FF0FFF#64
  else if w = 6 then 0xFFFFFFFFFF#64
  else BitVec.allOnes 64

/-- The bits of a policy word that are not reserved (09 R298). -/
def polMask (w : Nat) : Word :=
  if w = 0 then 0xFFFFFFFFFF00FFFF#64 else if w = 1 then 0xFBF0FFFF00000000#64
  else if w = 2 then 0xFFFFFE0FFFFFFFFF#64 else 0xC3FFFFFFFFFFFFFF#64

/-- The bits of a vintage-table word that are not reserved, 0 for words that ignore writes (09 R306). -/
def vintMask (i : Nat) : Word :=
  let j := i % 40
  if j = 0 then 0x80FF00000000FFFF#64
  else if j < 8 then 0
  else match (j - 8) % 4 with
    | 0 => BitVec.allOnes 64
    | 1 => 0x0000FFFF00FFFF03#64
    | 2 => 0xC3FFFFFFFFFFFFFF#64
    | _ => 0xC0000000000003FF#64

/-- A word of the task-type, policy or vintage table, or another without behaviour of its own, stored (01 R11, R40). -/
def maskInto (t : Tab Word) (i : Nat) (mask w : Word) : Tab Word :=
  Tab.set t i ((Tab.get t 0 i &&& ~~~mask) ||| (w &&& mask))

/-- A write of a table word: what has no behaviour of its own is stored; the rest becomes the event named (01 R40). -/
def State.tableWrite (s : State) (sel idx : Nat) (w : Word) : State :=
  let ev (i : Instr) : State := s.push [.event i]
  match sel with
  | 0 =>
    if idx < 1024 then s.modDev fun d => { d with taskTab := maskInto d.taskTab idx (taskMask (idx % 16)) w } else s
  | 1 => if idx < 2048 then ev (.channelConfigure idx w) else s
  | 2 | 3 =>
    if idx < 32768 then
      if idx % 8 = 0 then ev (.entryArmWrite (sel - 2) (idx / 8) w)
      else s.modDie (sel - 2) fun d => { d with trellis := maskInto d.trellis idx (trellisMask (idx % 8)) w }
    else s
  | 4 | 5 => if idx < 1024 then ev (.counterWrite (sel - 4) idx w) else s
  | 6 =>
    if idx < 128 then s.modDev fun d =>
      { d with polTab := maskInto d.polTab idx (polMask (idx % 4)) w, dogDue := true }
    else if idx = 128 then s.modDev fun d =>
      { d with
        sctl := (w &&& 0x800000000000000F#64) ||| (d.sctl &&& w &&& 0x6000000000000000#64), dogDue := true }
    else if idx = 132 then ev (.dogPost w)
    else if idx = 133 then ev (.dogDecide w)
    else s
  | 7 =>
    if idx < 160 then
      let old := Tab.get s.dev.vintTab 0 idx
      let made := decide (idx % 40 ≥ 8) && (idx % 40 - 8) % 4 == 1 && fld w 1 0 == 1 && fld old 1 0 != 1
      s.modDev fun d =>
        { d with
          vintTab := maskInto d.vintTab idx (vintMask idx) w, dogDue := true,
          readyOrder :=
            if made then (d.readyOrder.filter fun v => v != idx) ++ [idx] else d.readyOrder }
    else s
  | 8 =>
    if idx < 40 ∧ idx % 2 = 0 then ev (.grantWrite idx w)
    else if idx = 83 then ev (.thcmd w)
    else if 64 ≤ idx ∧ idx < 72 then s.modDev fun d =>
      { d with irrTab := maskInto d.irrTab idx 0x0000FFFFFFFF0000#64 w }
    else if idx = 80 then ev (.grantWrite idx w)
    else if idx = 82 then s.modDev fun d => { d with irrTab := maskInto d.irrTab idx 0xFFFF#64 w }
    else s
  | 9 =>
    if idx < 80 ∧ idx % 4 = 0 then
      match Tab.find? s.dev.evacs (idx / 4) with
      | some e => s.modDev fun d =>
        { d with
          valveTab := maskInto d.valveTab idx 0x8000000000000000#64 w,
          evacs := Tab.set d.evacs (idx / 4) { e with valve := if bit w 63 then fld w 7 0 else e.valve } }
      | none =>
        let m := if bit w 63 then 0x80000000000000FF#64 else 0x8000000000000000#64
        s.modDev fun d => { d with valveTab := maskInto d.valveTab idx m w }
    else if idx < 80 ∧ idx % 4 = 3 ∧ bit w 63 then ev (.dryClear (idx / 4))
    else s
  | 10 =>
    if idx < 102 ∧ idx % 2 = 0 then s.modDev fun d =>
      { d with energyTab := Tab.set (Tab.set d.energyTab idx w) (idx + 1) 0 }
    else if idx = 201 then ev (.pcapWrite w)
    else if idx = 202 then s.modDev fun d => { d with energyTab := Tab.set d.energyTab 202 (w &&& 0xFFFF#64) }
    else s
  | 11 =>
    if idx < 16 then s.modDev fun d => { d with rampTab := maskInto d.rampTab idx 0xFFFFFFFF#64 w }
    else if idx = 16 then s.modDev fun d => { d with rampTab := maskInto d.rampTab idx 0x800000000000FFFF#64 w }
    else if 32 ≤ idx ∧ idx < 80 then s.modDev fun d =>
      { d with
        rampTab := maskInto d.rampTab idx (if (idx - 32) % 3 = 2 then 0xFFFF#64 else BitVec.allOnes 64) w }
    else s
  | _ => s

end Sys2Proof.Machine
end

