-- ==== Sys2Proof/Machine/Walk.lean ====
section
/-! DEFINITION. Translation (11 R363 to R369): the page-table walk, the buffers, the checks in their order, and the
register window's global addresses (12 R394). -/

namespace Sys2Proof.Machine

/-- A word of device memory by physical address, little-endian (00 R9). -/
def Dev.word (d : Dev) (a : Nat) : Word := BitVec.ofNat 64 (numLE (Mem.bytes d.mem a 8))

/-- Physical addresses of HBM4E and LPDDR6 (11 R364). -/
def paExists (pa : Nat) : Bool :=
  decide (pa < 0x8000000000) || (decide (0x10000000000 ≤ pa) && decide (pa < 0x20000000000))

/-- The home die of a line (08 R259). -/
def homeDie (pa : Nat) : Nat :=
  if pa < 0x8000000000 then pa / 0x4000000000 else if pa < 0x18000000000 then 0 else 1

/-- Bytes a leaf of level l maps (11 R363). -/
def leafSize (l : Nat) : Nat := if l = 1 then 0x40000000 else if l = 2 then 0x200000 else 0x10000

/-- The index of a level's table (11 R363). -/
def levelIndex (l va : Nat) : Nat :=
  if l = 0 then va / 2 ^ 39 % 2 ^ 17 else if l = 1 then va / 2 ^ 30 % 512
  else if l = 2 then va / 2 ^ 21 % 512 else va / 2 ^ 16 % 32

/-- The address an entry names, bits 51:8 (11 R364). -/
def pteAddr (e : Word) : Nat := fld e 51 8 * 256

/-- A leaf of level l that breaks no rule (11 R364). -/
def leafOk (l : Nat) (e : Word) : Bool :=
  decide (1 ≤ l) && pteAddr e % leafSize l == 0 && (!bit e 60 || l == 3) && paExists (pteAddr e)

/-- A translation buffer entry from a leaf (11 R364, R366). -/
def leafEnt (l va : Nat) (e : Word) : TlbEnt :=
  { va := va / leafSize l * leafSize l, size := leafSize l, pa := pteAddr e, sup := bit e 5, x := bit e 4,
    w := bit e 3, r := bit e 2, hv := bit e 60, hown := bit e 61, pin := bit e 62, poison := bit e 63 }

/-- The walk from a level's table: the physical address of the leaf entry and what it maps; none where an entry is
invalid or malformed (11 R363, R364, R365 check 1). -/
def walkFrom (d : Dev) (va : Nat) : Nat → Nat → Nat → Option (Nat × TlbEnt)
  | 0, _, _ => none
  | n + 1, l, tab =>
    let at' := tab + 8 * levelIndex l va
    let e := d.word at'
    if !bit e 0 then none
    else if bit e 1 then (if leafOk l e then some (at', leafEnt l va e) else none)
    else if l < 2 ∧ pteAddr e % 4096 ≠ 0 then none
    else walkFrom d va n (l + 1) (pteAddr e)

/-- The leaf entry of an address with the place it stands at (11 R363). -/
def Dev.leaf (d : Dev) (va : Nat) : Option (Nat × TlbEnt) := walkFrom d va 4 0 (fld d.ptroot 51 20 * 2 ^ 20)

/-- The walk of an address. -/
def Dev.walk (d : Dev) (va : Nat) : Option TlbEnt := (d.leaf va).map Prod.snd

/-- An entry maps an address. -/
def TlbEnt.covers (e : TlbEnt) (va : Nat) : Bool := decide (e.va ≤ va) && decide (va < e.va + e.size)

/-- The physical address an entry gives. -/
def TlbEnt.phys (e : TlbEnt) (va : Nat) : Nat := e.pa + (va - e.va)

/-- The entry of the larger page among those that map an address (10 R324). -/
def tlbBest : List TlbEnt → Nat → Option TlbEnt
  | [], _ => none
  | e :: es, va =>
    match tlbBest es va with
    | none => if e.covers va then some e else none
    | some f => if e.covers va && decide (e.size > f.size) then some e else some f

/-- Valid entries of two page sizes map one address (10 R324). -/
def tlbConflicts (es : List TlbEnt) (va : Nat) : Bool :=
  es.any fun e => e.covers va && es.any fun f => f.covers va && e.size != f.size

/-- The kinds of use a translation is checked for (11 R365). -/
inductive Use where
  | read | write | readWrite | fetch
deriving DecidableEq, Repr

/-- What a translation answers. -/
inductive XOut where
  | ok (pa : Nat)
  | miss
  | fault (c : Cause)
  | migrate (va : Nat)
deriving DecidableEq, Repr

/-- The page's permissions admit a use (11 R365 check 3; 04 R144). -/
def TlbEnt.permits (e : TlbEnt) (u : Use) (priv : Bool) : Bool :=
  (priv || !e.sup) &&
  match u with
  | .read => e.r
  | .write => e.w
  | .readWrite => e.r && e.w
  | .fetch => e.x

/-- Checks 2 to 4 of 11 R365. -/
def TlbEnt.check (e : TlbEnt) (u : Use) (priv : Bool) (va : Nat) : XOut :=
  if e.poison then .fault .poison
  else if !e.permits u priv then .fault .pageProtection
  else if e.hv && e.hown then (if e.pin then .fault .hostOwned else .migrate va)
  else .ok (e.phys va)

/-- The 64 KiB page of an address (11 R363). -/
def pageOf (va : Nat) : Nat := va / 0x10000 * 0x10000

/-- The entry kept for a context that waited on a walk of the page of an address (11 R366). -/
def Ctx.walked (x : Ctx) (va : Nat) : Option XRes :=
  (x.walks.find? fun w => w.1 == va / 0x10000).map Prod.snd

/-- The page of an address is being migrated to the host: its translations are revoked (08 R265). -/
def Dev.leaving (d : Dev) (va : Nat) : Bool := d.migs.any fun m => m.toHost && m.page == pageOf va

/-- A translation's answer where the page may be leaving the device (08 R265 step 1). -/
def Dev.revoke (d : Dev) (va : Nat) (o : XOut) : XOut :=
  match o with
  | .ok pa => if d.leaving va then .migrate va else .ok pa
  | o => o

/-- A context's translation: what it waited for, else the core's buffer and the die's; a miss starts a walk (01 R49;
11 R366). -/
def State.translate (s : State) (c : Nat) (x : Ctx) (u : Use) (va : Nat) : XOut :=
  match x.walked va with
  | some (.fault f) => .fault f
  | some (.ok e) => s.dev.revoke va (e.check u x.arch.priv va)
  | none =>
    match tlbBest ((s.core c).utlb ++ (s.die (dieOf c)).tlb) va with
    | some e => s.dev.revoke va (e.check u x.arch.priv va)
    | none => .miss

/-- The entry an engine of die d uses: the die's buffer, else a walk (11 R363, R366). -/
def State.engineEnt (s : State) (d va : Nat) : Option TlbEnt :=
  match tlbBest (s.die d).tlb va with
  | some e => some e
  | none => s.dev.walk va

/-- An engine's translation (08 R259; 11 R365). -/
def State.engineXlate (s : State) (d : Nat) (priv : Bool) (u : Use) (va : Nat) : XOut :=
  if 2 ^ 56 ≤ va then .fault .globalRange
  else
    match s.engineEnt d va with
    | none => .fault .pageNotPresent
    | some e => s.dev.revoke va (e.check u priv va)

/-- A global address of the register window (12 R394). -/
def isWindow (va : Nat) : Bool := va / 0x1000000 == 0xFFFFFFFF

/-- The translation of an entry installed in the buffers of a core and its die, one entry a page (11 R366). -/
def State.install (s : State) (c : Nat) (e : TlbEnt) : State :=
  let keep (es : List TlbEnt) : List TlbEnt := e :: es.filter fun f => !(f.va == e.va && f.size == e.size)
  (s.modCore c fun k => { k with utlb := (keep k.utlb).take 32 }).modDie (dieOf c)
    fun d => { d with tlb := (keep d.tlb).take 32768 }

/-- Every translation of an overlapping range dropped, in every buffer (11 R366, R369). -/
def State.dropXlate (s : State) (lo len : Nat) : State :=
  let keep (es : List TlbEnt) : List TlbEnt :=
    es.filter fun e => !(decide (e.va < lo + len) && decide (lo < e.va + e.size))
  { s with
    cores := s.cores.map fun q => (q.1, { q.2 with utlb := keep q.2.utlb }),
    die0 := { s.die0 with tlb := keep s.die0.tlb }, die1 := { s.die1 with tlb := keep s.die1.tlb } }

/-- Bytes of device memory as a global access reads them. -/
def Dev.paBytes (d : Dev) (pa n : Nat) : List Byte := (List.range n).map fun i => byteAt d.mem d.memUndef (pa + i)

/-- Bytes written to device memory by physical address. -/
def Dev.paPut (d : Dev) (pa : Nat) (bs : List Byte) : Dev :=
  { d with
    mem := Mem.writeBytes d.mem pa bs,
    memUndef := (List.range bs.length).foldl (fun us i => undefDrop us (pa + i)) d.memUndef }

/-- Bytes read by an engine from a global range, byte by byte through its translation; the first failing byte with its
cause otherwise (migration counts as HOST_OWNED here: the callers resolve it first). -/
def State.engineRead (s : State) (d : Nat) (priv : Bool) (va : Nat) : Nat → Except (Cause × Nat) (List Byte)
  | 0 => .ok []
  | n + 1 =>
    match s.engineXlate d priv .read va with
    | .ok pa =>
      match State.engineRead s d priv (va + 1) n with
      | .ok bs => .ok (byteAt s.dev.mem s.dev.memUndef pa :: bs)
      | .error e => .error e
    | .fault f => .error (f, va)
    | .miss => .error (.pageNotPresent, va)
    | .migrate _ => .error (.hostOwned, va)

/-- The first byte of a global range that an engine may not use, with its cause. -/
def State.engineBar (s : State) (d : Nat) (priv : Bool) (u : Use) (va : Nat) : Nat → Option (Cause × Nat)
  | 0 => none
  | n + 1 =>
    match s.engineXlate d priv u va with
    | .ok _ => State.engineBar s d priv u (va + 1) n
    | .fault f => some (f, va)
    | .miss => some (.pageNotPresent, va)
    | .migrate _ => some (.hostOwned, va)

/-- The first page of a global range that does not answer, where it is one that would have to be migrated first: no fault stands
before it in the range (08 R256, R263). -/
def State.migrateNeed (s : State) (d : Nat) (priv : Bool) (u : Use) (va n : Nat) : Option Nat :=
  ((List.range ((va % 0x10000 + n + 0xFFFF) / 0x10000)).findSome? fun i =>
    match s.engineXlate d priv u (va / 0x10000 * 0x10000 + i * 0x10000) with
    | .ok _ => none
    | .migrate p => some (some p)
    | _ => some none).join

/-- Bytes written by an engine to a global range that it may use. -/
def State.enginePut (s : State) (d : Nat) (va : Nat) : List Byte → State
  | [] => s
  | b :: bs =>
    match s.engineEnt d va with
    | some e => State.enginePut (s.modDev fun v => v.paPut (e.phys va) [b]) d (va + 1) bs
    | none => s

end Sys2Proof.Machine
end

