-- ==== Sys2Proof/Machine/Window.lean ====
section
/-! DEFINITION. The event queue (12 R396), the launch queue entries in memory (09 R276), and the reads of the register
window by its blocks (12 R394). -/

namespace Sys2Proof.Machine

/-- Entries of the event queue; a size outside 6 to 16 holds none (12 R396; log entry 9). -/
def Dev.eqSize (d : Dev) : Nat := if 6 ≤ fld d.eqlog 4 0 ∧ fld d.eqlog 4 0 ≤ 16 then 2 ^ fld d.eqlog 4 0 else 0

/-- The event queue has a free entry (12 R396). -/
def Dev.eqRoom (d : Dev) : Bool := decide ((d.eqtail - d.eqhead).toNat < d.eqSize)

/-- An event written into the queue, and the interrupt (12 R396). -/
def Dev.eqPut (d : Dev) (e : Event) : Dev :=
  let a := fld d.eqbase 63 12 * 4096 + 32 * (d.eqtail.toNat % d.eqSize)
  { d with
    hostMem := Mem.writeBytes d.hostMem a ([e.w0, e.w1, e.w2, e.w3].flatMap fun w => bytesLE 8 w.toNat),
    eqtail := d.eqtail + 1, msix := d.msix + 1 }

/-- An event posted: into the queue, else kept in the device, else dropped (12 R396). -/
def Dev.postEvent (d : Dev) (e : Event) : Dev :=
  if d.waiting.isEmpty && d.eqRoom then d.eqPut e
  else if d.waiting.length < 64 then { d with waiting := d.waiting ++ [e] }
  else { d with ovf := true, dropped := d.dropped + 1 }

/-- Events kept in the device posted while there is room (12 R396). -/
def Dev.postWaiting : Nat → Dev → Dev
  | 0, d => d
  | n + 1, d =>
    match d.waiting with
    | [] => d
    | e :: es => if d.eqRoom then Dev.postWaiting n ({ d with waiting := es }.eqPut e) else d

/-- Word 0 of an event: kind, device, core and place (12 R396). -/
def evWord0 (d : Dev) (kind core place : Nat) : Word :=
  BitVec.ofNat 64 (kind % 256 + fld d.devid 15 0 * 2 ^ 16 + core % 512 * 2 ^ 32 + place % 4 * 2 ^ 41)

/-- An event of a kind posted with its detail (12 R396). -/
def State.post (s : State) (kind core place : Nat) (w1 w2 w3 : Word) : State :=
  s.modDev fun d => d.postEvent ⟨evWord0 d kind core place, w1, w2, w3⟩

/-- A POWER event (13 R422). -/
def State.postPower (s : State) (sub obj v : Nat) : State :=
  s.post 12 0 0 (BitVec.ofNat 64 sub) (BitVec.ofNat 64 obj) (BitVec.ofNat 64 v)

/-- A byte of a launch-queue structure: the host's copy of a page the host owns, else device memory (08 R259; 09
R276). -/
def State.hostqByte (s : State) (va : Nat) : Option Byte :=
  match s.engineEnt 0 va with
  | some e =>
    if e.poison || !e.r then none
    else if e.hv && e.hown then some (Mem.read s.dev.hostMem va)
    else some (byteAt s.dev.mem s.dev.memUndef (e.phys va))
  | none => none

/-- A word of a launch-queue structure. -/
def State.hostqWord (s : State) (va : Nat) : Option Word :=
  ((List.range 8).mapM fun i => s.hostqByte (va + i)).map fun bs => BitVec.ofNat 64 (numLE bs)

/-- Bytes of a launch-queue structure written. -/
def State.hostqPut (s : State) (va : Nat) : List Byte → Option State
  | [] => some s
  | b :: bs =>
    match s.engineEnt 0 va with
    | some e =>
      if e.poison || !e.w then none
      else if e.hv && e.hown then
        State.hostqPut (s.modDev fun d => { d with hostMem := Mem.write d.hostMem va b }) (va + 1) bs
      else State.hostqPut (s.modDev fun d => d.paPut (e.phys va) [b]) (va + 1) bs
    | none => none

/-- Number of launch queues (09 R275). -/
def Dev.qcount (d : Dev) : Nat := fld d.qtcount 10 0

/-- Address of word i of queue q's entry (09 R276). -/
def Dev.qentry (d : Dev) (q i : Nat) : Nat := fld d.qtbase 55 12 * 4096 + 32 * q + 8 * i

/-- Class queues that hold a record, one bit each (09 R275). -/
def Dev.classBits (d : Dev) : Nat :=
  (List.range 8).foldl (fun n c => if (Tab.get d.classq [] c).isEmpty then n else n + 2 ^ c) 0

/-- Reads of the identity block (12 R395; 13 R423). -/
def State.readIdentity (s : State) (o : Nat) : Word :=
  let d := s.dev
  if o = 0x00 then d.devid
  else if o = 0x08 then d.sizes
  else if o = 0x10 then setFld (d.gidx &&& 0x3F#64) 63 63 d.bridge.toNat
  else if o = 0x18 then d.mwbase
  else if 0x40 ≤ o ∧ o < 0x60 then Tab.get d.nonce 0 ((o - 0x40) / 8)
  else if o = 0x60 then d.attaddr
  else if o = 0x70 then d.attStatus
  else if o = 0x78 then BitVec.ofNat 64 d.bootst
  else 0

/-- Reads of the scheduling block (09 R275). -/
def State.readSched (s : State) (o : Nat) : Word :=
  let d := s.dev
  if o = 0x00 then d.qtbase
  else if o = 0x08 then d.qtcount
  else if o = 0x10 then d.savebase
  else if o = 0x18 then d.saveslots
  else if o = 0x20 then
    BitVec.ofNat 64 (d.resident.length * 2 ^ 32 + d.pendingQ.length * 2 ^ 16 + d.classBits)
  else 0

/-- Reads of the event queue block (12 R396). -/
def State.readEvents (s : State) (o : Nat) : Word :=
  let d := s.dev
  if o = 0x00 then d.eqbase
  else if o = 0x08 then d.eqlog
  else if o = 0x10 then d.eqtail.setWidth 64
  else if o = 0x18 then d.eqhead.setWidth 64
  else if o = 0x20 then setFld (d.dropped.setWidth 64) 63 63 d.ovf.toNat
  else 0

/-- A port; one never used is down (12 R377). -/
def Port.reset : Port :=
  { state := 0, cmp := false, cthr := 0, replay := 0, crcerr := 0, refusals := 0, corrupt := 0, failedRetrains := 0, queued := 0, lostOps := [] }

/-- A group slot after reset (12 R391). -/
def Group.reset : Group := { w0 := 0, fthr := 0, gbuf := 0, progress := 0, forwarded := false, startMet := false, wrote := [] }

/-- Reads of a port's block (12 R377). -/
def Port.readWord (p : Port) (o : Nat) : Word :=
  if o = 0x00 then BitVec.ofNat 64 (p.cmp.toNat * 4 + p.state % 4)
  else if o = 0x08 then p.cthr
  else if o = 0x10 then p.replay
  else if o = 0x18 then p.crcerr
  else 0

/-- Reads of a group slot (12 R391). -/
def Group.readWord (g : Group) (o : Nat) : Word :=
  if o = 0x00 then g.w0 else if o = 0x08 then g.fthr else if o = 0x10 then g.gbuf
  else if o = 0x18 then g.progress else 0

/-- A context is parked for the host (10 R337). -/
def Ctx.hostParked (x : Ctx) : Bool := x.run == .parked

/-- Reads of a context's words in its core's control block (10 R332). -/
def Ctx.readBlock (x : Ctx) (o : Nat) : Word :=
  let p (w : Word) : Word := if x.hostParked then w else 0
  if o = 0x00 then setFld (x.ctl &&& 0x1F#64) 63 63 x.hostParked.toNat
  else if o = 0x08 then x.bpaddr
  else if o = 0x10 then x.tcmp
  else if o = 0x30 then p x.arch.ecause
  else if o = 0x38 then p x.arch.einfo
  else if o = 0x40 then p x.arch.epc
  else if o = 0x48 then p x.arch.epcq1
  else if o = 0x50 then p x.arch.epcq2
  else if o = 0x58 then p x.arch.slotfault
  else if o = 0x60 then p x.arch.estatus
  else 0

/-- Reads of a core's control block (10 R332). -/
def State.readControl (s : State) (c o : Nat) : Word :=
  if o = 0x200 then (s.core c).startctl
  else if o = 0x208 then (s.core c).startbp
  else if o < 0x200 then
    match s.ctx? c (o / 0x80) with
    | some x => x.readBlock (o % 0x80)
    | none => 0
  else 0

/-- Reads of a doorbell (09 R277, R279). The progress of a queue that is not resident, and whose entry cannot be read, is a free value,
with STALE set (DESIGN CHOICE, log entry 102). -/
def State.readDoorbell (s : State) (q o : Nat) : Word :=
  let d := s.dev
  if q ≥ d.qcount then 0
  else if d.resident.contains q then
    match Tab.find? d.queues q with
    | some r => if o = 0 then r.last.setWidth 64 else if o = 8 then r.progress.setWidth 64 else 0
    | none => 0
  else
    let w := (s.hostqWord (d.qentry q 1)).getD (Config.freeWord (freeKey s.free 19))
    if o = 0 then (((Tab.find? d.queues q).map LQueue.last).getD 0).setWidth 64
    else if o = 8 then BitVec.ofNat 64 (2 ^ 63 + fld w 63 32) else 0

/-- The word at an 8-byte-aligned offset of the register window, but for a TABDAT access's effect (12 R394). -/
def State.windowRead (s : State) (o : Nat) : Word :=
  if o < 0x10000 then s.readIdentity o
  else if o < 0x20000 then s.readSched (o - 0x10000)
  else if o < 0x30000 then (if o - 0x20000 < 48 then s.dogWord (128 + (o - 0x20000) / 8) else 0)
  else if o < 0x40000 then Tab.get s.dev.cellarRegs 0 (o - 0x30000)
  else if o < 0x50000 then
    (if o = 0x40000 then s.dev.ptrootNew
     else if o = 0x40010 then BitVec.ofNat 64 s.dev.invBusy.isSome.toNat
     else if o = 0x40020 then BitVec.ofNat 64 ((!s.dev.migs.isEmpty).toNat * 2 + s.dev.migFail.toNat) else 0)
  else if o < 0x60000 then s.readEvents (o - 0x50000)
  else if o < 0x60800 then (Tab.get s.dev.ports Port.reset ((o - 0x60000) / 0x100)).readWord (o % 0x100)
  else if 0x80000 ≤ o ∧ o < 0x80018 then
    (if o = 0x80000 then s.dev.hostTabsel else if o = 0x80008 then s.dev.hostTabidx
     else s.tableRead (fld s.dev.hostTabsel 7 0) (fld s.dev.hostTabidx 31 0))
  else if 0x90000 ≤ o ∧ o < 0x90800 then
    (Tab.get s.dev.groups Group.reset ((o - 0x90000) / 0x20)).readWord (o % 0x20)
  else if 0x100000 ≤ o ∧ o < 0x148000 then s.readControl ((o - 0x100000) / 0x400) (o % 0x400)
  else if 0x180000 ≤ o ∧ o < 0x180900 then (s.core ((o - 0x180000) / 8)).press
  else if 0x1C0000 ≤ o ∧ o < 0x1C4800 then
    (s.core ((o - 0x1C0000) / 0x40)).readyBits.extractLsb' (64 * (o % 0x40 / 8)) 64
  else if 0x200000 ≤ o ∧ o < 0x210000 then
    s.readDoorbell ((o - 0x200000) / 0x1000 * 64 + o % 0x1000 / 64) (o % 64)
  else 0

/-- TABDAT of the host table port (12 R394). -/
def offTabdat : Nat := 0x80010

/-- A read of the window: its word, and the state after what the read does: a TABDAT access moves TABIDX (01 R40). -/
def State.windowLoad (s : State) (o : Nat) : Word × State :=
  let v := s.windowRead o
  if o = offTabdat then
    (v, s.modDev fun d => { d with hostTabidx := BitVec.ofNat 64 ((fld d.hostTabidx 31 0 + 1) % 2 ^ 32) })
  else (v, s)

end Sys2Proof.Machine
end

