-- ==== Sys2Proof/Machine/Access.lean ====
section
/-! DEFINITION. Publication of gated stores (04 R137; 08 R266), stores to a page that has left the device (08 R265; 11
R367), and when and how a published global access is performed (08 R267 to R271). -/

namespace Sys2Proof.Machine

/-- The FUNCMODE that decisions follow: a write counts 64 cycles after it (01 R38). -/
def State.funcMode (s : State) : Word :=
  match s.dev.funcPast.reverse.find? fun q => decide (q.1 + 64 > s.cycle) with
  | some q => q.2
  | none => s.dev.funcmode

/-- FUNCMODE.PGMIG: the host decides migrations (08 R263). -/
def State.pgmig (s : State) : Bool := bit s.funcMode 1

/-- The die whose fault queue keeps a page: the home die of the place its entry names (11 R367; log entry 10). -/
def State.pageDie (s : State) (page : Nat) : Nat :=
  match s.dev.walk page with
  | some e => homeDie (e.phys page)
  | none => 0

/-- A migration fault on a page joins its entry in the fault queue, or makes one: queued while the queue has one of its
256 places, refused and retried otherwise (11 R367). The first fault of a page posts an event when the host decides
(08 R263). -/
def State.requestPage (s : State) (page : Nat) : State :=
  let d := s.pageDie page
  let q := (s.die d).faultq
  if q.any fun e => e.page == page then s
  else
    let room := decide ((q.filter fun e => e.queued).length < 256) && q.all fun e => e.queued
    let s := s.modDie d fun v => { v with faultq := v.faultq ++ [⟨page, room, s.cycle, [], s.pgmig⟩] }
    if s.pgmig then s.post 5 0 0 (BitVec.ofNat 64 page) 0 0 else s

/-- The host decides the migration of a page: by the mode in which its decision began, where it has (01 R38; 08 R263). -/
def State.hostDecides (s : State) (page : Nat) : Bool :=
  (((s.die0.faultq ++ s.die1.faultq).find? fun e => e.page == page).map FqEnt.host).getD s.pgmig

/-- A translation conflict that an engine of die d meets in n bytes is told to the host (10 R324). -/
def State.noteConflict (s : State) (d va n : Nat) : State :=
  ((List.range ((va % 0x10000 + n + 0xFFFF) / 0x10000)).map fun i => max va (pageOf va + i * 0x10000)).foldl (fun s a =>
    if tlbConflicts (s.die d).tlb a then s.post 9 0 0 (BitVec.ofNat 64 a) 0 0 else s) s

/-- A store to a page that the host owns by now: its bytes are held with the page's entry, and the page is asked back;
of a page pinned to the host they are discarded and the host is told (08 R265). -/
def State.holdStore (s : State) (h : HeldStore) (pin : Bool) : State :=
  let page := h.va / 0x10000 * 0x10000
  if pin then s.post 5 0 0 (BitVec.ofNat 64 page) 0 0
  else
    let s := s.requestPage page
    s.modDie (s.pageDie page) fun v =>
      { v with faultq := v.faultq.map fun e => if e.page = page then { e with held := e.held ++ [h] } else e }

/-- A held store is one of a context's. -/
def HeldStore.isOf (h : HeldStore) (gang coreIdx field0 : Nat) : Bool :=
  h.gang == gang && h.coreIdx == coreIdx && h.field0 == field0

/-- The stores of a context that were published and wait for a page that has left the device: accesses that have not been
performed (08 R265, R266). -/
def State.heldOf (s : State) (gang coreIdx field0 : Nat) : List HeldStore :=
  ((s.die0.faultq ++ s.die1.faultq).flatMap FqEnt.held).filter fun h => h.isOf gang coreIdx field0

/-- Those of a context given. -/
def State.heldBy (s : State) (x : Ctx) : List HeldStore := s.heldOf x.gang x.coreIdx x.field0

/-- A store as it is published: an access to be performed (08 R266). -/
def storeAcc (ord va pa : Nat) (bs : List Byte) (rel win : Bool) : Access :=
  { id := ord, ord := ord, kind := if rel then .str else .stg, va := va, pa := pa, len := bs.length, zext := false, bytes := bs,
    fwd := [], got := none, win := win, acq := false, rel := false, atom := none }

/-- A global store published: an access to be performed, or held where its page has left the device (08 R265, R266). -/
def State.publishGl (s : State) (c p va pa : Nat) (bs : List Byte) (rel : Bool) : State :=
  let gone : Option Bool :=
    match s.dev.walk va with
    | some e => if e.hv && (e.hown || s.dev.leaving va) then some e.pin else none
    | none => none
  match gone with
  | some pin =>
    let h : HeldStore := match s.ctx? c p with
      | some x => ⟨va, bs, x.gang, x.coreIdx, x.field0, x.nextId, rel⟩
      | none => ⟨va, bs, 0, 0, 0, 0, rel⟩
    (s.holdStore h pin).modCtx c p fun x => { x with nextId := x.nextId + 1 }
  | none => s.modCtx c p fun x => { x with acc := x.acc ++ [storeAcc x.nextId va pa bs rel false], nextId := x.nextId + 1 }

/-- One entry of the gated store buffer published. A word of the register window is a published access too. -/
def State.publishEnt (s : State) (c p : Nat) (e : GateEnt) : State :=
  match e with
  | .sp bs j => s.publishSp c p bs j
  | .gl va pa bs rel _ => s.publishGl c p va pa bs rel
  | .win o v rel => s.modCtx c p fun x =>
    { x with
      acc := x.acc ++ [storeAcc x.nextId (Config.windowBase + o) (Config.windowBase + o) (bytesLE 8 v.toNat) rel true],
      nextId := x.nextId + 1 }

/-- An entry of the gated store buffer holds a word of the register window. -/
def GateEnt.isWin : GateEnt → Bool
  | .win _ _ _ => true
  | _ => false

/-- A write of the register window that a supervisor has made and that is still to be carried out. -/
def isWinMove : Move → Bool
  | .event (.registerWrite o _) => !o.host
  | _ => false

/-- A supervisor's write of a word of the register window: its register's event comes next, after those of the writes before
it. -/
def State.winWrite (s : State) (o : Nat) (v : Word) : State :=
  { s with agenda := s.agenda.takeWhile isWinMove ++ .event (.registerWrite ⟨o, false⟩ v) :: s.agenda.dropWhile isWinMove }

/-- Two accesses touch a common byte (08 R269). -/
def Access.meets (a b : Access) : Bool := a.win == b.win && decide (a.pa < b.pa + b.len) && decide (b.pa < a.pa + a.len)

/-- An earlier access that must be performed first (08 R269): a common byte, an acquire before, or a release after. Accesses of
the register window keep their order. The order that an atomic of a narrow scope asks for holds at every scope (log entry 61). -/
def Access.holds (a b : Access) : Bool :=
  a.meets b || a.kind == .lda || a.acq || b.kind == .str || b.rel || (a.win && b.win)

/-- An access has not been performed. -/
def Access.pending (a : Access) : Bool := a.got.isNone

/-- A published access may be performed now (08 R269). -/
def Ctx.mayPerform (x : Ctx) (a : Access) : Bool :=
  a.pending && x.acc.all fun b => decide (b.ord ≥ a.ord) || !b.pending || !b.holds a

/-- A held store comes before an access that it holds back: a release, or an access to a byte of it (08 R265, R269). -/
def HeldStore.holds (h : HeldStore) (a : Access) : Bool :=
  decide (h.ord < a.ord) && (a.kind == .str || a.rel || (!a.win && decide (h.va < a.va + a.len) && decide (a.va < h.va + h.bytes.length)))

/-- The bytes of a load with those its context had stored before (04 R137). -/
def overlay : List (Option Byte) → List Byte → List Byte
  | some b :: fs, _ :: bs => b :: overlay fs bs
  | none :: fs, b :: bs => b :: overlay fs bs
  | _, bs => bs

/-- A loaded value extended to 64 bits (04 R135). -/
def extendLoad (n : Nat) (zext : Bool) (v : Nat) : Word :=
  let m := v % 2 ^ (8 * n)
  if !zext && decide (2 ^ (8 * n - 1) ≤ m) then BitVec.ofNat 64 (m + (2 ^ 64 - 2 ^ (8 * n))) else BitVec.ofNat 64 m

/-- The new memory value of an atomic, none where a cas fails (04 R141, R142); n bytes. -/
def amoNew (fn : AmoFn) (n : Nat) (m x y : Nat) : Option Nat :=
  let w := 8 * n
  let x := x % 2 ^ w
  let y := y % 2 ^ w
  match fn with
  | .add => some ((m + x) % 2 ^ w)
  | .and => some (Nat.land m x)
  | .or => some (Nat.lor m x)
  | .xor => some (Nat.xor m x)
  | .min => some (if sint w m ≤ sint w x then m else x)
  | .max => some (if sint w m ≥ sint w x then m else x)
  | .minn => some (Nat.min m x)
  | .maxn => some (Nat.max m x)
  | .swp => some x
  | .cas => if m = x then some y else none

/-- The memory of the device after an atomic on n bytes (04 R141, R142). -/
def State.atomPut (s : State) (q : Atom) (pa n : Nat) : State :=
  match amoNew q.fn n (numLE (s.dev.paBytes pa n)) q.x.toNat q.y.toNat with
  | some v => s.modDev fun d => d.paPut pa (bytesLE n v)
  | none => s

/-- A load or an atomic has its value. -/
def Ctx.gotAcc (x : Ctx) (id : Nat) (v : Word) : Ctx :=
  { x with acc := x.acc.map fun b => if b.id = id then { b with got := some v } else b }

/-- What performing an access does, for its context: a store writes its bytes, a load takes its value, an atomic does both (04
R141; 08 R266). A load of a window word that its context has stored, and not published, takes that store's value and reads no
register (04 R137). -/
def State.effectOf (s : State) (x : Ctx) (a : Access) : State × Ctx :=
  match a.kind with
  | .stg | .str =>
    (if a.win then s.winWrite (a.va % 0x1000000) (BitVec.ofNat 64 (numLE a.bytes)) else s.modDev fun d => d.paPut a.pa a.bytes,
      { x with acc := x.acc.filter fun b => b.id != a.id })
  | .atomic =>
    ((a.atom.map fun q => s.atomPut q a.pa a.len).getD s,
      x.gotAcc a.id (extendLoad a.len false (numLE (s.dev.paBytes a.pa a.len))))
  | _ =>
    if a.win && a.fwd.any Option.isNone then
      ((s.windowLoad (a.va % 0x1000000)).2, x.gotAcc a.id (s.windowLoad (a.va % 0x1000000)).1)
    else (s, x.gotAcc a.id (extendLoad a.len a.zext (numLE (overlay a.fwd (s.dev.paBytes a.pa a.len)))))

/-- An access of a context may be performed now: no access before it, and no store held for a page, holds it back (08 R265, R269);
of the register window, no write is still to be carried out. -/
def State.mayDo (s : State) (x : Ctx) (a : Access) : Bool :=
  x.mayPerform a && ((s.heldBy x).all fun h => !h.holds a) && !(a.win && a.bytes.isEmpty && s.agenda.head?.any isWinMove)

/-- One published access of a context performed if it may be, for a context placed or saved. It is performed toward the
agents of every scope at one moment: one of the orders that 08 R266 allows (log entry 61). -/
def State.performAcc (s : State) (x : Ctx) (id : Nat) : State × Ctx :=
  match x.acc.find? fun a => a.id == id with
  | none => (s, x)
  | some a => if s.mayDo x a then s.effectOf x a else (s, x)

/-- One published access of the context at a place performed, if it may be. -/
def State.performOne (s : State) (c p id : Nat) : State :=
  match s.ctx? c p with
  | none => s
  | some x => (s.performAcc x id).1.setCtx c p (s.performAcc x id).2

/-- Every published access of a context performed, in the order of publication (08 R269). -/
def State.performAll (s : State) (c p : Nat) : State :=
  match s.ctx? c p with
  | none => s
  | some x => x.acc.foldl (fun s a => s.performOne c p a.id) s

/-- Every entry of the gated store buffer published and the buffer emptied (04 R137; 08 R268). With a write of the register
window among them, the accesses of the context that may be performed are. -/
def State.publishGate (s : State) (c p : Nat) : State :=
  match s.ctx? c p with
  | none => s
  | some x =>
    let s := (x.gate.foldl (fun s e => s.publishEnt c p e) s).modCtx c p fun x => { x with gate := [] }
    if x.gate.any GateEnt.isWin then s.performAll c p else s

/-- The contexts of the device, by core and place. -/
def State.allCtxs (s : State) : List (Nat × Nat × Ctx) :=
  s.cores.flatMap fun q => q.2.ctxs.map fun r => (q.1, r.1, r.2)

/-- A state threaded through the items of a list, each of which it may change. -/
def threadList {α : Type} (f : State → α → State × α) : List α → State → State × List α
  | [], s => (s, [])
  | a :: as, s =>
    let r := f s a
    let q := threadList f as r.1
    (q.1, r.2 :: q.2)

/-- Every published access of a saved context performed that may be. -/
def State.performSavedCtx (s : State) (v : SavedCtx) : State × SavedCtx :=
  let r := v.ctx.acc.foldl (fun r a => State.performAcc r.1 r.2 a.id) (s, v.ctx)
  (r.1, { v with ctx := r.2 })

/-- The same of the contexts of a saved group. -/
def State.performSavedGroup (s : State) (h : SavedGroup) : State × SavedGroup :=
  let r := threadList State.performSavedCtx h.ctxs s
  (r.1, { h with ctxs := r.2 })

/-- A context has published an access that is not performed. -/
def Ctx.unperformed (x : Ctx) : Bool := x.acc.any Access.pending

/-- Every published access of every saved context performed that may be: what it published before it was saved (10 R329). -/
def State.performSaved (s : State) : State :=
  if s.dev.gangs.any fun g => g.2.groups.any fun h => h.ctxs.any fun v => v.ctx.unperformed then
    let r := threadList (fun s (g : Nat × Gang) =>
      let q := threadList State.performSavedGroup g.2.groups s
      (q.1, (g.1, { g.2 with groups := q.2 }))) s.dev.gangs s
    r.1.modDev fun d => { d with gangs := r.2 }
  else s

/-- Every published access of every context performed, of those that pre-emption has saved too (08 R265 step 2; 11 R369). -/
def State.performEvery (s : State) : State := (s.allCtxs.foldl (fun s q => s.performAll q.1 q.2.1) s).performSaved

/-- The reply of a load or atomic reaches its context's results in flight and the mark's record (10 R319 step 3). -/
def fillLoad (id : Nat) (v : Word) (fs : List Flight) : List Flight :=
  fs.map fun f => match f.val with
    | .load k i none => if i = id then { f with val := .load k i (some v) } else f
    | _ => f

/-- A performed access's reply delivered (01 R47). -/
def State.deliver (s : State) (c p id : Nat) : State :=
  s.modCtx c p fun x =>
    match (x.acc.find? fun a => a.id == id).bind Access.got with
    | none => x
    | some v =>
      { x with
        acc := x.acc.filter fun a => a.id != id, flights := fillLoad id v x.flights,
        mark := x.mark.map fun m => { m with flights := fillLoad id v m.flights } }

end Sys2Proof.Machine
end

