-- ==== Sys2Proof/Machine/Fabric.lean ====
section
/-! DEFINITION. Messages leaving the device (12 R371 to R376): the header's fields at rest, the flits that carry a message, routes,
local delivery, and what the links do. -/

namespace Sys2Proof.Machine

/-- A message with every field at rest. -/
def Msg.rest : Msg :=
  { kind := 0, dst := 0, src := 0, route := 0, hops := 0, det := false, dirn := false, ch := 0, seq := 0, rcen := false, rctr := 0, runit := false,
    accop := 0, rdie := false, tag := 0, slots := 0, sbytes := 0, format := 0, word1 := 0, fromAddr := 0, len := 0,
    op := 0, cause := 0, reason := 0, detail := 0, comp := false, data := [], via := none }

/-- This device's identifier (12 R395). -/
def Dev.id (d : Dev) : BitVec 16 := d.devid.setWidth 16

/-- Coordinate and torus size of dimension k: X, Y, Z (12 R375). -/
def dimLo (k : Nat) : Nat := 5 * k
def dimBits (k : Nat) : Nat := if k = 2 then 4 else 5
def coord (id : BitVec 16) (k : Nat) : Nat := id.toNat / 2 ^ dimLo k % 2 ^ dimBits k
def Dev.torusSize (d : Dev) (k : Nat) : Nat := d.sizes.toNat / 2 ^ dimLo k % 2 ^ dimBits k + 1

/-- An identifier names a device (12 R375). -/
def Dev.names (d : Dev) (id : BitVec 16) : Bool :=
  decide (id.toNat < 2 ^ 14) && (List.range 3).all fun k => Nat.blt (coord id k) (d.torusSize k)

/-- A port is down (12 R377). -/
def Dev.portDown (d : Dev) (p : Nat) : Bool := (Tab.get d.ports Port.reset p).state == 0

/-- Where a torus-routed message leaves, with DET and DIRN as it leaves: none when it is for this device, or finds no port that is up
(12 R375). DET stands for the dimension of the port it came by, and is cleared where that coordinate matches. -/
def Dev.torusHop (d : Dev) (dst : BitVec 16) (det dirn : Bool) (via : Option (BitVec 3)) : Option (Nat × Bool × Bool) :=
  match (List.range 3).find? fun k => coord dst k != coord d.id k with
  | none => none
  | some k =>
    let n := d.torusSize k
    let up := (coord dst k + n - coord d.id k % n) % n
    let down := (coord d.id k + n - coord dst k % n) % n
    let det := det && via.all fun p => p.toNat / 2 == k
    let plus := if det then !dirn else decide (up ≤ down)
    let left (plus det : Bool) : Nat × Bool × Bool := (2 * k + (if plus then 0 else 1), det, !plus)
    if !d.portDown (left plus det).1 then some (left plus det)
    else if det then none
    else if !d.portDown (left (!plus) true).1 then some (left (!plus) true)
    else none

/-- Where a message leaves by its route (12 R375, R378). -/
def Dev.hop (d : Dev) (m : Msg) : Option (Nat × Bool × Bool) :=
  match m.route.toNat with
  | 1 => if d.portDown 6 then none else some (6, false, false)
  | 2 => if d.portDown 7 then none else some (7, false, false)
  | _ => d.torusHop m.dst m.det m.dirn m.via

/-- The port a route leaves by, whether it is up or down (12 R376; 10 R316). -/
def Dev.firstPort (d : Dev) (route : BitVec 2) (dst : BitVec 16) : Option Nat :=
  match route.toNat with
  | 1 => some 6
  | 2 => some 7
  | _ =>
    (Dev.torusHop { d with ports := (List.range 8).map fun p => (p, { Port.reset with state := 2 }) } dst false false none).map
      Prod.fst

/-- The event that a message's arrival is (12 R372). -/
def arrivalEvent (m : Msg) : Option Instr :=
  match m.kind.toNat with
  | 0 => some (.channelData m)
  | 1 => some (.credit m)
  | 2 => some (if m.op = 1 then .barrierRelease m else .barrierArrival m)
  | 3 => some (.absenceToken m)
  | 4 => some (.presenceToken m)
  | 5 => some (.abortFlit m)
  | 6 => some (.mismatch m)
  | 7 => some (.put m)
  | 8 => some (.putAccumulate m)
  | 9 => some (.getRequest m)
  | 10 => some (.getReply m)
  | 11 => some (.remoteCounterAdd m)
  | 12 => some (.completionAcknowledgement m)
  | _ => none

/-- Flits of a message (12 R373). -/
def Msg.flits (m : Msg) : Nat := (m.data.length + 255) / 240

/-- One bit of CRC-32C, reflected (12 R372). -/
def crcBit (c : BitVec 32) : BitVec 32 := if c.getLsbD 0 then (c >>> 1) ^^^ 0x82F63B78#32 else c >>> 1

/-- CRC-32C of some bytes (12 R372). -/
def crc32c (bs : List Byte) : Nat :=
  (bs.foldl (fun c b => (List.range 8).foldl (fun c _ => crcBit c) (c ^^^ b.setWidth 32)) 0xFFFFFFFF#32 ^^^ 0xFFFFFFFF#32).toNat

/-- PARAM of a flit (12 R372). -/
def Msg.param (m : Msg) : Nat :=
  match m.kind.toNat with
  | 7 | 8 => m.rcen.toNat * 2 ^ 19 + m.rctr.toNat * 2 ^ 9 + m.runit.toNat * 2 ^ 8 + m.accop.toNat * 2 ^ 5 + m.rdie.toNat * 2 ^ 4
  | 11 => m.rctr.toNat * 2 ^ 9 + m.rdie.toNat * 2 ^ 4
  | _ => 0

/-- Bits 95:0 of the header of a flit that holds n bytes of payload, last or not of its message (12 R372). -/
def Msg.header (m : Msg) (last : Bool) (n : Nat) : Nat :=
  m.dst.toNat * 2 ^ 80 + m.src.toNat * 2 ^ 64 + m.kind.toNat * 2 ^ 60 + m.comp.toNat * 2 ^ 59 + last.toNat * 2 ^ 58 +
    m.det.toNat * 2 ^ 57 + m.dirn.toNat * 2 ^ 56 + m.hops.toNat * 2 ^ 52 + m.ch.toNat * 2 ^ 44 + m.seq.toNat * 2 ^ 28 +
    n * 2 ^ 20 + Msg.param m

/-- The 16-byte descriptor that a message begins with (12 R373). -/
def Msg.descriptor (m : Msg) : List Byte :=
  bytesLE 8 (m.tag.toNat + m.slots % 256 * 2 ^ 16 + m.sbytes % 2 ^ 24 * 2 ^ 24 + m.format.toNat * 2 ^ 48) ++
    bytesLE 8 m.word1.toNat

/-- The 256 bytes of a flit with payload p: the header with its CRC in its top word, the payload, zeros (12 R372). -/
def Msg.flit (m : Msg) (last : Bool) (p : List Byte) : List Byte :=
  let low := bytesLE 12 (Msg.header m last p.length)
  let body := p ++ List.replicate (240 - p.length) 0
  low ++ bytesLE 4 (crc32c (low ++ bytesLE 4 0 ++ body)) ++ body

/-- The flits that carry a message, in order (12 R372, R373). -/
def Msg.flitList (m : Msg) : List (List Byte) :=
  let ps := pieces 240 (Msg.flits m) (Msg.descriptor m ++ m.data)
  (List.range ps.length).map fun i => Msg.flit m (i + 1 == ps.length) (ps.getD i [])

/-- The flits that a port holds to send, in the order in which they leave (12 R373). -/
def Dev.portFlits (d : Dev) (p : Nat) : List (List Byte) :=
  (d.outbox.filter fun o => o.1 == p).flatMap fun o => Msg.flitList o.2

/-- A flit passes its CRC (12 R372, R374). -/
def flitGood (f : List Byte) : Bool :=
  f.length == 256 && numLE ((f.drop 12).take 4) == crc32c (f.take 12 ++ bytesLE 4 0 ++ f.drop 16)

/-- A flit is one that is discarded and counted: KIND 15, or LEN above 240 (12 R372). -/
def flitReserved (f : List Byte) : Bool :=
  let h := numLE (f.take 12)
  h / 2 ^ 60 % 16 == 15 || decide (240 < h / 2 ^ 20 % 256)

/-- The link compressor judged by the transmit queue (12 R381). -/
def Port.judge (p : Port) : Port :=
  let thr := fld p.cthr 15 0
  { p with cmp := if thr = 0 then false else if p.queued > thr then true else if p.queued < thr / 2 then false else p.cmp }

/-- A message as a port sends it: compressed if the compressor is on as it is queued (12 R381). -/
def Msg.packed (m : Msg) (on : Bool) : Msg :=
  if on && !m.comp && !m.data.isEmpty then { m with comp := true, data := packData m.data } else m

/-- A message with its data decoded, as its receiver reads it; none where a packet is corrupt (12 R381). -/
def Msg.plain (m : Msg) : Option Msg :=
  if m.comp then (unpackData m.data.length m.data).map fun bs => { m with comp := false, data := bs } else some m

/-- A message queued at a port (12 R381). -/
def Dev.queueAt (d : Dev) (p : Nat) (m : Msg) : Dev :=
  let q := Tab.get d.ports Port.reset p
  let m := Msg.packed m q.cmp
  { d with
    outbox := d.outbox ++ [(p, m)],
    ports := Tab.set d.ports p { q with queued := q.queued + Msg.flits m }.judge }

/-- The state with a port changed. -/
def State.modPort (s : State) (p : Nat) (f : Port → Port) : State :=
  s.modDev fun d => { d with ports := Tab.set d.ports p (f (Tab.get d.ports Port.reset p)) }

/-- A 32-bit count raised, saturating (12 R377). -/
def satInc (w : Word) : Word := if w.toNat < 0xFFFFFFFF then w + 1 else w

/-- The operation of the device's own Trellis that a message carries (12 R373, R376). -/
def Msg.ownOp (m : Msg) (id : BitVec 16) : Option Nat :=
  if m.src = id ∧ (m.kind = 7 ∨ m.kind = 8 ∨ m.kind = 9 ∨ m.kind = 11) then some m.op else none

/-- The operations whose flits a port has lost or would lose now (12 R374, R376). -/
def Dev.lostBy (d : Dev) (p : Nat) : List Nat :=
  (Tab.get d.ports Port.reset p).lostOps ++
    (d.outbox.filter fun o => o.1 == p).filterMap fun o => Msg.ownOp o.2 d.id

/-- A port stops sending, in STATE st: the flits held for it are discarded, and with each the whole message (12 R374). Everything
queued counts as held (log entry 77). -/
def State.emptyPort (s : State) (p st : Nat) : State :=
  s.modDev fun d =>
    { d with
      outbox := d.outbox.filter fun o => o.1 != p,
      ports := Tab.set d.ports p
        { Tab.get d.ports Port.reset p with state := st, refusals := 0, corrupt := 0, queued := 0, lostOps := d.lostBy p }.judge }

/-- A flit refused at a port: counted, sent again or not; the eighth refusal in succession starts a retrain (12 R374). No flit
travels by a port that is down or in training (12 R376, R377). -/
def State.flitRefused (s : State) (port : Nat) (resendOk : Bool) : State :=
  if (Tab.get s.dev.ports Port.reset port).state ≠ 2 then s
  else
    let s := s.modPort port fun q => { q with crcerr := satInc q.crcerr }
    if (Tab.get s.dev.ports Port.reset port).refusals ≥ 7 then s.emptyPort port 1
    else s.modPort port fun q =>
      if resendOk then { q with replay := satInc q.replay, refusals := 0 } else { q with refusals := q.refusals + 1 }

/-- The port that a message has come by: the one it says, else that of its ring; none for a message of the device's own (12 R375). -/
def Msg.port (m : Msg) : Option Nat :=
  match m.via with
  | some p => some p.toNat
  | none => match m.route.toNat with
    | 1 => some 7
    | 2 => some 6
    | _ => none

/-- A message with a corrupt packet: a CRC failure of its last flit at the port it came by, counted there, so that it has not come
and is sent again; its eighth refusal in succession starts a retrain (12 R374, R381). A port counts these apart from the refusals of
single flits (log entry 82). -/
def State.refuseMsg (s : State) (m : Msg) : State :=
  match Msg.port m with
  | none => s
  | some p =>
    let q := Tab.get s.dev.ports Port.reset p
    if q.state ≠ 2 then s
    else
      let s := s.modPort p fun q => { q with crcerr := satInc q.crcerr, corrupt := q.corrupt + 1 }
      if q.corrupt ≥ 7 then s.emptyPort p 1 else s

/-- A message that decodes has come: where the port it came by has refused it before, its resend has succeeded (12 R374, R381). The
flits of a link come in order, so that what comes next by the port is what it refused. -/
def State.resent (s : State) (m : Msg) : State :=
  match Msg.port m with
  | none => s
  | some p =>
    if (Tab.get s.dev.ports Port.reset p).corrupt = 0 then s
    else s.modPort p fun q => { q with replay := satInc q.replay, corrupt := 0 }

/-- An event of kind LINK for a message that no device takes (12 R375, R396): by the port of its ring where it has one, else by a
port that the manual does not give: a free value. -/
def State.postLink (s : State) (port : Option Nat) (peer : BitVec 16) : State :=
  match port with
  | some p => s.post 11 0 0 (BitVec.ofNat 64 p) (peer.setWidth 64) 0
  | none => (s.post 11 0 0 (BitVec.ofNat 64 ((Config.freeWord (freeKey s.free 17)).toNat % 8)) (peer.setWidth 64) 0).takeFree 1

/-- The port that a ring route leaves by. -/
def ringPort (route : BitVec 2) : Option Nat :=
  match route.toNat with
  | 1 => some 6
  | 2 => some 7
  | _ => none

/-- A message sent on: kept before BOOTST 4 (13 R424); else one that names no device is discarded and told to the host, one that
finds no port is discarded (12 R375). -/
def State.sendOn (s : State) (m : Msg) : State :=
  if s.dev.bootst ≠ 4 then s.modDev fun d => { d with bootWait := d.bootWait ++ [(false, m)] }
  else if !s.dev.names m.dst then s.postLink (ringPort m.route) m.dst
  else match s.dev.hop m with
    | some (p, det, dirn) => s.modDev fun d => d.queueAt p { m with det := det, dirn := dirn, via := none }
    | none => s

/-- A message sent by this device: to a port, or to itself when it is the destination of a torus route (12 R375). -/
def State.emit (s : State) (m : Msg) : State :=
  let m := { m with src := s.dev.id, det := false, dirn := false, via := none }
  if m.route.toNat = 0 ∧ m.dst = s.dev.id then
    match arrivalEvent m with
    | some i => { s with agenda := s.agenda ++ [.event i] }
    | none => s
  else s.sendOn m

/-- Word w of channel ch's record (12 R378). -/
def Dev.chanWord (d : Dev) (ch w : Nat) : Word := Tab.get d.chanTab 0 (8 * ch + w)

/-- A channel is configured: VALID and not stopped (12 R378). -/
def Dev.chanOk (d : Dev) (ch : Nat) : Bool := bit (d.chanWord ch 0) 63 && !bit (d.chanWord ch 0) 62

/-- A word of a channel's record replaced. -/
def Dev.setChan (d : Dev) (ch w : Nat) (v : Word) : Dev := { d with chanTab := Tab.set d.chanTab (8 * ch + w) v }

/-- A field of a channel's record replaced. -/
def State.chanFld (s : State) (ch w hi lo v : Nat) : State :=
  s.modDev fun d => d.setChan ch w (setFld (d.chanWord ch w) hi lo v)

/-- Bytes of an element of a format code of R252 as a channel counts them (12 R378). -/
def fmtBytes (f : Nat) : Nat := if f = 1 ∨ f = 6 then 4 else if f = 2 then 2 else 1

/-- Slot bytes of a channel (12 R378). -/
def Dev.slotBytes (d : Dev) (ch : Nat) : Nat :=
  let w := d.chanWord ch 1
  (fld w 15 0 + 1) * (fld w 31 16 + 1) * (fld w 47 32 + 1) * (fld w 63 48 + 1) * fmtBytes (fld (d.chanWord ch 0) 35 32)

/-- A message to a channel's peer, routed as its record says (12 R378). -/
def Dev.toPeer (d : Dev) (ch kind : Nat) : Msg :=
  let w := d.chanWord ch 0
  { Msg.rest with
    kind := BitVec.ofNat 4 kind, dst := BitVec.ofNat 16 (fld w 15 0), route := BitVec.ofNat 2 (fld w 61 60),
    hops := BitVec.ofNat 4 (fld w 59 56), ch := BitVec.ofNat 8 (fld w 47 40) }

/-- The group slot and the next barrier sequence number of a channel (12 R378). -/
def Dev.chanGroup (d : Dev) (ch : Nat) : Nat := fld (d.chanWord ch 0) 53 48
def Dev.bseq (d : Dev) (ch : Nat) : Nat := fld (d.chanWord ch 4) 47 32

/-- The root of a group (12 R391). -/
def Dev.root (d : Dev) (g : Nat) : BitVec 16 := BitVec.ofNat 16 (fld (Tab.get d.groups Group.reset g).w0 15 0)

/-- A message of a barrier, routed over the torus (12 R392). -/
def barMsg (kind g seq : Nat) (dst : BitVec 16) : Msg :=
  { Msg.rest with kind := BitVec.ofNat 4 kind, dst := dst, ch := BitVec.ofNat 8 g, seq := BitVec.ofNat 16 seq }

/-- What the absence tokens of a context carry, for each channel on which it has issued a barx: the channel's group and its next
barrier sequence number (10 R331). -/
def Dev.tokensOf (d : Dev) (chs : List Nat) : List (Nat × Nat) := chs.map fun ch => (d.chanGroup ch, d.bseq ch)

/-- Absence (kind 3) or presence (kind 4) tokens for some groups and sequence numbers, sent to the roots (10 R331). -/
def State.tokens (s : State) (kind : Nat) (ts : List (Nat × Nat)) : State :=
  ts.foldl (fun s t => s.emit (barMsg kind t.1 t.2 (s.dev.root t.1))) s

end Sys2Proof.Machine
end

