-- ==== Sys2Proof/Machine/Rings.lean ====
section
/-! DEFINITION. Rings (07 R215 to R220), their owner bits, and sync objects (07 R236, R237). -/

namespace Sys2Proof.Machine

/-- A ring after reset or made invalid (07 R215, R220). -/
def Ring.reset : Ring :=
  { valid := false, pside := false, cside := false, prod := 0, cons := 0, perm1 := 0, countm1 := 0, slotm1 := 0,
    first := 0, tiles := [], filled := [], reserved := 0, taken := 0 }

/-- Slot count, declared count, tiles of a slot (07 R213, R215). -/
def Ring.count (r : Ring) : Nat := r.countm1 + 1
def Ring.declared (r : Ring) : Nat := r.perm1 + 1
def Ring.slotTiles (r : Ring) : Nat := r.slotm1 + 1

/-- Occupancy: full slots (07 R215). -/
def Ring.occ (r : Ring) : Nat := (r.prod + 2 * r.count - r.cons % (2 * r.count)) % (2 * r.count)

/-- Free slots not reserved by a fired command, and full slots not taken by one (07 R213). -/
def Ring.free (r : Ring) : Nat := r.count - r.occ - r.reserved
def Ring.avail (r : Ring) : Nat := r.occ - r.taken

/-- The physical tiles of slot i (07 R215, R220). -/
def Ring.slot (r : Ring) (i : Nat) : List Nat := (r.tiles.drop (i * r.slotTiles)).take r.slotTiles

/-- The ring register's 64 bits (07 R215). -/
def Ring.word (r : Ring) : Word :=
  if r.valid then
    BitVec.ofNat 64 (2 ^ 63 + r.pside.toNat * 2 ^ 62 + r.cside.toNat * 2 ^ 61 + r.prod * 2 ^ 54 + r.cons * 2 ^ 47
      + r.perm1 * 2 ^ 41 + r.countm1 * 2 ^ 35 + r.slotm1 * 2 ^ 30 + r.first * 2 ^ 21)
  else 0

/-- Ring q of a core. -/
def Core.ring (k : Core) (q : Nat) : Ring := Tab.get k.rings Ring.reset q

/-- A core with ring q replaced. -/
def Core.setRing (k : Core) (q : Nat) (r : Ring) : Core := { k with rings := Tab.set k.rings q r }

/-- Tiles passed to a side: nothing where both sides are of one kind (07 R216). -/
def Core.passTo (k : Core) (r : Ring) (ts : List Nat) (engine : Bool) : Core :=
  if r.pside = r.cside then k else k.setOwner ts engine

/-- The slots from index i on, n of them, wrapping. -/
def Ring.slotsFrom (r : Ring) (i n : Nat) : List Nat := (List.range n).map fun j => (i + j) % r.count

/-- The producer index advanced by n, the slots passing to the consumer side (07 R216, R219). -/
def Core.ringProduce (k : Core) (q n : Nat) : Core :=
  let r := k.ring q
  let k := k.passTo r ((r.slotsFrom r.prod n).flatMap r.slot) r.cside
  k.setRing q { r with prod := (r.prod + n) % (2 * r.count) }

/-- The consumer index advanced by n, the slots passing to the producer side (07 R216, R219). -/
def Core.ringConsume (k : Core) (q n : Nat) : Core :=
  let r := k.ring q
  let k := k.passTo r ((r.slotsFrom r.cons n).flatMap r.slot) r.pside
  k.setRing q { r with cons := (r.cons + n) % (2 * r.count),
                       filled := (r.slotsFrom r.cons n).foldl (fun t i => Tab.del t i) r.filled }

/-- The consumer side made an engine: every full slot passes to it (07 R217). -/
def Core.ringCside (k : Core) (q : Nat) : Core :=
  let r := { k.ring q with cside := true }
  (k.setOwner ((r.slotsFrom r.cons r.occ).flatMap r.slot) true).setRing q r

/-- The producer side made an engine: every empty slot passes to it (07 R217). -/
def Core.ringPside (k : Core) (q : Nat) : Core :=
  let r := { k.ring q with pside := true }
  (k.setOwner ((r.slotsFrom r.prod (r.count - r.occ)).flatMap r.slot) true).setRing q r

/-- A context's release of the slot at the consumer index, with the credit to the channel that filled it (07 R219; 12
R380). -/
def State.ringRelease (s : State) (c q : Nat) : State :=
  let r := (s.core c).ring q
  let from' := Tab.find? r.filled (r.cons % r.count)
  let s := s.modCore c fun k => k.ringConsume q 1
  match from' with
  | some ch => s.emit (s.dev.toPeer ch 1)
  | none => s

/-- Update of a sync object's first word by a count of arrivals and bytes: none where it would fall below zero (07
R237). -/
def syncUpdate (w0 w1 : Word) (arr bytes : Nat) : Option Word :=
  if fld w0 62 40 < arr ∨ fld w0 39 0 < bytes then none
  else if fld w0 62 40 = arr ∧ fld w0 39 0 = bytes then
    some (setFld (setFld (setFld w0 63 63 (1 - fld w0 63 63)) 62 40 (fld w1 62 40)) 39 0 (fld w1 39 0))
  else some (setFld (setFld w0 62 40 (fld w0 62 40 - arr)) 39 0 (fld w0 39 0 - bytes))

/-- A word of scratchpad at a physical offset. -/
def Core.spWord (k : Core) (off : Nat) : Word := BitVec.ofNat 64 (numLE (k.spBytes off 8))

/-- A sync object at a physical offset updated by its bank controller with the sums of a cycle; false where the updates are
discarded (07 R237). -/
def Core.syncPut (k : Core) (off arr bytes : Nat) : Core × Bool :=
  match syncUpdate (k.spWord off) (k.spWord (off + 8)) arr bytes with
  | none => (k, false)
  | some w => (k.agentPut ((List.range 8).zip (bytesLE 8 w.toNat) |>.map fun q => (off + q.1, q.2)), true)

/-- An update joins those that its bank controller has of this cycle (07 R237). -/
def Core.syncAdd (k : Core) (u : SobjUpd) : Core := { k with sobj := k.sobj ++ [u] }

/-- Tile numbers that a tile-range word names (07 R221). -/
def rangeTiles (w : Word) : List Nat := (List.range (fld w 17 9 + 1)).map fun i => fld w 8 0 + i

/-- The physical tiles of a tile-range word in a context's view; none beyond the allotted banks. -/
def rangePhys (banks : List Nat) (w : Word) : Option (List Nat) := (rangeTiles w).mapM (viewTile banks)

/-- The tiles of the rings whose producer or consumer side is an engine (07 R221). -/
def Core.engineRingTiles (k : Core) : List Nat :=
  k.rings.flatMap fun q => if q.2.valid && (q.2.pside || q.2.cside) then q.2.tiles else []

end Sys2Proof.Machine
end

