-- ==== Sys2Proof/Machine/Csr.lean ====
section
/-! DEFINITION. The special registers: which numbers exist, who may use them (01 R27, R28), what each reads, and what a
write stores (01 R29 to R40; 04 R121). -/

namespace Sys2Proof.Machine

/-- The numbers defined (01 R28). -/
def csrKnown (n : Nat) : Bool :=
  decide (n < 5) || (decide (0x400 ≤ n) && decide (n ≤ 0x409)) || (decide (0x800 ≤ n) && decide (n ≤ 0x80A)) ||
    (decide (0x810 ≤ n) && decide (n ≤ 0x812)) || n == 0xC00

/-- An access fails the check of 01 R27. -/
def csrBarred (n : Nat) (priv writes : Bool) : Bool :=
  if priv then writes && decide (n / 0x400 % 4 = 3)
  else decide (n / 0x800 % 2 = 1) || (writes && decide (n / 0x400 % 2 = 1))

/-- The energy accumulator's word of a gang that holds a line (13 R420). -/
def Gang.energyWord (g : Gang) : Nat := 2 * (16 * g.die + g.line)

/-- A queue entry as its 64 bits (01 R24). -/
def QEnt.word (e : QEnt) : Word := BitVec.ofNat 64 (e.addr.toNat * 16 + e.n.toNat)

/-- The queue entry of 64 bits (01 R24). -/
def qentOf (w : Word) : QEnt := ⟨BitVec.ofNat 52 (fld w 55 4), bit w 0⟩

/-- The bits of a saved queue entry that are not reserved (01 R24, R26). -/
def qentMask : Word := 0x00FFFFFFFFFFFFF1#64

/-- The value of special register n as the context at the focus reads it (01 R28). -/
def State.csrRead (s : State) (n : Nat) : Word :=
  let x := s.fctx
  let a := x.arch
  let k := s.fcore
  match n with
  | 0x000 => a.rmode
  | 0x001 => a.ovpol
  | 0x002 => a.vflags
  | 0x003 => a.rngs
  | 0x004 => a.check
  | 0x400 => a.wid
  | 0x401 => a.widw
  | 0x402 => a.mbt
  | 0x403 => a.stage
  | 0x404 => a.vint
  | 0x405 => a.step
  | 0x406 => s.cycleWord
  | 0x407 => k.skew
  | 0x408 =>
    match Tab.find? s.dev.gangs x.gang with
    | some g => g.ebal
    | none => BitVec.allOnes 64
  | 0x409 => k.slotmask
  | 0x800 => a.ecause
  | 0x801 => a.einfo
  | 0x802 => a.epc
  | 0x803 => a.epcq1
  | 0x804 => a.epcq2
  | 0x805 => a.slotfault
  | 0x806 => a.estatus
  | 0x807 => k.tvec
  | 0x808 => s.dev.funcmode
  | 0x809 => k.watchdog
  | 0x80A => a.quantum
  | 0x810 => a.tabsel
  | 0x811 => a.tabidx
  | 0x812 => s.tableRead (fld a.tabsel 7 0) (fld a.tabidx 31 0)
  | 0xC00 =>
    match Tab.find? s.dev.gangs x.gang with
    | some g => Tab.get s.dev.energyTab 0 g.energyWord
    | none => 0
  | _ => 0

/-- The context's own special registers after a write of register n (01 R29 to R33, R36, R39; 04 R132). The bundle's own
step, which is counted after its special-register writes, leaves a STEP that is written at the value written (01 R33, R42,
R49): DEDUCED, log entry 52. WID takes the word whole and WIDW its low 36 bits, whatever they then say together: bits of WID
above P5 + W5, and widths that sum to more than 64, stay as written (01 R41): DESIGN CHOICE, log entry 83. -/
def Arch.csrPut (a : Arch) (due : Fl) (n : Nat) (v : Word) : Arch :=
  match n with
  | 0x000 => { a with rmode := rmodeWrite a.rmode v }
  | 0x001 => { a with ovpol := v &&& 3#64 }
  | 0x002 => { a with vflags := vflagsWrite v due }
  | 0x003 => { a with rngs := rngsWrite v }
  | 0x004 => { a with check := v &&& 1#64 }
  | 0x400 => { a with wid := v }
  | 0x401 => { a with widw := v &&& 0xFFFFFFFFF#64 }
  | 0x402 => { a with mbt := v &&& 0xFFFF#64 }
  | 0x403 => { a with stage := v &&& 0xFFFF#64 }
  | 0x404 => { a with vint := v &&& 7#64 }
  | 0x405 => { a with step := v - 1#64 }
  | 0x800 => { a with ecause := v &&& 0x3F#64 }
  | 0x801 => { a with einfo := v }
  | 0x802 => { a with epc := v &&& qentMask, epcWritten := true }
  | 0x803 => { a with epcq1 := v &&& qentMask, epcWritten := true }
  | 0x804 => { a with epcq2 := v &&& qentMask, epcWritten := true }
  | 0x805 => { a with slotfault := v &&& 0x3F#64 }
  | 0x806 => { a with estatus := v &&& 1#64 }
  | 0x80A => { a with quantum := v &&& 0xFFFFFFFF#64 }
  | 0x810 => { a with tabsel := v &&& 0xFF#64 }
  | 0x811 => { a with tabidx := v &&& 0xFFFFFFFF#64 }
  | _ => a

/-- A core's special registers after a write of register n (01 R33, R34, R37, R39; 13 R402). -/
def Core.csrPut (k : Core) (n : Nat) (v : Word) : Core :=
  match n with
  | 0x407 => { k with skew := v }
  | 0x409 => if fld v 2 0 ≤ 4 then Core.relimit { k with sup := fld v 2 0 } else k
  | 0x807 => { k with tvec := v &&& 0x00FFFFFFFFFFF800#64 }
  | 0x809 => { k with watchdog := watchdogWrite v }
  | _ => k

/-- FUNCMODE written: stored at once, followed by decisions 64 cycles later (01 R38). -/
def State.putFuncmode (s : State) (v : Word) : State :=
  s.modDev fun d =>
    { d with
      funcmode := v &&& 0x3F3F#64,
      funcPast := (s.cycle, d.funcmode) :: d.funcPast.filter fun q => decide (q.1 + 64 > s.cycle) }

/-- A special register other than TABDAT written as its bundle commits (04 R121; 01 R33). -/
def State.csrPut (s : State) (n : Nat) (v : Word) : State :=
  if n = 0x808 then s.putFuncmode v
  else
    (s.modCore s.fc fun k => k.csrPut n v).modCtx s.fc s.fp fun x => { x with arch := x.arch.csrPut x.dueFlags n v }

/-- A TABDAT access as its bundle commits: the word written, if one is, and TABIDX moved (01 R40; 04 R122). -/
def State.tabdatPut (s : State) (w : Option Word) : State :=
  let a := s.fctx.arch
  let s' := match w with
    | some v => s.tableWrite (fld a.tabsel 7 0) (fld a.tabidx 31 0) v
    | none => s
  s'.modCtx s.fc s.fp fun x => { x with arch := { x.arch with tabidx := (x.arch.tabidx + 1) &&& 0xFFFFFFFF#64 } }

end Sys2Proof.Machine
end

