-- ==== Sys2Proof/Machine/Ops.lean ====
section
/-! DEFINITION. The shared operations on a context: results falling due (01 R43 to R46), restart marks and rollback (10
R318 to R320; 06 R206), taking a trap and returning from one (10 R311 to R314; 07 R245), the movement of the successor
queue (01 R25; 04 R131), turns (09 R294), and the end of a context (10 R337). -/

namespace Sys2Proof.Machine

/-- A load whose reply has not come (01 R47). -/
def FlightVal.late : FlightVal → Bool
  | .load _ _ none => true
  | _ => false

/-- A result is due at the context's present step (01 R43, R46). -/
def Ctx.isDue (x : Ctx) (f : Flight) : Bool := f.lvl == x.arch.lvl && decide (f.due ≤ x.stepNo)

/-- A result placed among others in order of due step, then of issue (01 R44). -/
def insFlight (f : Flight) : List Flight → List Flight
  | [] => [f]
  | g :: gs => if f.due < g.due ∨ (f.due = g.due ∧ f.ord < g.ord) then f :: g :: gs else g :: insFlight f gs

/-- Results in the order in which they take effect (01 R44). -/
def sortFlights (fs : List Flight) : List Flight := fs.foldl (fun a f => insFlight f a) []

/-- A trap raised by no slot made pending; a second HOST_EVENT replaces the value of the first (10 R313, R333). -/
def Ctx.pend (x : Ctx) (c : Cause) (info : Word) : Ctx :=
  if c = .hostEvent ∧ x.pends.any (fun q => q.cause == .hostEvent) then
    { x with pends := x.pends.map fun q => if q.cause = .hostEvent then ⟨c, info⟩ else q }
  else { x with pends := x.pends ++ [⟨c, info⟩] }

/-- A cause is pending for a context. -/
def Ctx.hasPend (x : Ctx) (c : Cause) : Bool := x.pends.any fun q => q.cause == c

/-- TIMER is due for a context in a cycle (10 R333). -/
def Ctx.timerDue (x : Ctx) (cycle : Nat) : Bool := bit x.ctl 4 && decide (x.tcmp.toNat ≤ cycle) && !x.hasPend .timer

/-- A context that runs no more on a core, as it is saved or while it is saved: TIMER becomes pending in the first cycle in which it
is due (10 R333). -/
def Ctx.timed (cycle : Nat) (x : Ctx) : Ctx :=
  if x.run ≠ .retired ∧ x.timerDue cycle = true then x.pend .timer (BitVec.ofNat 64 cycle) else x

/-- A trap raised by no slot made pending for the context at a place. -/
def State.pend (s : State) (c p : Nat) (cause : Cause) (info : Word) : State := s.modCtx c p fun x => x.pend cause info

/-- One result written (01 R43; 06 R198). -/
def State.applyFlight (s : State) (c p : Nat) (f : Flight) : State :=
  match f.val with
  | .scalar k v => s.writeScalar c p k v
  | .vec k d dm sd sm => s.writeVector c p k d dm sd sm
  | .mask k v => s.writeMask c p k v
  | .flags fl => s.modCtx c p fun x =>
    { x with
      arch := { x.arch with vflags := vflagsOr x.arch.vflags fl },
      dueFlags := if f.due = x.stepNo then x.dueFlags ||| fl else x.dueFlags }
  | .load k _ (some v) => s.writeScalar c p k v
  | .load _ _ none => s
  | .sat row col true => s.pend c p .accSaturate (BitVec.ofNat 64 (row % 256 * 256 + col.getD 0 % 128))
  | .sat _ _ false => s.modCtx c p fun x =>
    { x with
      arch := { x.arch with vflags := vflagsOr x.arch.vflags flACCSAT },
      dueFlags := if f.due = x.stepNo then x.dueFlags ||| flACCSAT else x.dueFlags }

/-- One matrix effect taking place (06 R193 to R195, R200): an update of a row takes the place of every earlier one
still in flight. -/
def MatUnit.applyOp (m : MatUnit) (f : MatFlight) : MatUnit :=
  match f.op with
  | .push false j l _ => { m with bank0 := Tab.set m.bank0 j l }
  | .push true j l _ => { m with bank1 := Tab.set m.bank1 j l }
  | .swap => { m with active := !m.active }
  | .mode c =>
    { m with
      mode := some c, bank0 := [], bank1 := [],
      pend := m.pend.filter fun g => match g.op with | .push _ _ _ _ => decide (g.ord > f.ord) | _ => true }
  | .row r v =>
    { m with
      rows := Tab.set m.rows r v,
      pend := m.pend.filter fun g => match g.op with | .row q _ => q != r || decide (g.ord > f.ord) | _ => true }

/-- The first matrix effect that is due, by due step and then issue. -/
def firstMat (lvl stepNo : Nat) : List MatFlight → Option MatFlight
  | [] => none
  | f :: fs =>
    if f.lvl = lvl ∧ f.due ≤ stepNo then
      match firstMat lvl stepNo fs with
      | some g => if g.due < f.due ∨ (g.due = f.due ∧ g.ord < f.ord) then some g else some f
      | none => some f
    else firstMat lvl stepNo fs

/-- Every matrix effect due at a step taking place (06 R205). -/
def MatUnit.applyDue (lvl stepNo : Nat) : Nat → MatUnit → MatUnit
  | 0, m => m
  | n + 1, m =>
    match firstMat lvl stepNo m.pend with
    | none => m
    | some f => MatUnit.applyDue lvl stepNo n ({ m with pend := m.pend.filter fun g => g.ord != f.ord || g.op != f.op }.applyOp f)

/-- The scalar register that a result is written to. -/
def FlightVal.scalarTo : FlightVal → Option Nat
  | .scalar k _ => some k
  | .load k _ _ => some k
  | _ => none

/-- A late load whose register one of some results writes after it, by due step and then by issue (01 R44, R47). -/
def Flight.overtaken (fs : List Flight) (g : Flight) : Bool :=
  fs.any fun f => f.val.scalarTo.isSome && f.val.scalarTo == g.val.scalarTo &&
    (decide (g.due < f.due) || (g.due == f.due && decide (g.ord < f.ord)))

/-- The results left in flight once some are written: a late load whose register a later write has taken is still awaited,
and writes nothing when it comes (01 R44, R47). -/
def Ctx.leftFlights (x : Ctx) (due : List Flight) : List Flight :=
  (x.flights.filter fun f => !(x.isDue f && !f.val.late)).map fun g =>
    match g.val with
    | .load _ i none => if x.isDue g && g.overtaken due then { g with val := .load 0 i none } else g
    | _ => g

/-- Every result due at the context's present step written (01 R43, R44, R48). -/
def State.applyDue (s : State) (c p : Nat) : State :=
  match s.ctx? c p with
  | none => s
  | some x =>
    let due := sortFlights (x.flights.filter fun f => x.isDue f && !f.val.late)
    let s := s.setCtx c p { x with flights := x.leftFlights due }
    let s := due.foldl (fun s f => s.applyFlight c p f) s
    if (s.core c).mat.holder = some p then
      s.modCore c fun k => { k with mat := k.mat.applyDue x.arch.lvl x.stepNo k.mat.pend.length }
    else s

/-- Some result of the context is due (01 R43). -/
def State.hasDue (s : State) (c p : Nat) : Bool :=
  match s.ctx? c p with
  | none => false
  | some x =>
    (x.flights.any fun f => x.isDue f && !f.val.late) ||
      ((s.core c).mat.holder == some p && (firstMat x.arch.lvl x.stepNo (s.core c).mat.pend).isSome)

/-- The access whose reply is late at the context's present step (01 R47). -/
def Ctx.lateId (x : Ctx) : Option Nat :=
  x.flights.findSome? fun f => match f.val with
    | .load _ i none => if x.isDue f then some i else none
    | _ => none

/-- A context's allotted registers. -/
def Core.sregs (k : Core) (x : Ctx) : List Word := (List.range x.sCount).map fun i => Tab.get k.spool 0 (x.sBase + i)
def Core.vregs (k : Core) (x : Ctx) : List VReg :=
  (List.range x.vCount).map fun i => Tab.get k.vpool VReg.zero (x.vBase + i)

/-- Values written to consecutive entries of a table. -/
def Tab.setFrom {α : Type} (t : Tab α) (i : Nat) : List α → Tab α
  | [] => t
  | v :: vs => Tab.setFrom (Tab.set t i v) (i + 1) vs

/-- A row of a context's allotment. -/
def Ctx.ownsRow (x : Ctx) (r : Nat) : Bool := decide (x.aBase ≤ r) && decide (r < x.aBase + x.aCount)

/-- The matrix state of the holder as pre-emption saves it, with its effects in flight (06 R205; 10 R329). -/
def Core.matSaved (k : Core) (x : Ctx) : MatShadow :=
  { mode := k.mat.mode, active := k.mat.active, bank0 := k.mat.bank0, bank1 := k.mat.bank1,
    rows := k.mat.rows.filter fun q => x.ownsRow q.1, pend := k.mat.pend }

/-- A matrix effect placed among others in order of issue. -/
def insMat (f : MatFlight) : List MatFlight → List MatFlight
  | [] => [f]
  | g :: gs => if f.ord < g.ord then f :: g :: gs else g :: insMat f gs

/-- The matrix unit once every effect issued so far has taken place, in order of issue (06 R206). -/
def MatUnit.landed (m : MatUnit) : MatUnit :=
  (m.pend.foldl (fun a f => insMat f a) []).foldl MatUnit.applyOp { m with pend := [] }

/-- The matrix state of the holder as a mark shadows it: every row and line after every update and push issued before the
mark (06 R206; 10 R319). -/
def Core.matShadow (k : Core) (x : Ctx) : MatShadow := { k with mat := k.mat.landed }.matSaved x

/-- The matrix unit with a shadow copied back (06 R206). -/
def MatUnit.restore (m : MatUnit) (x : Ctx) (h : MatShadow) : MatUnit :=
  { m with
    mode := h.mode, active := h.active, bank0 := h.bank0, bank1 := h.bank1, pend := h.pend,
    rows := h.rows.foldl (fun t q => Tab.set t q.1 q.2) (m.rows.filter fun q => !x.ownsRow q.1) }

/-- The mark state recorded as it stands (10 R319 steps 2 and 3). -/
def State.recordMark (s : State) (c p : Nat) : State :=
  s.modCtx c p fun x =>
    let k := s.core c
    { x with
      mark := some { arch := x.arch, sregs := k.sregs x, vregs := k.vregs x, flights := x.flights,
                     dueFlags := x.dueFlags, mat := if k.mat.holder = some p then some (k.matShadow x) else none,
                     point := x.stepNo, ord := x.nextId } }

/-- A restart mark taken: due results written, the gated stores published, the mark state recorded (10 R319). -/
def State.takeMark (s : State) (c p : Nat) : State := ((s.applyDue c p).publishGate c p).recordMark c p

/-- The core no longer frozen on account of a context. -/
def Core.unfreeze (k : Core) (p : Nat) : Core :=
  match k.freeze with
  | some f => if f.place = p then { k with freeze := none } else k
  | none => k

/-- The core with no bundle left to run of a context. -/
def Core.unsplit (k : Core) (p : Nat) : Core :=
  match k.split with
  | some q => if q.place = p then { k with split := none } else k
  | none => k

/-- Where a rollback leaves a context: parked for the host or not yet started as it was, else ready (10 R320, R337). -/
def Run.rolled : Run → Run
  | .parked => .parked
  | .starting t => .starting t
  | _ => .ready

/-- A rollback to the current mark (10 R320). Pending traps stay, and so does a park for the host, which only ACTION ends
(10 R337). What is left of a split bundle is dropped with the bundle (13 R403). -/
def State.rollback (s : State) (c p : Nat) : State :=
  match s.ctx? c p with
  | none => s
  | some x =>
    match x.mark with
    | none => s
    | some m =>
      let s := s.modCore c fun k =>
        { (k.unfreeze p).unsplit p with
          spool := Tab.setFrom k.spool x.sBase m.sregs, vpool := Tab.setFrom k.vpool x.vBase m.vregs,
          mat := match m.mat with
            | some h => k.mat.restore x h
            | none => k.mat }
      s.setCtx c p
        { x with
          arch := m.arch, flights := m.flights, gate := [], stepNo := m.point, dueFlags := m.dueFlags, stalls := 0,
          inUnit := false, walks := [], loaded := [], fillBad := [], run := x.run.rolled, turnStart := false, syncWait := 0,
          syncIn := x.syncIn && x.actIn,
          acc := x.acc.filter fun a => decide (a.ord < m.ord) || a.kind == .stg || a.kind == .str }

/-- Results in flight held as a trap is taken: the steps they still have to wait (01 R46). -/
def holdDue (lvl stepNo due l : Nat) : Nat := if l = lvl then due - stepNo else due

/-- Results held at a level counted again from the present step (01 R46). -/
def resumeDue (lvl stepNo due l : Nat) : Nat := if l + 1 = lvl then due + stepNo else due

/-- The matrix effects of the holder with their due steps and levels changed. -/
def State.modPend (s : State) (c p : Nat) (f : MatFlight → MatFlight) : State :=
  if (s.core c).mat.holder = some p then s.modCore c fun k => { k with mat := { k.mat with pend := k.mat.pend.map f } }
  else s

/-- The cause state and saved queue written, the results in flight held (10 R311 step 2; 01 R26, R36, R46; 04 R132). -/
def Ctx.saveCause (x : Ctx) (cause : Cause) (info sf : Word) : Ctx :=
  let a := x.arch
  { x with
    arch := { a with
      ecause := cause.code.setWidth 64, einfo := info, slotfault := sf, epc := a.pc.word, epcq1 := a.q1.word,
      epcq2 := a.q2.word, savedDc := a.dc, savedFl := x.dueFlags, epcWritten := false, estatus := BitVec.ofNat 64 a.priv.toNat,
      inHandler := true, lvl := a.lvl + 1 },
    flights := x.flights.map fun f => { f with due := holdDue a.lvl x.stepNo f.due f.lvl },
    window := none, run := .ready, stalls := 0, inUnit := false, walks := [], loaded := [], fillBad := [],
    turnStart := false, syncWait := 0, syncIn := x.syncIn && x.actIn }

/-- The queue at a handler's first bundle, at supervisor privilege (10 R311 step 4; 04 R131). -/
def Arch.redirect (a : Arch) (dest : BitVec 52) : Arch :=
  { a with pc := ⟨dest, false⟩, q1 := ⟨dest + 1, false⟩, q2 := ⟨dest + 2, false⟩, dc := 0, priv := true }

/-- The turn of a core's context over: the next begins at the place after it (09 R294). -/
def State.endTurn (s : State) (c : Nat) : State :=
  s.modCore c fun k => { k with turn := (k.turn + 1) % 4, turnSteps := 0 }

/-- The turn of a context over where it holds one. -/
def State.endTurnOf (s : State) (c p : Nat) : State := if (s.core c).turn = p then s.endTurn c else s

/-- Contexts that leave a core, its turn over where one of them holds it (09 R294, R295). -/
def Core.passTurn (ps : List Nat) (k : Core) : Core :=
  if ps.contains k.turn then { k with turn := (k.turn + 1) % 4, turnSteps := 0 } else k

/-- The absence of a context that parks or is switched out told to its barrier groups, once (10 R331). -/
def State.tellAbsence (s : State) (c p : Nat) : State :=
  match s.ctx? c p with
  | none => s
  | some x =>
    if x.absent.isSome then s
    else (s.setCtx c p { x with absent := some (s.dev.tokensOf x.barChs) }).tokens 3 (s.dev.tokensOf x.barChs)

/-- The absence of a context withdrawn, where it was told, by tokens of the same groups and sequence numbers (10 R331). -/
def State.tellPresence (s : State) (c p : Nat) : State :=
  match s.ctx? c p with
  | none => s
  | some x => match x.absent with
    | some ts => (s.setCtx c p { x with absent := none }).tokens 4 ts
    | none => s

/-- The core-wide and context parts of step 4 of 10 R311 where the host does not handle the cause group. A context that
comes from a park resumes so (10 R331). -/
def State.enterHandler (s : State) (c p : Nat) (g : Nat) : State :=
  ((s.modCtx c p fun x =>
    { x with run := .ready, arch := x.arch.redirect (handlerAddr (s.core c).tvec g) }).takeMark c p).tellPresence c p

/-- A context parked for the host: a mark, the event, its absence tokens, and the end of its turn (10 R331, R337). -/
def State.parkForHost (s : State) (c p : Nat) (cause : Cause) (info : Word) : State :=
  let s := (s.takeMark c p).modCtx c p fun x => { x with run := .parked }
  ((s.post 7 c p (cause.code.setWidth 64) info 0).tellAbsence c p).endTurnOf c p

/-- A turn has used its quantum (09 R295). -/
def State.quantumUp (s : State) (c : Nat) (x : Ctx) : Bool :=
  !x.arch.inHandler && x.arch.quantum != 0 && decide (x.arch.quantum.toNat ≤ (s.core c).turnSteps)

/-- A context whose turn has used its quantum as another trap is taken: QUANTUM waits behind that trap (09 R295; 10 R313). -/
def Ctx.owesQuantum (x : Ctx) (up : Bool) (cause : Cause) : Ctx :=
  if up ∧ x.qtrap ∧ cause ≠ .quantum ∧ !x.pends.any (fun q => q.cause == .quantum) then x.pend .quantum x.arch.quantum else x

/-- TAKING A TRAP (10 R311): the cause state and the queue are saved, the results in flight held, a restart mark taken,
and the context enters the handler of the cause's group or is parked for the host. The rollback of step 1 comes before,
where the cause has one. A turn that has used its quantum as the trap is taken ends, or leaves QUANTUM pending (09 R295). -/
def State.trapEnter (s : State) (c p : Nat) (cause : Cause) (info sf : Word) : State :=
  let s := s.applyDue c p
  match s.ctx? c p with
  | none => s
  | some x =>
    let up := (s.core c).turn == p && s.quantumUp c x
    let s := (s.setCtx c p ((x.owesQuantum up cause).saveCause cause info sf)).modCore c fun k => k.unfreeze p
    let s := s.modPend c p fun f => { f with due := holdDue x.arch.lvl x.stepNo f.due f.lvl }
    let g := causeGroup cause.code
    let s := if bit s.funcMode (8 + g) then s.parkForHost c p cause info else s.enterHandler c p g
    if up && !x.qtrap then s.endTurnOf c p else s

/-- A context after the return from a handler: queue, DC and privilege restored, held results counted again (07 R245; 04
R132; 01 R46; 10 R334). -/
def Ctx.afterEret (x : Ctx) : Ctx :=
  let a := x.arch
  { x with
    arch := { a with
      pc := qentOf a.epc, q1 := qentOf a.epcq1, q2 := qentOf a.epcq2, dc := if a.epcWritten then 0 else a.savedDc,
      priv := bit a.estatus 0, inHandler := false, bpExempt := true, lvl := a.lvl - 1 },
    dueFlags := if a.inHandler then a.savedFl else 0,
    flights := x.flights.map fun f =>
      { f with due := resumeDue a.lvl x.stepNo f.due f.lvl, lvl := if f.lvl = a.lvl then a.lvl - 1 else f.lvl },
    stalls := 0, inUnit := false, walks := [], loaded := [], fillBad := [], run := .ready, turnStart := false }

/-- RETURNING FROM A TRAP (07 R245): the count of the turn restarts as a handler's eret commits (09 R295). -/
def State.trapReturn (s : State) (c p : Nat) : State :=
  match s.ctx? c p with
  | none => s
  | some x =>
    let s := s.modPend c p fun f =>
      { f with due := resumeDue x.arch.lvl x.stepNo f.due f.lvl, lvl := if f.lvl = x.arch.lvl then x.arch.lvl - 1 else f.lvl }
    let s := s.setCtx c p x.afterEret
    if x.arch.inHandler ∧ (s.core c).turn = p then s.modCore c fun k => { k with turnSteps := 0 } else s

/-- The pending trap taken first: the lowest rank, the earliest within it (10 R314). -/
def bestPend : List Pend → Option Pend
  | [] => none
  | q :: qs =>
    match bestPend qs with
    | none => some q
    | some r => if r.cause.rank < q.cause.rank then some r else some q

/-- The pending traps a context may take: in a handler only the machine checks (10 R312). -/
def Ctx.takable (x : Ctx) : List Pend := x.pends.filter fun q => !x.arch.inHandler || q.cause.isMachineCheck

/-- The pending trap that is taken next. -/
def Ctx.nextPend (x : Ctx) : Option Pend := bestPend x.takable

/-- The first occurrence of a pending trap removed. -/
def dropPend (q : Pend) : List Pend → List Pend
  | [] => []
  | r :: rs => if r = q then rs else r :: dropPend q rs

/-- The core busy for this cycle. -/
def State.spend (s : State) (c : Nat) : State := s.modCore c fun k => { k with busy := s.cycle + 1 }

/-- The next pending trap taken (10 R313, R314); TEN is cleared as TIMER is taken (10 R333). -/
def State.takePending (s : State) (c p : Nat) : State :=
  match s.ctx? c p with
  | none => s
  | some x =>
    match x.nextPend with
    | none => s
    | some q =>
      let s := s.setCtx c p
        { x with
          pends := dropPend q x.pends,
          ctl := if q.cause = .timer then x.ctl &&& ~~~0x10#64 else x.ctl }
      s.trapEnter c p q.cause q.info 0

/-- The successor queue moved by one step (01 R25), and the delay count (04 R131). -/
def Arch.move (a : Arch) (t : Option Xfer) : Arch :=
  let taken := match t with | some t => t.taken | none => false
  let nul := match t with | some t => t.nullify | none => false
  { a with
    pc := ⟨a.q1.addr, a.q1.n || nul⟩, q1 := ⟨a.q2.addr, a.q2.n || nul⟩,
    q2 := if taken then ⟨(match t with | some t => t.target | none => 0), false⟩ else ⟨a.q2.addr + 1, false⟩,
    dc := if t.isSome then 2 else a.dc - 1, step := a.step + 1, bpExempt := false }

/-- Whether the debug traps apply: stage privilege, not in a handler (10 R334). -/
def Ctx.debuggable (x : Ctx) : Bool := !x.arch.priv && !x.arch.inHandler

/-- One issue step of a context: the queue moves, the step counts, STEP may become pending (01 R25, R42; 10 R334; 09
R295). -/
def State.advance (s : State) (c p : Nat) (t : Option Xfer) : State :=
  match s.ctx? c p with
  | none => s
  | some x =>
    let x' : Ctx := { x with arch := x.arch.move t, stepNo := x.stepNo + 1, dueFlags := 0, stalls := 0, inUnit := false }
    let x'' := if bit x.ctl 0 && x.debuggable then x'.pend .step (BitVec.ofNat 64 (x.arch.pc.addr.toNat * 16)) else x'
    (s.setCtx c p { x'' with quantumSteps := x.quantumSteps + 1 }).modCore c fun k =>
      if x.arch.inHandler then k else { k with turnSteps := k.turnSteps + 1 }

/-- A stall step: a step in which the context issues nothing (01 R42). A freeze of its own that it comes from is over. -/
def State.stallOnce (s : State) (c p : Nat) : State :=
  match s.ctx? c p with
  | none => s
  | some x =>
    (s.setCtx c p
      { x with
        arch := { x.arch with step := x.arch.step + 1 }, stepNo := x.stepNo + 1, dueFlags := 0, stalls := x.stalls - 1,
        quantumSteps := x.quantumSteps + 1 }).modCore c
      fun k => if x.arch.inHandler then k.unfreeze p else { k.unfreeze p with turnSteps := k.turnSteps + 1 }

/-- Transient errors of a core in the window that ends now (10 R323). -/
def State.transients (s : State) (c : Nat) : List Nat :=
  (s.core c).transients.filter fun t => decide (t + 1200000 ≥ s.cycle)

/-- A transient error counted; at 9 or more the context traps RETRY_BUDGET (10 R323). -/
def State.countTransient (s : State) (c p : Nat) : State :=
  let ts := s.cycle :: s.transients c
  let s := s.modCore c fun k => { k with transients := ts }
  if ts.length ≥ 9 then s.pend c p .retryBudget (BitVec.ofNat 64 (c % 512 * 65536 + ts.length % 65536)) else s

/-- The retry window closes as transient once STEP exceeds the error's step (10 R321). -/
def State.closeWindow (s : State) (c p : Nat) : State :=
  match s.ctx? c p with
  | none => s
  | some x =>
    match x.window with
    | some w =>
      if x.arch.step.toNat > w then (s.setCtx c p { x with window := none }).countTransient c p else s
    | none => s

end Sys2Proof.Machine
end

