-- ==== Sys2Proof/Machine/Bundle.lean ====
section
/-! DEFINITION. A bundle from its slots to its commit (01 R48, R49; 03 R82, R90; 07 R209): the checks in their order, the
waits and blocks, the effects by phase. An operation given by itself is a bundle of one slot. -/

namespace Sys2Proof.Machine

/-- A plan without effects. -/
def SlotPlan.empty : SlotPlan :=
  { names := [], reads := [], early := none, stall := none, fault := none, wait := none, block := none, acts := [] }

/-- A plan that ends in a fault of check 9. -/
def SlotPlan.fail (p : SlotPlan) (c : Cause) (info : Word) : SlotPlan := { p with fault := some (c, info), acts := [] }

/-- A plan that waits, its core frozen. -/
def SlotPlan.waiting (p : SlotPlan) (w : Wait) : SlotPlan := { p with wait := some w, acts := [] }

/-- A plan that blocks. -/
def SlotPlan.blocking (p : SlotPlan) (b : Block) : SlotPlan := { p with block := some b, acts := [] }

/-- The stochastic state the last act of a slot leaves (01 R32). -/
def rngsAfter (r : Word) (acts : List Act) : Word :=
  acts.foldl (fun r a => match a with | .rngs v => v | _ => r) r

/-- A slot's operation put in its place in the open bundle. -/
def State.stage (s : State) (i : Instr) (p : SlotPlan) : State :=
  match s.bundle with
  | none => s
  | some b =>
    { s with bundle := some { b with
        staged := b.staged ++ [{ slot := b.slot, word := i.word, instr := some i, bad := none, plan := p }],
        rngs := rngsAfter b.rngs p.acts } }

/-- A bundle opened for the context at the focus. -/
def State.openBundle (s : State) (h : Option Header) (slot : Nat) (ext : Option (BitVec 7)) : State :=
  { s with bundle := some { header := h, slot := slot, ext := ext, staged := [], rngs := s.fctx.arch.rngs, pre := [] } }

/-- A bundle of one operation opened at the operation's first slot; a handoff takes its first mark (07 R209 step 1). -/
def State.openLone (s : State) (i : Instr) : State :=
  let s := if i.handoff then s.takeMark s.fc s.fp else s
  s.openBundle none (homeSlotOf i.word) none

/-- Whether an instruction adds an entry to the gated store buffer that may overflow it: str never does (04 R137, R140). -/
def Instr.gates : Instr → Bool
  | .st _ _ _ _ | .stg _ _ _ _ | .vst _ _ _ _ _ | .vscat _ _ _ _ _ => true
  | _ => false

/-- A slot holds such a store, whether or not it faults. -/
def Staged.gates (t : Staged) : Bool := (t.instr.map Instr.gates).getD false

/-- The first of checks 1 to 8 that a slot fails (03 R82). Of several operands of one slot outside the allotment or the ring set EINFO
names the first in the plan's list of names, the destination first: 01 R22 orders slots only (DESIGN CHOICE, log entry 87). -/
def Staged.early (x : Ctx) (t : Staged) : Option (Cause × Word) :=
  match t.bad with
  | some f => some f
  | none =>
    match t.plan.early with
    | some f => some f
    | none =>
      if decide (x.arch.dc > 0) && (t.instr.map Instr.delayBarred).getD false then
        some (.delaySlot, BitVec.ofNat 64 t.word)
      else
        match t.plan.names.find? x.outside with
        | some r => some (.regAllot, r.info)
        | none =>
          if bit x.arch.check 0 then
            match x.premature t.plan.reads with
            | some r => some (.stallUndersized, r.info)
            | none => t.plan.stall.map fun w => (Cause.stallUndersized, w)
          else none

/-- A wait of waitf or waitr, which ends before the other slots are judged (07 R218). -/
def Staged.ringWait (t : Staged) : Option Block :=
  match t.plan.fault, t.plan.block with
  | none, some (.ringFilled q) => some (.ringFilled q)
  | none, some (.ringRoom q) => some (.ringRoom q)
  | _, _ => none

/-- The fault of a fill that a slot's access waited on: its cause, and the first address that failed (08 R256). -/
def Staged.fillFault (x : Ctx) (t : Staged) : Option (Cause × Word) :=
  match t.plan.block with
  | some (.fill ts) => (x.fillBad.find? fun b => ts.contains b.1).map fun b => (b.2.1, BitVec.ofNat 64 b.2.2)
  | _ => none

/-- The fills of some tiles started (08 R256). -/
def Core.startFills (k : Core) (ts : List Nat) : Core :=
  ts.foldl (fun k t =>
    match Tab.find? k.tiles t with
    | some r => if r.filled then k else { k with tiles := Tab.set k.tiles t { r with filling := true } }
    | none => k) k

/-- The context at the focus blocks: its turn ends (09 R294). -/
def State.blockOn (s : State) (b : Block) : State :=
  let s := match b with
    | .fill ts => s.modCore s.fc fun k => k.startFills ts
    | _ => s
  let since := match s.fctx.run with
    | .blocked b' t => if b' = b then t else s.cycle
    | _ => s.cycle
  (s.modCtx s.fc s.fp fun x => { x with run := .blocked b since }).endTurn s.fc

/-- The address a freeze before commit waits at. -/
def FrzKind.va : FrzKind → Option Nat
  | .xlate a | .migrate a | .read a _ => some a
  | .reply _ => none

/-- Two freezes are on account of one access (10 R325). -/
def FrzKind.sameAs (a b : FrzKind) : Bool :=
  match a, b with
  | .reply i, .reply j => i == j
  | a, b => a.va.isSome && a.va == b.va

/-- A freeze of the core on account of the context at the focus; one that goes on for the same access keeps its first cycle and
the bound it began with (01 R33; 10 R325). -/
def State.freezeOn (s : State) (kind : FrzKind) : State :=
  s.modCore s.fc fun k =>
    let fresh : Freeze := { place := s.fp, since := s.cycle, bound := fld k.watchdog 31 0, kind := kind }
    match k.freeze with
    | some f =>
      if f.place = s.fp then
        { k with freeze := some (if f.kind.sameAs kind then { f with kind := kind } else fresh) }
      else k
    | none => { k with freeze := some fresh }

/-- A wait for a page that the host owns begins: the fault joins the fault queue, and the core freezes, or, where the host
decides migrations, the context is parked, to reissue its bundle once the page is here (08 R263; 11 R367). -/
def State.waitPage (s : State) (va : Nat) : State :=
  let s := s.requestPage (pageOf va)
  if s.hostDecides (pageOf va) then
    (((s.modCore s.fc fun k => k.unfreeze s.fp).modCtx s.fc s.fp fun x => { x with run := .migrating (pageOf va), turnStart := true }).tellAbsence
      s.fc s.fp).endTurn s.fc
  else s.freezeOn (.migrate va)

/-- A slot's wait begins (01 R49). -/
def State.waitOn (s : State) (w : Wait) : State :=
  match w with
  | .xlate va => s.freezeOn (.xlate va)
  | .migrate va => s.waitPage va
  | .read va => s.freezeOn (.read va false)

/-- A byte of a load that the context has stored before, to global memory or to the register window, whose words stand at its
global addresses (04 R137; 12 R394). -/
def gateGlobal : List GateEnt → Nat → Option Byte
  | [], _ => none
  | e :: es, pa =>
    match gateGlobal es pa with
    | some b => some b
    | none => match e with
      | .gl _ q bs _ _ => if q ≤ pa then bs[pa - q]? else none
      | .win o v _ => if Config.windowBase + o ≤ pa then (bytesLE 8 v.toNat)[pa - (Config.windowBase + o)]? else none
      | _ => none

/-- A result put in flight for the context at the focus (01 R43). -/
def State.addFlight (s : State) (lat : Nat) (v : FlightVal) : State :=
  s.modCtx s.fc s.fp fun x =>
    { x with
      flights := x.flights ++ [{ due := x.stepNo + lat, lvl := x.arch.lvl, ord := x.ord, val := v }],
      ord := x.ord + 1 }

/-- A matrix effect put in flight (06 R205). -/
def State.addMat (s : State) (lat : Nat) (op : MatOp) : State :=
  let x := s.fctx
  let f : MatFlight := { due := x.stepNo + lat, lvl := x.arch.lvl, ord := x.ord, op := op }
  (s.modCore s.fc fun k => { k with mat := { k.mat with pend := k.mat.pend ++ [f] } }).modCtx s.fc s.fp
    fun x => { x with ord := x.ord + 1 }

/-- A global load published, its result in flight (04 R138; 08 R266). -/
def State.addLoad (s : State) (kind : AccKind) (reg va pa len : Nat) (zext win : Bool) : State :=
  let x := s.fctx
  let fwd := (List.range len).map fun i => gateGlobal x.gate (pa + i)
  let a : Access := { id := x.nextId, ord := x.nextId, kind := kind, va := va, pa := pa, len := len, zext := zext,
                      bytes := [], fwd := fwd, got := none, win := win, acq := false, rel := false, atom := none }
  (s.modCtx s.fc s.fp fun x => { x with acc := x.acc ++ [a], nextId := x.nextId + 1 }).addFlight 24
    (.load reg a.id none)

/-- An atomic published, its result in flight (04 R141 to R145). It is performed at once, after every earlier access of its context
that may be performed, unless an earlier one holds it back: it is then performed later, and only its result waits (04 R143; 08
R269; log entry 61). -/
def State.doAtomic (s : State) (reg va pa len : Nat) (q : Atom) (acq rel : Bool) : State :=
  let id := s.fctx.nextId
  let a : Access := { id := id, ord := id, kind := .atomic, va := va, pa := pa, len := len, zext := false,
                      bytes := [], fwd := [], got := none, win := false, acq := acq, rel := rel, atom := some q }
  ((s.modCtx s.fc s.fp fun x => { x with acc := x.acc ++ [a], nextId := x.nextId + 1 }).performAll s.fc s.fp).addFlight 32
    (.load reg id none)

/-- Results, loads, atomics and matrix effects of a bundle (01 R43, R49). -/
def State.actStart (s : State) (a : Act) : State :=
  match a with
  | .result lat v => s.addFlight lat v
  | .link v => s.addFlight 1 (.scalar 63 v)
  | .load kind reg va pa len zext win => s.addLoad kind reg va pa len zext win
  | .atomic reg va pa len q acq rel => s.doAtomic reg va pa len q acq rel
  | .winRead o => (s.windowLoad o).2
  | .mat lat op => s.addMat lat op
  | .rngs v => s.modCtx s.fc s.fp fun x => { x with arch := { x.arch with rngs := v } }
  | .vjoin => s.modCtx s.fc s.fp fun x =>
    { x with
      gate := x.gate.map fun e => match e with | .sp bs _ => .sp bs true | e => e,
      views := [] }
  | .viewBad ea => if bit s.fctx.ctl 3 then s.pend s.fc s.fp .viewAlign (BitVec.ofNat 64 ea) else s
  | .tlbConflict va => s.pend s.fc s.fp .tlbConflict (BitVec.ofNat 64 va)
  | _ => s

/-- Entries of the gated store buffer made by a bundle, release stores last (04 R137, R140). -/
def State.actGate (rel : Bool) (s : State) (a : Act) : State :=
  match a with
  | .gate e =>
    let r := match e with | .gl _ _ _ r _ => r | .win _ _ r => r | _ => false
    if r = rel then s.modCtx s.fc s.fp fun x => { x with gate := x.gate ++ [e] } else s
  | _ => s

/-- Special-register writes (01 R32, R33). -/
def State.actCsr (s : State) (a : Act) : State :=
  match a with
  | .csr n v => s.csrPut n v
  | .tabdat w => s.tabdatPut w
  | _ => s

/-- A ring initialised (07 R220): its tiles become core-owned. -/
def State.actRinit (s : State) (q : Nat) (r : Ring) : State :=
  s.modCore s.fc fun k => (k.setOwner r.tiles false).setRing q r

/-- A region entered in the context's table, its tiles unfilled (07 R233; 08 R255, R256). -/
def State.actRegion (s : State) (r : Region) : State :=
  let x := s.fctx
  (s.modCtx s.fc s.fp fun x => { x with regions := x.regions ++ [r] }).modCore s.fc fun k =>
    { k with
      tiles := (List.range r.count).foldl (fun ts i =>
        match viewTile x.banks (r.first + i) with
        | some t =>
          let n : TileSt := { filled := false, filling := false, base := r.base + 0x2000 * i, priv := x.arch.priv, dirty := 0, held := [], flushed := 0 }
          Tab.set ts t n
        | none => ts) k.tiles }

/-- The byte of global memory that a byte of a region tile would be filled with; what it reads as where it cannot be is a free
value (08 R256). -/
def State.behind (s : State) (c : Nat) (r : TileSt) (o : Nat) : Byte :=
  match s.engineXlate (dieOf c) r.priv .read (r.base + o) with
  | .ok pa => byteAt s.dev.mem s.dev.memUndef pa
  | _ => Config.freeByte (freeKey s.free 18) (r.base + o)

/-- The dirty bytes of the stores that wait for the fill of some region tiles, over what they would be filled with (08 R256,
R257). -/
def State.heldCells (s : State) (c : Nat) (ts : List Nat) : List Host.Cell :=
  ts.flatMap fun t => match Tab.find? (s.core c).tiles t with
    | some r => ((r.held.drop r.flushed).map SpStore.off).eraseDups.map fun o =>
        (0x2000 * t + o, r.held.foldl (fun b h => if h.off = o then mergeByte b h.byte h.mask else b) (s.behind c r o))
    | none => []

/-- The place in directory order of the command of a number that enters its queue on a core in a cycle: by cycle, then by ascending
core number (11 R353). No command has place 0. -/
def dirOrder (cycle core id : Nat) : Nat := (cycle * 1024 + core) * 2 ^ 64 + id % 2 ^ 63 + 1

/-- A command entering its queue (07 R211), with its place in the Cellar's directory order (11 R353). -/
def State.actCmd (s : State) (c : Cmd) : State :=
  let x := s.fctx
  let k := s.fcore
  let c' : Cmd := { c with id := k.nextCmd, place := s.fp, gang := x.gang, coreIdx := x.coreIdx, field0 := x.field0,
                           ordinal := x.cmds % 65536, order := dirOrder s.cycle s.fc k.nextCmd, priv := x.arch.priv, accOrd := x.nextId,
                           data := if c.fn = 6 then k.spBytes c.aux 64 else [],
                           cells := if c.fn = 9 then k.dirtyCells c.range ++ s.heldCells s.fc c.range else [] }
  (s.modCore s.fc fun k =>
    { (if c.fn = 9 then k.cleanTiles c.range else k) with cmds := k.cmds ++ [c'], nextCmd := k.nextCmd + 1 }).modCtx s.fc s.fp
    fun x => { x with cmds := x.cmds + 1 }

/-- An arrival at a sync object, after every published access of its context (07 R238): it joins the object's updates of
this cycle (07 R237). -/
def State.actArrive (s : State) (off : Nat) (bytes : Option Word) (sa : Word) : State :=
  let s := s.performAll s.fc s.fp
  let x := s.fctx
  s.modCore s.fc fun k => k.syncAdd ⟨off, 1, (bytes.getD 0).toNat, .context x.gang x.coreIdx x.field0 x.nextId sa⟩

/-- Handoffs taking effect (07 R209 step 3). -/
def State.actHandoff (s : State) (a : Act) : State :=
  match a with
  | .shapes k ws => s.modCtx s.fc s.fp fun x => { x with arch := { x.arch with shapes := Tab.setFrom x.arch.shapes (32 * k) ws }, cmds := x.cmds + 1 }
  | .regionMap r => s.actRegion r
  | .cmd c => s.actCmd c
  | .ringSide q true => s.modCore s.fc fun k => k.ringPside q
  | .ringSide q false => s.modCore s.fc fun k => k.ringCside q
  | .radv q => s.modCore s.fc fun k => k.ringProduce q 1
  | .rels q => s.ringRelease s.fc q
  | .own ts v => s.modCore s.fc fun k => k.setOwner ts v
  | .rinit q r => s.actRinit q r
  | .arrive off bytes sa => s.actArrive off bytes sa
  | .joined none => s.modCtx s.fc s.fp fun x => { x with actIn := false, syncIn := false, syncWait := 0 }
  | .joined (some ch) => s.modCtx s.fc s.fp fun x => { x with barSent := x.barSent.filter fun b => b.1 != ch }
  | _ => s

/-- What follows the step of a bundle: trap, eret, idle, yield, end (07 R244 to R248). -/
def State.actAfter (s : State) (a : Act) : State :=
  match a with
  | .trap n => s.trapEnter s.fc s.fp .brk (BitVec.ofNat 64 n) (slotfaultWord 1 0)
  | .eret => s.trapReturn s.fc s.fp
  | .idle => (s.modCtx s.fc s.fp fun x => { x with run := .blocked .idle s.cycle }).endTurn s.fc
  | .yield => s.endTurn s.fc
  | .retire => (s.modCtx s.fc s.fp fun x => { x with run := .retired }).endTurn s.fc
  | _ => s

/-- The control transfer of a bundle. -/
def xferOf (acts : List Act) : Option Xfer :=
  acts.findSome? fun a => match a with
    | .xfer t => some t
    | _ => none

/-- The instructions staged. -/
def OpenBundle.instrs (b : OpenBundle) : List Instr := b.staged.filterMap Staged.instr

/-- A bundle that holds a handoff publishes its own stores at commit (07 R209; 04 R140). -/
def OpenBundle.publishes (b : OpenBundle) : Bool := b.instrs.any Instr.handoff

/-- A bundle whose handoff is more than str takes a mark after its commit (07 R209; 04 R140, R145). -/
def OpenBundle.remarks (b : OpenBundle) : Bool := b.instrs.any fun i => i.handoff && !i.isStr

/-- Whether an instruction is a beat (06 R196). -/
def Instr.isBeat : Instr → Bool
  | .macc _ _ _ => true
  | _ => false

/-- The occupied slots of a bundle, as its core runs them (13 R403). -/
def OpenBundle.subSlots (b : OpenBundle) : List SubSlot :=
  (b.staged.filter fun t => t.word != 0).map fun t =>
    { slot := t.slot, matrix := (t.instr.map Instr.isMatrix).getD false, beat := (t.instr.map Instr.isBeat).getD false,
      handoff := (t.instr.map Instr.handoff).getD false, acts := t.plan.acts }

/-- The slots a core runs in a cycle under a limit, and those left for later ones (01 R34; 06 R203; 13 R403). -/
def subTake (limit cycle : Nat) (l : List SubSlot) : List SubSlot × List SubSlot :=
  if limit = 4 then (if cycle % 2 = 1 then l.partition fun t => !t.matrix else (l, []))
  else l.splitAt (max 1 (4 - limit))

/-- The cycle noted as one of the core's matrix operations and beats, where slots that run in it hold any (06 R203; 13 R407). -/
def Core.noteCycle (k : Core) (cycle : Nat) (l : List SubSlot) : Core :=
  let add (b : Bool) (ts : List Nat) : List Nat := if b then cycle :: ts.filter (fun t => decide (t + 8 > cycle)) else ts
  { k with beats := add (l.any SubSlot.beat) k.beats, mats := add (l.any SubSlot.matrix) k.mats }

/-- What takes effect as slots with handoffs run: their bundle's stores published, then the handoffs (07 R209 step 3). -/
def State.handOver (s : State) (c p : Nat) (publishes : Bool) (acts : List Act) : State :=
  if publishes then acts.foldl State.actHandoff (s.publishGate c p) else s

/-- The end of a bundle whose slots have all run: the mark after its handoffs, and what follows its step (07 R209, R244 to
R248). -/
def State.endBundle (s : State) (c p : Nat) (remarks : Bool) (acts : List Act) : State :=
  acts.foldl State.actAfter (if remarks then s.takeMark c p else s)

/-- An atomic, performed as its bundle issues. -/
def Act.isAtomic : Act → Bool
  | .atomic _ _ _ _ _ _ _ => true
  | _ => false

/-- A bundle that runs on in later cycles (13 R403). -/
def OpenBundle.rest (b : OpenBundle) (p : Nat) (acts : List Act) (now later : List SubSlot) : Option Split :=
  if later.isEmpty then none
  else some { place := p, left := later, after := acts, publishes := b.publishes, remarks := b.remarks,
              handed := acts.any Act.isAtomic || now.any SubSlot.handoff }

/-- The slots of a split bundle that run in this cycle, and what they bring about (07 R209; 13 R403). -/
def State.runSub (s : State) (c : Nat) : State :=
  match (s.core c).split with
  | none => s
  | some q =>
    let (now, left) := subTake (fld (s.core c).slotmask 2 0) s.cycle q.left
    let s := { s with focus := (c, q.place) }.modCore c fun k =>
      { k.noteCycle s.cycle now with
        busy := s.cycle + 1,
        split := if left.isEmpty then none else some { q with left := left, handed := q.handed || now.any SubSlot.handoff } }
    let s := s.handOver c q.place (q.publishes && now.any SubSlot.handoff) (now.flatMap SubSlot.acts)
    if left.isEmpty then s.endBundle c q.place q.remarks q.after else s

/-- A split bundle of a context of which a handoff has taken effect run to its end, so that its second mark is taken: a
rollback then performs no handoff twice (07 R209; log entry 66). -/
def State.settleSplit (s : State) (c p : Nat) : State :=
  match (s.core c).split with
  | some q =>
    if q.place = p ∧ q.handed then
      let s := { s with focus := (c, p) }.modCore c fun k => { k with split := none }
      (s.handOver c p (q.publishes && q.left.any SubSlot.handoff) (q.left.flatMap SubSlot.acts)).endBundle c p q.remarks q.after
    else s
  | none => s

/-- A bundle commits (01 R49): results and accesses start, stores are gated, special registers are written, the step is
taken. The slots that its core runs in this cycle then hand over; with the last of them come the mark and what follows the
step, here or in a later cycle (07 R209; 13 R403); a retry window that this step ends closes before them (10 R321). A vjoin takes place before the stores of its own bundle are gated, so that
they count as made after it (log entry 63). -/
def State.commit (s : State) (b : OpenBundle) : State :=
  let c := s.fc
  let p := s.fp
  let acts := b.staged.flatMap fun t => t.plan.acts
  let subs := subTake (fld s.fcore.slotmask 2 0) s.cycle b.subSlots
  let s := (b.pre ++ acts).foldl State.actStart s
  let s := acts.foldl (State.actGate false) s
  let s := acts.foldl (State.actGate true) s
  let s := acts.foldl State.actCsr s
  let s := (s.modCtx c p fun x => { x with run := .ready, walks := [], loaded := [], fillBad := [] }).modCore c fun k =>
    { (k.unfreeze p).noteCycle s.cycle subs.1 with busy := s.cycle + 1, split := b.rest p acts subs.1 subs.2 }
  let s := { s.advance c p (xferOf acts) with free := s.free + 1 }
  let s := s.handOver c p (b.publishes && (subs.2.isEmpty || subs.1.any SubSlot.handoff))
    (if subs.2.isEmpty then acts else subs.1.flatMap SubSlot.acts)
  let s := s.closeWindow c p
  if subs.2.isEmpty then s.endBundle c p b.remarks acts else s

/-- The stores a bundle would leave in the gated store buffer up to a slot exceed it (04 R137; 05 R184). -/
def overflows (x : Ctx) (b : OpenBundle) (t : Staged) : Bool :=
  t.gates && decide (x.gate.length + (b.staged.filter fun u => u.gates && decide (u.slot ≤ t.slot)).length > Config.gateEntries)

/-- The fault of a slot: of checks 1 to 8, of its own checks, of the gated store buffer, of a fill that it waited on, in this
order (03 R82; 05 R184). -/
def OpenBundle.faultOf (b : OpenBundle) (x : Ctx) (t : Staged) : Option (Cause × Word) :=
  match t.early x with
  | some f => some f
  | none =>
    match t.plan.fault with
    | some f => some f
    | none => if overflows x b t then some (.gateOverflow, 0) else t.fillFault x

/-- The wait of a slot that no earlier check stops (01 R49). -/
def Staged.pendingWait (x : Ctx) (t : Staged) : Option Wait := if (t.early x).isNone then t.plan.wait else none

/-- The bundle judged and, if nothing stops it, committed (01 R49; 03 R82; 07 R218): the translations and reads that its slots
wait for come first, so that every slot is judged at once. A slot that fails a check traps at once, whatever another slot would
block for (a fill, a queue place, a drain), and what that would have met is not recorded: DESIGN CHOICE, log entry 86. -/
def State.closeBundle (s : State) : State :=
  match s.bundle, s.fctx? with
  | some b, some x =>
    let s := { s with bundle := none }
    let clean := b.staged.all fun t => (t.early x).isNone
    match (if clean then b.staged.findSome? Staged.ringWait else none) with
    | some w => (s.modCore s.fc fun k => k.unfreeze s.fp).blockOn w
    | none =>
      match b.staged.findSome? (Staged.pendingWait x) with
      | some w => s.waitOn w
      | none =>
        let faults := b.staged.filterMap fun t => (b.faultOf x t).map fun f => (t.slot, f)
        match faults with
        | (k, f) :: rest =>
          (s.spend s.fc).trapEnter s.fc s.fp f.1 f.2 (slotfaultWord (((k, f) :: rest).foldl (fun n q => n + 2 ^ q.1) 0) k)
        | [] =>
          match b.staged.findSome? fun t => t.plan.block with
          | some w => (s.modCore s.fc fun k => k.unfreeze s.fp).blockOn w
          | none => s.commit b
  | _, _ => { s with bundle := none }

/-- The meaning of a slot operation from its plan: put into the open bundle, or a bundle of its own. -/
def runSlot (i : Instr) (plan : State → SlotPlan) (s : State) : Host.Outcome State Fault Refusal :=
  match s.fctx? with
  | none => .fault .noContext
  | some _ =>
    match s.bundle with
    | some _ => .next (s.stage i (plan s))
    | none =>
      let s1 := s.openLone i
      .next (s1.stage i (plan s1)).closeBundle

end Sys2Proof.Machine
end

