-- ==== Sys2Proof/Machine/Scalar.lean ====
section
/-! DEFINITION. The scalar integer, immediate, address and identifier operations (04 R109 to R120). -/

namespace Sys2Proof.Machine

/-- The 32-bit result of a W form, sign-extended (04 R110). -/
def sext32 (r : BitVec 32) : Word := r.signExtend 64

/-- A function with its W form (04 R110). -/
def wForm (w : Bool) (f32 : BitVec 32 → BitVec 32 → BitVec 32) (f64 : Word → Word → Word) (x y : Word) : Word :=
  if w then sext32 (f32 (x.setWidth 32) (y.setWidth 32)) else f64 x y

/-- 1 or 0 as a word. -/
def boolWord (b : Bool) : Word := if b then 1 else 0

/-- Natural quotient: every bit set for a zero divisor (04 R113). -/
def quotN {n : Nat} (x y : BitVec n) : BitVec n := if y = 0 then BitVec.allOnes n else x / y

/-- Natural remainder: the dividend for a zero divisor (04 R113). -/
def remN {n : Nat} (x y : BitVec n) : BitVec n := if y = 0 then x else x % y

/-- Signed quotient truncated toward zero: every bit set for a zero divisor; the most negative value by minus one stays
(04 R113). -/
def quotS {n : Nat} (x y : BitVec n) : BitVec n := if y = 0 then BitVec.allOnes n else BitVec.ofInt n (Int.tdiv x.toInt y.toInt)

/-- Signed remainder, with the sign of the dividend (04 R112, R113). -/
def remS {n : Nat} (x y : BitVec n) : BitVec n := if y = 0 then x else BitVec.ofInt n (Int.tmod x.toInt y.toInt)

/-- Bits 127:64 of the signed product (04 R112). -/
def mulHighS (x y : Word) : Word := BitVec.ofInt 64 (x.toInt * y.toInt / 2 ^ 64)

/-- Bits 127:64 of the natural product (04 R112). -/
def mulHighN (x y : Word) : Word := BitVec.ofNat 64 (x.toNat * y.toNat / 2 ^ 64)

/-- The amount of a 64-bit shift, bits 5:0, and of a 32-bit one, bits 4:0 (04 R110, R112). -/
def amt64 (y : Word) : Nat := y.toNat % 64
def amt32 (y : BitVec 32) : Nat := y.toNat % 32

/-- The bytes of a word reversed (04 R112). -/
def byteSwap (x : Word) : Word :=
  BitVec.ofNat 64 ((List.range 8).foldl (fun n i => n + x.toNat / 2 ^ (8 * i) % 256 * 2 ^ (8 * (7 - i))) 0)

/-- The bits p + l - 1 : p of a word, zero-extended and sign-extended (04 R119). -/
def extractN (x : Word) (p l : Nat) : Word := BitVec.ofNat 64 (x.toNat / 2 ^ p % 2 ^ l)
def extractS (x : Word) (p l : Nat) : Word := BitVec.ofInt 64 (sint l (x.toNat / 2 ^ p % 2 ^ l))

/-- Field k of a work identifier under a width word; 0 for a width of 0 (01 R41). -/
def widField (wid widw : Word) (k : Nat) : Word :=
  let width (i : Nat) : Nat := fld widw (6 * i + 5) (6 * i)
  let pos := (List.range k).foldl (fun n i => n + width i) 0
  BitVec.ofNat 64 (wid.toNat / 2 ^ pos % 2 ^ width k)

/-- A scalar result of a slot (04 R109). -/
def scalarPlan (names reads : List RegRef) (lat : Nat) (d : SReg) (v : Word) : SlotPlan :=
  { SlotPlan.empty with names := names, reads := reads, acts := [.result lat (.scalar d.toNat v)] }

/-- A slot that computes from two scalars. -/
def alu2 (lat : Nat) (d a b : SReg) (f : Word → Word → Word) (s : State) : SlotPlan :=
  scalarPlan [rS d, rS a, rS b] [rS a, rS b] lat d (f (s.sreg a) (s.sreg b))

/-- A slot that computes from one scalar. -/
def alu1 (lat : Nat) (d a : SReg) (f : Word → Word) (s : State) : SlotPlan :=
  scalarPlan [rS d, rS a] [rS a] lat d (f (s.sreg a))

/-- A slot that computes from one scalar and an effective signed immediate (04 R111, R115). -/
def aluImm (d a : SReg) (i : BitVec 14) (f : Word → Word → Word) (s : State) : SlotPlan :=
  alu1 1 d a (fun x => f x (immS s.ext 14 i)) s

/-- NOP: nothing (03 R82). -/
def execNop (s : State) : Host.Outcome State Fault Refusal := runSlot .nop (fun _ => SlotPlan.empty) s

/-- x + y (04 R112). -/
def execAdd (d a b : SReg) (w : Bool) (s : State) : Host.Outcome State Fault Refusal :=
  runSlot (.add d a b w) (alu2 1 d a b (wForm w (· + ·) (· + ·))) s

/-- x - y (04 R112). -/
def execSub (d a b : SReg) (w : Bool) (s : State) : Host.Outcome State Fault Refusal :=
  runSlot (.sub d a b w) (alu2 1 d a b (wForm w (· - ·) (· - ·))) s

/-- x AND y (04 R112). -/
def execAnd (d a b : SReg) (s : State) : Host.Outcome State Fault Refusal :=
  runSlot (.and d a b) (alu2 1 d a b (fun x y => x &&& y)) s

/-- x OR y (04 R112). -/
def execOr (d a b : SReg) (s : State) : Host.Outcome State Fault Refusal :=
  runSlot (.or d a b) (alu2 1 d a b (fun x y => x ||| y)) s

/-- x XOR y (04 R112). -/
def execXor (d a b : SReg) (s : State) : Host.Outcome State Fault Refusal :=
  runSlot (.xor d a b) (alu2 1 d a b (fun x y => x ^^^ y)) s

/-- x AND NOT y (04 R112). -/
def execAndn (d a b : SReg) (s : State) : Host.Outcome State Fault Refusal :=
  runSlot (.andn d a b) (alu2 1 d a b (fun x y => x &&& ~~~y)) s

/-- x OR NOT y (04 R112). -/
def execOrn (d a b : SReg) (s : State) : Host.Outcome State Fault Refusal :=
  runSlot (.orn d a b) (alu2 1 d a b (fun x y => x ||| ~~~y)) s

/-- Shift left (04 R112). -/
def execShl (d a b : SReg) (w : Bool) (s : State) : Host.Outcome State Fault Refusal :=
  runSlot (.shl d a b w) (alu2 1 d a b (wForm w (fun x y => x <<< amt32 y) (fun x y => x <<< amt64 y))) s

/-- Shift right, zeros entering (04 R112). -/
def execShr (d a b : SReg) (w : Bool) (s : State) : Host.Outcome State Fault Refusal :=
  runSlot (.shr d a b w) (alu2 1 d a b (wForm w (fun x y => x >>> amt32 y) (fun x y => x >>> amt64 y))) s

/-- Shift right, copies of the sign entering (04 R112). -/
def execSra (d a b : SReg) (w : Bool) (s : State) : Host.Outcome State Fault Refusal :=
  runSlot (.sra d a b w) (alu2 1 d a b (wForm w (fun x y => x.sshiftRight (amt32 y)) (fun x y => x.sshiftRight (amt64 y)))) s

/-- Rotate right (04 R112). -/
def execRot (d a b : SReg) (s : State) : Host.Outcome State Fault Refusal :=
  runSlot (.rot d a b) (alu2 1 d a b (fun x y => x.rotateRight (amt64 y))) s

/-- 1 if x < y signed (04 R112). -/
def execSlt (d a b : SReg) (s : State) : Host.Outcome State Fault Refusal :=
  runSlot (.slt d a b) (alu2 1 d a b (fun x y => boolWord (x.slt y))) s

/-- 1 if x < y natural (04 R112). -/
def execSltn (d a b : SReg) (s : State) : Host.Outcome State Fault Refusal :=
  runSlot (.sltn d a b) (alu2 1 d a b (fun x y => boolWord (x.ult y))) s

/-- 1 if x = y (04 R112). -/
def execSeq (d a b : SReg) (s : State) : Host.Outcome State Fault Refusal :=
  runSlot (.seq d a b) (alu2 1 d a b (fun x y => boolWord (x == y))) s

/-- The lesser, signed (04 R112). -/
def execMin (d a b : SReg) (s : State) : Host.Outcome State Fault Refusal :=
  runSlot (.min d a b) (alu2 1 d a b (fun x y => if y.slt x then y else x)) s

/-- The greater, signed (04 R112). -/
def execMax (d a b : SReg) (s : State) : Host.Outcome State Fault Refusal :=
  runSlot (.max d a b) (alu2 1 d a b (fun x y => if x.slt y then y else x)) s

/-- The lesser, natural (04 R112). -/
def execMinn (d a b : SReg) (s : State) : Host.Outcome State Fault Refusal :=
  runSlot (.minn d a b) (alu2 1 d a b (fun x y => if y.ult x then y else x)) s

/-- The greater, natural (04 R112). -/
def execMaxn (d a b : SReg) (s : State) : Host.Outcome State Fault Refusal :=
  runSlot (.maxn d a b) (alu2 1 d a b (fun x y => if x.ult y then y else x)) s

/-- Low half of the product (04 R112). -/
def execMul (d a b : SReg) (w : Bool) (s : State) : Host.Outcome State Fault Refusal :=
  runSlot (.mul d a b w) (alu2 3 d a b (wForm w (· * ·) (· * ·))) s

/-- High half of the signed product (04 R112). -/
def execMulh (d a b : SReg) (s : State) : Host.Outcome State Fault Refusal :=
  runSlot (.mulh d a b) (alu2 3 d a b (mulHighS)) s

/-- High half of the natural product (04 R112). -/
def execMulhn (d a b : SReg) (s : State) : Host.Outcome State Fault Refusal :=
  runSlot (.mulhn d a b) (alu2 3 d a b (mulHighN)) s

/-- Signed quotient (04 R112, R113). -/
def execDiv (d a b : SReg) (w : Bool) (s : State) : Host.Outcome State Fault Refusal :=
  runSlot (.div d a b w) (alu2 20 d a b (wForm w quotS quotS)) s

/-- Natural quotient (04 R112, R113). -/
def execDivn (d a b : SReg) (w : Bool) (s : State) : Host.Outcome State Fault Refusal :=
  runSlot (.divn d a b w) (alu2 20 d a b (wForm w quotN quotN)) s

/-- Signed remainder (04 R112, R113). -/
def execRem (d a b : SReg) (w : Bool) (s : State) : Host.Outcome State Fault Refusal :=
  runSlot (.rem d a b w) (alu2 20 d a b (wForm w remS remS)) s

/-- Natural remainder (04 R112, R113). -/
def execRemn (d a b : SReg) (w : Bool) (s : State) : Host.Outcome State Fault Refusal :=
  runSlot (.remn d a b w) (alu2 20 d a b (wForm w remN remN)) s

/-- Leading zero bits (04 R112). -/
def execClz (d a : SReg) (s : State) : Host.Outcome State Fault Refusal := runSlot (.clz d a) (alu1 1 d a (fun x => BitVec.ofNat 64 (clzN 64 x.toNat))) s

/-- Trailing zero bits (04 R112). -/
def execCtz (d a : SReg) (s : State) : Host.Outcome State Fault Refusal := runSlot (.ctz d a) (alu1 1 d a (fun x => BitVec.ofNat 64 (ctzN 64 x.toNat))) s

/-- One bits (04 R112). -/
def execPopc (d a : SReg) (s : State) : Host.Outcome State Fault Refusal := runSlot (.popc d a) (alu1 1 d a (fun x => BitVec.ofNat 64 (popcN 64 x.toNat))) s

/-- The eight bytes reversed (04 R112). -/
def execBswap (d a : SReg) (s : State) : Host.Outcome State Fault Refusal := runSlot (.bswap d a) (alu1 1 d a (byteSwap)) s

/-- sel: y if x is not 0, else the old d, which is a source (04 R112, R114). -/
def selPlan (d a b : SReg) (s : State) : SlotPlan :=
  scalarPlan [rS d, rS a, rS b] [rS a, rS b, rS d] 1 d (if s.sreg a = 0 then s.sreg d else s.sreg b)

/-- SEL (04 R114). -/
def execSel (d a b : SReg) (s : State) : Host.Outcome State Fault Refusal := runSlot (.sel d a b) (selPlan d a b) s

/-- a + imm (04 R115). -/
def execAddi (d a : SReg) (i : BitVec 14) (s : State) : Host.Outcome State Fault Refusal := runSlot (.addi d a i) (aluImm d a i ((· + ·))) s

/-- a AND imm (04 R115). -/
def execAndi (d a : SReg) (i : BitVec 14) (s : State) : Host.Outcome State Fault Refusal := runSlot (.andi d a i) (aluImm d a i (fun x y => x &&& y)) s

/-- a OR imm (04 R115). -/
def execOri (d a : SReg) (i : BitVec 14) (s : State) : Host.Outcome State Fault Refusal := runSlot (.ori d a i) (aluImm d a i (fun x y => x ||| y)) s

/-- a XOR imm (04 R115). -/
def execXori (d a : SReg) (i : BitVec 14) (s : State) : Host.Outcome State Fault Refusal := runSlot (.xori d a i) (aluImm d a i (fun x y => x ^^^ y)) s

/-- 1 if a < imm signed (04 R115). -/
def execSlti (d a : SReg) (i : BitVec 14) (s : State) : Host.Outcome State Fault Refusal := runSlot (.slti d a i) (aluImm d a i (fun x y => boolWord (x.slt y))) s

/-- 1 if a < imm natural (04 R115). -/
def execSltni (d a : SReg) (i : BitVec 14) (s : State) : Host.Outcome State Fault Refusal := runSlot (.sltni d a i) (aluImm d a i (fun x y => boolWord (x.ult y))) s

/-- Shift left by the field (04 R116). -/
def execShli (d a : SReg) (w : Bool) (n : BitVec 6) (s : State) : Host.Outcome State Fault Refusal :=
  runSlot (.shli d a w n) (alu1 1 d a (fun x => wForm w (fun x _ => x <<< n.toNat) (fun x _ => x <<< n.toNat) x 0)) s

/-- Shift right by the field, zeros entering (04 R116). -/
def execShri (d a : SReg) (w : Bool) (n : BitVec 6) (s : State) : Host.Outcome State Fault Refusal :=
  runSlot (.shri d a w n) (alu1 1 d a (fun x => wForm w (fun x _ => x >>> n.toNat) (fun x _ => x >>> n.toNat) x 0)) s

/-- Shift right by the field, copies of the sign entering (04 R116). -/
def execSrai (d a : SReg) (w : Bool) (n : BitVec 6) (s : State) : Host.Outcome State Fault Refusal :=
  runSlot (.srai d a w n) (alu1 1 d a (fun x => wForm w (fun x _ => x.sshiftRight n.toNat) (fun x _ => x.sshiftRight n.toNat) x 0)) s

/-- Rotate right by the field (04 R116). -/
def execRoti (d a : SReg) (w : Bool) (n : BitVec 6) (s : State) : Host.Outcome State Fault Refusal :=
  runSlot (.roti d a w n) (alu1 1 d a (fun x => wForm w (fun x _ => x.rotateRight n.toNat) (fun x _ => x.rotateRight n.toNat) x 0)) s

/-- li (04 R117). -/
def liPlan (d : SReg) (i : BitVec 20) (s : State) : SlotPlan := scalarPlan [rS d] [] 1 d (immS s.ext 20 i)

/-- LI: the sign-extended immediate (04 R117). -/
def execLi (d : SReg) (i : BitVec 20) (s : State) : Host.Outcome State Fault Refusal := runSlot (.li d i) (liPlan d i) s

/-- lih, which reads d (04 R117). -/
def lihPlan (d : SReg) (i : BitVec 20) (s : State) : SlotPlan :=
  scalarPlan [rS d] [rS d] 1 d ((s.sreg d <<< 20) ||| i.setWidth 64)

/-- LIH: the old d moved up by 20 bits with the immediate below (04 R117). -/
def execLih (d : SReg) (i : BitVec 20) (s : State) : Host.Outcome State Fault Refusal := runSlot (.lih d i) (lihPlan d i) s

/-- lea (04 R118). -/
def leaPlan (d a b : SReg) (sc : BitVec 2) (i : BitVec 6) (s : State) : SlotPlan :=
  alu2 1 d a b (fun x y => x + (y <<< sc.toNat) + immS s.ext 6 i) s

/-- LEA: a + (b << SC) + imm (04 R118). -/
def execLea (d a b : SReg) (sc : BitVec 2) (i : BitVec 6) (s : State) : Host.Outcome State Fault Refusal :=
  runSlot (.lea d a b sc i) (leaPlan d a b sc i) s

/-- EXTF: a field of a, sign-extended (04 R119). -/
def execExtf (d a : SReg) (p l : BitVec 6) (s : State) : Host.Outcome State Fault Refusal :=
  runSlot (.extf d a p l) (alu1 1 d a (fun x => extractS x p.toNat (l.toNat + 1))) s

/-- EXTFN: a field of a, zero-extended (04 R119). -/
def execExtfn (d a : SReg) (p l : BitVec 6) (s : State) : Host.Outcome State Fault Refusal :=
  runSlot (.extfn d a p l) (alu1 1 d a (fun x => extractN x p.toNat (l.toNat + 1))) s

/-- insf, which reads d (04 R119). -/
def insfPlan (d a : SReg) (p l : BitVec 6) (s : State) : SlotPlan :=
  scalarPlan [rS d, rS a] [rS a, rS d] 1 d (setFld (s.sreg d) (p.toNat + l.toNat) p.toNat (s.sreg a).toNat)

/-- INSF: the old d with a field replaced by the low bits of a (04 R119). -/
def execInsf (d a : SReg) (p l : BitVec 6) (s : State) : Host.Outcome State Fault Refusal := runSlot (.insf d a p l) (insfPlan d a p l) s

/-- widf (04 R120). -/
def widfPlan (d : SReg) (f : BitVec 3) (s : State) : SlotPlan :=
  scalarPlan [rS d] [] 1 d (widField s.fctx.arch.wid s.fctx.arch.widw f.toNat)

/-- WIDF: a field of WID (04 R120; 01 R41). -/
def execWidf (d : SReg) (f : BitVec 3) (s : State) : Host.Outcome State Fault Refusal := runSlot (.widf d f) (widfPlan d f) s

end Sys2Proof.Machine
end

