-- ==== Sys2Proof/Machine/Control.lean ====
section
/-! DEFINITION. Special-register access and control transfer (04 R121 to R134), gang and cross-device synchronisation,
drain and the system functions (07 R240 to R248). -/

namespace Sys2Proof.Machine

/-- A csr operation: the old value to d, and the new value, if one is written (04 R121, R122). -/
def csrPlan (d a : SReg) (n : BitVec 12) (writes : Bool) (f : Word → Word → Word) (s : State) : SlotPlan :=
  let k := n.toNat
  let p : SlotPlan := { SlotPlan.empty with names := [rS d, rS a], reads := [rS a] }
  if !csrKnown k then p.fail .csrUndefined (n.setWidth 64)
  else if csrBarred k s.fctx.arch.priv writes then p.fail .privilege (n.setWidth 64)
  else
    let old := s.csrRead k
    let new := f old (s.sreg a)
    { p with
      acts := .result 2 (.scalar d.toNat old) ::
        (if k = 0x812 then [.tabdat (if writes then some new else none)]
         else if writes then [.csr k new] else []) }

/-- CSRR: a special register read (04 R121). -/
def execCsrr (d : SReg) (n : BitVec 12) (s : State) : Host.Outcome State Fault Refusal :=
  runSlot (.csrr d n) (csrPlan d 0 n false (fun o _ => o)) s

/-- CSRW: a special register written (04 R121). -/
def execCsrw (d a : SReg) (n : BitVec 12) (s : State) : Host.Outcome State Fault Refusal :=
  runSlot (.csrw d a n) (csrPlan d a n true (fun _ v => v)) s

/-- CSRS: bits set; with s0 it only reads (04 R121). -/
def execCsrs (d a : SReg) (n : BitVec 12) (s : State) : Host.Outcome State Fault Refusal :=
  runSlot (.csrs d a n) (csrPlan d a n (a != 0) (fun o v => o ||| v)) s

/-- CSRC: bits cleared; with s0 it only reads (04 R121). -/
def execCsrc (d a : SReg) (n : BitVec 12) (s : State) : Host.Outcome State Fault Refusal :=
  runSlot (.csrc d a n) (csrPlan d a n (a != 0) (fun o v => o &&& ~~~v)) s

/-- The condition of a branch (04 R124). -/
def condHolds (c : Cond) (x y : Word) : Bool :=
  match c with
  | .eq => x == y
  | .ne => x != y
  | .lt => x.slt y
  | .ge => !x.slt y
  | .ltn => x.ult y
  | .gen => !x.ult y
  | .bs => (x &&& y) != 0
  | .bc => (x &&& y) == 0

/-- The address of the bundle at PC. -/
def State.bundleAddr (s : State) : Nat := s.fctx.arch.pc.addr.toNat * 16

/-- The address of a PC-relative target before its range is checked (04 R125, R126). -/
def relTarget (b : Nat) (disp : Int) : Int := (b : Int) + 16 * disp

/-- A PC-relative target lies within 0 to 2^56 - 1 (04 R127). -/
def inRange56 (t : Int) : Bool := decide (0 ≤ t) && decide (t < 2 ^ 56)

/-- A PC-relative transfer (04 R125 to R127). -/
def relPlan (p : SlotPlan) (taken nul : Bool) (disp : Int) (s : State) : SlotPlan :=
  let t := relTarget s.bundleAddr disp
  if taken && !inRange56 t then p.fail .globalRange (BitVec.ofInt 64 t)
  else { p with acts := p.acts ++ [.xfer { taken := taken, target := BitVec.ofNat 52 (t / 16).toNat, nullify := nul }] }

/-- A conditional branch; nulls says when it nullifies its delay slots (04 R125). -/
def branchPlan (c : Cond) (a b : SReg) (i : BitVec 11) (nulls : Bool → Bool) (s : State) : SlotPlan :=
  let t := condHolds c (s.sreg a) (s.sreg b)
  relPlan { SlotPlan.empty with names := [rS a, rS b], reads := [rS a, rS b] } t (nulls t) i.toInt s

/-- BR: both delay slots execute (04 R125). -/
def execBr (c : Cond) (a b : SReg) (i : BitVec 11) (s : State) : Host.Outcome State Fault Refusal :=
  runSlot (.br c a b i) (branchPlan c a b i (fun _ => false)) s

/-- BRL: both delay slots nullified when not taken (04 R125). -/
def execBrl (c : Cond) (a b : SReg) (i : BitVec 11) (s : State) : Host.Outcome State Fault Refusal :=
  runSlot (.brl c a b i) (branchPlan c a b i (fun t => !t)) s

/-- BRU: both delay slots nullified when taken (04 R125). -/
def execBru (c : Cond) (a b : SReg) (i : BitVec 11) (s : State) : Host.Outcome State Fault Refusal :=
  runSlot (.bru c a b i) (branchPlan c a b i (fun t => t)) s

/-- J (04 R126). -/
def execJ (i : BitVec 26) (s : State) : Host.Outcome State Fault Refusal :=
  runSlot (.j i) (relPlan SlotPlan.empty true false i.toInt) s

/-- The address sequentially after a transfer's second delay slot (04 R126). -/
def State.linkWord (s : State) : Word := BitVec.ofNat 64 (s.bundleAddr + 48)

/-- JL: lr receives B + 48 (04 R126). -/
def execJl (i : BitVec 26) (s : State) : Host.Outcome State Fault Refusal :=
  runSlot (.jl i) (fun s => relPlan { SlotPlan.empty with acts := [.link s.linkWord] } true false i.toInt s) s

/-- The 16 bytes of a bundle as the context's fetch sees them (04 R134). -/
def Ctx.fetchBytes (x : Ctx) (pa : Nat) : List Byte :=
  match x.code with
  | some q => (List.range 16).map fun i => byteAt q.mem q.undef (pa + i)
  | none => List.replicate 16 memDefault

/-- S0 of the bundle at a physical address is land with a pad (04 R128). -/
def Ctx.landsAt (x : Ctx) (pa : Nat) (pad : BitVec 12) : Bool :=
  leWord ((x.fetchBytes pa).take 4) == (Instr.land pad).word

/-- TLB_CONFLICT becomes pending where entries of two page sizes map the address (10 R324). -/
def State.conflictActs (s : State) (ea : Word) : List Act :=
  if !isWindow ea.toNat && tlbConflicts (s.fcore.utlb ++ (s.die (dieOf s.fc)).tlb) ea.toNat then [.tlbConflict ea.toNat]
  else []

/-- The checks of a target and its pad, and the transfer (04 R128). A target in the register window is translated by the page table as
any other, as is a fetch there: 12 R394 takes data accesses out of it and names no fetch (DESIGN CHOICE, log entry 93). -/
def targetPlan (p : SlotPlan) (t : Word) (pad : Option (BitVec 12)) (s : State) : SlotPlan :=
  if fld t 63 56 ≠ 0 then p.fail .globalRange t
  else if fld t 3 0 ≠ 0 then p.fail .align t
  else
    match s.translate s.fc s.fctx .fetch t.toNat with
    | .fault c => p.fail c t
    | .miss => p.waiting (.xlate t.toNat)
    | .migrate g => p.waiting (.migrate g)
    | .ok pa =>
      if (match pad with | some q => !s.fctx.landsAt pa q | none => false) then p.fail .landing t
      else
        { p with
          acts := p.acts ++ s.conflictActs t ++
            [.xfer { taken := true, target := BitVec.ofNat 52 (t.toNat / 16), nullify := false }] }

/-- JR: a jump to the address in a, to a bundle with the pad (04 R128). -/
def execJr (a : SReg) (p : BitVec 12) (s : State) : Host.Outcome State Fault Refusal :=
  runSlot (.jr a p)
    (fun s => targetPlan { SlotPlan.empty with names := [rS a], reads := [rS a] } (s.sreg a) (some p) s) s

/-- JLR: as JR, and lr receives B + 48 (04 R128). -/
def execJlr (a : SReg) (p : BitVec 12) (s : State) : Host.Outcome State Fault Refusal :=
  runSlot (.jlr a p)
    (fun s => targetPlan { SlotPlan.empty with names := [rS a], reads := [rS a], acts := [.link s.linkWord] } (s.sreg a)
      (some p) s) s

/-- RET: a jump to the address in lr (04 R128). -/
def execRet (s : State) : Host.Outcome State Fault Refusal :=
  runSlot .ret (fun s => targetPlan { SlotPlan.empty with reads := [rS 63] } (s.sreg 63) none s) s

/-- The youngest of the context's own stores to a byte of global memory, published and not performed. -/
def accByte : List Access → Nat → Option Byte
  | [], _ => none
  | a :: as, pa =>
    match accByte as pa with
    | some b => some b
    | none => if !a.win && decide (a.pa ≤ pa) then a.bytes[pa - a.pa]? else none

/-- A byte of global memory as the context sees it: its own stores first (04 R129, R137). -/
def State.ownByte (s : State) (x : Ctx) (pa : Nat) : Byte :=
  match gateGlobal x.gate pa with
  | some b => b
  | none => (accByte x.acc pa).getD (byteAt s.dev.mem s.dev.memUndef pa)

/-- The page of an address holds code: instruction fetch may use it (04 R134; 11 R365). -/
def State.holdsCode (s : State) (va : Nat) : Bool :=
  match s.dev.walk va with
  | some e => e.x
  | none => false

/-- A byte that a jump table holds in a page of code: as instruction fetch sees it, the context's own gated stores apart (04
R129, R134; log entry 67). -/
def Ctx.codeByte (x : Ctx) (pa : Nat) : Byte :=
  match gateGlobal x.gate pa with
  | some b => b
  | none => match x.code with
    | some q => byteAt q.mem q.undef pa
    | none => memDefault

/-- The context's own gated store of a whole word of the register window (04 R137). -/
def Ctx.gatedWord (x : Ctx) (pa : Nat) : Option Word :=
  ((List.range 8).mapM fun i => gateGlobal x.gate (pa + i)).map fun bs => BitVec.ofNat 64 (numLE bs)

/-- A word of a jump table, read as ldg reads (04 R129, R134, R137). -/
def State.tableWord (s : State) (va pa : Nat) : Word :=
  if isWindow va then (s.fctx.gatedWord pa).getD (s.windowRead (va % 0x1000000))
  else
    BitVec.ofNat 64 (numLE ((List.range 8).map fun i =>
      if s.holdsCode va then s.fctx.codeByte (pa + i) else s.ownByte s.fctx (pa + i)))

/-- What the read of a table in the register window does to the register, as its bundle commits (04 R129; log entry 67). -/
def State.tableActs (s : State) (va pa : Nat) : List Act :=
  if isWindow va && (s.fctx.gatedWord pa).isNone then [.winRead (va % 0x1000000)] else []

/-- The read of a jump table's entry as an access of its context (04 R129). -/
def tableAcc (ord va pa : Nat) (win : Bool) : Access :=
  { id := ord, ord := ord, kind := .ldg, va := va, pa := pa, len := 8, zext := false, bytes := [], fwd := [], got := none,
    win := win, acq := false, rel := false, atom := none }

/-- A table read waits for an earlier access: an acquire, an atomic on its bytes, or one of the register window where the table
lies there (04 R129, R139, R143; 08 R269). Stores to other memory it sees as they are published. -/
def Ctx.tableWaits (x : Ctx) (va pa : Nat) (win : Bool) : Bool :=
  x.acc.any fun b => b.pending && b.holds (tableAcc x.nextId va pa win) && (b.win || (b.kind != .stg && b.kind != .str))

/-- An earlier access that a table read may have to wait for is not performed. -/
def Ctx.readsHeld (x : Ctx) : Bool := x.acc.any fun b => b.pending && (b.win || (b.kind != .stg && b.kind != .str))

/-- A translation for a context's global data access, the register window apart (11 R365; 12 R394): n bytes wide. -/
def State.dataXlate (s : State) (u : Use) (va n : Nat) : XOut :=
  if isWindow va then
    (if n ≠ 8 then .fault .align else if s.fctx.arch.priv then .ok va else .fault .pageProtection)
  else s.translate s.fc s.fctx u va

/-- jtab (04 R129): its table is read after every earlier access that orders it has been performed (04 R139; 08 R269). -/
def jtabPlan (i t b : SReg) (pl : BitVec 8) (s : State) : SlotPlan :=
  let p : SlotPlan := { SlotPlan.empty with names := [rS i, rS t, rS b], reads := [rS i, rS t, rS b] }
  let ea := s.sreg t + 8 * s.sreg i
  if !(s.sreg i).ult (s.sreg b) then p.fail .jtabBound (s.sreg i)
  else if fld ea 63 56 ≠ 0 then p.fail .globalRange ea
  else if fld ea 2 0 ≠ 0 then p.fail .align ea
  else
    match s.dataXlate .read ea.toNat 8 with
    | .fault c => p.fail c ea
    | .miss => p.waiting (.xlate ea.toNat)
    | .migrate g => p.waiting (.migrate g)
    | .ok pa =>
      if s.fctx.tableWaits ea.toNat pa (isWindow ea.toNat) then p.waiting (.read ea.toNat)
      else targetPlan { p with acts := s.conflictActs ea ++ s.tableActs ea.toNat pa } (s.tableWord ea.toNat pa) (some (0xF00#12 + pl.setWidth 12)) s

/-- JTAB: a jump through a table (04 R129). -/
def execJtab (i t b : SReg) (pl : BitVec 8) (s : State) : Host.Outcome State Fault Refusal :=
  runSlot (.jtab i t b pl) (jtabPlan i t b pl) s

/-- LAND: no effect (04 R130). -/
def execLand (p : BitVec 12) (s : State) : Host.Outcome State Fault Refusal :=
  runSlot (.land p) (fun _ => SlotPlan.empty) s

/-- sync: blocks until the gang's line releases it (07 R240). -/
def syncPlan (s : State) : SlotPlan :=
  if s.fctx.actIn then { SlotPlan.empty with acts := [.joined none] } else SlotPlan.empty.blocking .sync

/-- SYNC (07 R240). -/
def execSync (s : State) : Host.Outcome State Fault Refusal := runSlot .sync syncPlan s

/-- barx: blocks until its episode is released (07 R242). -/
def barxPlan (c : BitVec 8) (s : State) : SlotPlan :=
  if s.fctx.barSent.any fun b => b.1 == c.toNat && b.2.2 then { SlotPlan.empty with acts := [.joined (some c.toNat)] }
  else if !s.dev.chanOk c.toNat then SlotPlan.empty.fail .channelMismatch (c.setWidth 64)
  else SlotPlan.empty.blocking (.barx c.toNat)

/-- BARX (07 R242). -/
def execBarx (c : BitVec 8) (s : State) : Host.Outcome State Fault Refusal := runSlot (.barx c) (barxPlan c) s

/-- TRAP: commits, then traps BREAK (07 R244). -/
def execTrap (i : BitVec 16) (s : State) : Host.Outcome State Fault Refusal :=
  runSlot (.trap i) (fun _ => { SlotPlan.empty with acts := [.trap i.toNat] }) s

/-- A function of the supervisor alone (07 R243 and the table of system functions). -/
def superPlan (a : Act) (s : State) : SlotPlan :=
  if s.fctx.arch.priv then { SlotPlan.empty with acts := [a] } else SlotPlan.empty.fail .privilege 0

/-- ERET: the return from a handler (07 R245). -/
def execEret (s : State) : Host.Outcome State Fault Refusal := runSlot .eret (superPlan .eret) s

/-- IDLE: blocks until an asynchronous trap is pending (07 R246). -/
def execIdle (s : State) : Host.Outcome State Fault Refusal := runSlot .idle (superPlan .idle) s

/-- The commands of the context at the focus that have neither completed nor faulted (07 R247). -/
def State.ownCmds (s : State) : List Cmd := s.fcore.cmds.filter fun c => c.place == s.fp

/-- A pending trap that an end lets be taken first: that of a fault of one of the context's commands (07 R247). One that a handler
holds back until its eret (R234) does not keep an end in that handler, and is lost as the context retires (DESIGN CHOICE, log entry
97). -/
def Ctx.engineFault (x : Ctx) : Bool := x.takable.any fun q => q.cause.rank == Cause.engineFault.rank

/-- end: blocks while a command of the context is outstanding or its fault is pending, then retires it (07 R247). -/
def endPlan (s : State) : SlotPlan :=
  if s.ownCmds.isEmpty && !s.fctx.engineFault then { SlotPlan.empty with acts := [.retire] }
  else SlotPlan.empty.blocking .ending

/-- END (07 R247). -/
def execEndTask (s : State) : Host.Outcome State Fault Refusal := runSlot .endTask endPlan s

/-- YIELD (07 R248). -/
def execYield (s : State) : Host.Outcome State Fault Refusal :=
  runSlot .yield (fun _ => { SlotPlan.empty with acts := [.yield] }) s

/-- Everything a drain waits for has been performed: published accesses, stores held for a page among them, and the
write-backs of rflush (07 R243; 08 R265). A drain of any scope waits alike: each access is performed at every scope at one
moment (log entry 61). -/
def State.drained (s : State) (c p : Nat) : Bool :=
  ((s.ctx? c p).map fun x => (x.acc.all fun a => !a.pending) && (s.heldBy x).isEmpty).getD true &&
    ((s.core c).cmds.all fun m => m.place != p || m.eng != 4 || m.fn != 9)

/-- The number of a scope (03 R95). -/
def Scope.code : Scope → Nat
  | .ctx => 0 | .core => 1 | .gang => 2 | .device => 3 | .system => 4

/-- drain (07 R243). -/
def drainPlan (c : Scope) (s : State) : SlotPlan :=
  if s.drained s.fc s.fp then SlotPlan.empty else SlotPlan.empty.blocking (.drain c.code)

/-- DRAIN (07 R243). -/
def execDrain (c : Scope) (s : State) : Host.Outcome State Fault Refusal := runSlot (.drain c) (drainPlan c) s

end Sys2Proof.Machine
end

