-- ==== Sys2Proof/Machine/MemScalar.lean ====
section
/-! DEFINITION. Scalar memory access and atomics (04 R135 to R146), and the parts that engine operands share with them. -/

namespace Sys2Proof.Machine

/-- The effective address of a MEM slot (04 R135). -/
def State.memEa (s : State) (b : SReg) (o : BitVec 11) : Word := s.sreg b + immS s.ext 11 o

/-- What stops a scratchpad access of n bytes, or the physical offsets it touches (04 R136, R146). -/
inductive SpOut where
  | fault (c : Cause)
  | fill (ts : List Nat)
  | ok (offs : List Nat)
deriving DecidableEq, Repr

/-- The checks of a scratchpad access by the context at the focus, in order: the range of its address, alignment, the range of
its bytes, owner, fill (04 R136, R146). -/
def State.spCheck (s : State) (ea : Word) (n align : Nat) : SpOut :=
  if fld ea 63 23 ≠ 0 ∨ (viewPhys s.fctx.banks ea.toNat).isNone then .fault .spRange
  else if ea.toNat % align ≠ 0 then .fault .align
  else match viewOffs s.fctx.banks ea.toNat n with
    | none => .fault .spRange
    | some offs =>
      if offs.any fun o => s.fcore.engineOwns (tileOf o) then .fault .owner
      else if (s.fcore.unfilledOf offs).isEmpty then .ok offs else .fill (s.fcore.unfilledOf offs)

/-- The bytes a load of the context at the focus takes (04 R137; 08 R251). -/
def State.spLoad (s : State) (swz : Bool) (offs : List Nat) : List Byte :=
  offs.map fun o => s.fcore.loadByte s.fctx s.free swz o

/-- VIEW_ALIGN becomes pending for a load that returned another value than after a vjoin (10 R335). -/
def State.viewActs (s : State) (ea : Word) (offs : List Nat) : List Act :=
  if s.fcore.loadBad s.fctx s.free (isSwz ea.toNat) offs then [.viewBad ea.toNat] else []

/-- ld (04 R136). -/
def ldPlan (r b : SReg) (w : Width) (n : Bool) (o : BitVec 11) (s : State) : SlotPlan :=
  let p : SlotPlan := { SlotPlan.empty with names := [rS r, rS b], reads := [rS b] }
  let ea := s.memEa b o
  match s.spCheck ea (Width.bytes w) (Width.bytes w) with
  | .fault c => p.fail c ea
  | .fill ts => p.blocking (.fill ts)
  | .ok offs =>
    { p with
      acts := .result 4 (.scalar r.toNat (extendLoad (Width.bytes w) n (numLE (s.spLoad (isSwz ea.toNat) offs)))) ::
        s.viewActs ea offs }

/-- LD (04 R136). -/
def execLd (r b : SReg) (w : Width) (n : Bool) (o : BitVec 11) (s : State) : Host.Outcome State Fault Refusal :=
  runSlot (.ld r b w n o) (ldPlan r b w n o) s

/-- st (04 R136, R137). -/
def stPlan (r b : SReg) (w : Width) (o : BitVec 11) (s : State) : SlotPlan :=
  let p : SlotPlan := { SlotPlan.empty with names := [rS r, rS b], reads := [rS r, rS b] }
  let ea := s.memEa b o
  match s.spCheck ea (Width.bytes w) (Width.bytes w) with
  | .fault c => p.fail c ea
  | .fill ts => p.blocking (.fill ts)
  | .ok offs =>
    { p with acts := [.gate (.sp (spStores (isSwz ea.toNat) (offs.zip (bytesLE (Width.bytes w) (s.sreg r).toNat))) false)] }

/-- ST (04 R136). -/
def execSt (r b : SReg) (w : Width) (o : BitVec 11) (s : State) : Host.Outcome State Fault Refusal := runSlot (.st r b w o) (stPlan r b w o) s

/-- The checks of a global access of n bytes and, once it is translated, what it does with the physical address (04 R138,
R146). -/
def State.globalPlan (s : State) (p : SlotPlan) (u : Use) (ea : Word) (n : Nat) (f : Nat → SlotPlan) : SlotPlan :=
  if fld ea 63 56 ≠ 0 then p.fail .globalRange ea
  else if ea.toNat % n ≠ 0 then p.fail .align ea
  else
    match s.dataXlate u ea.toNat n with
    | .fault c => p.fail c ea
    | .miss => p.waiting (.xlate ea.toNat)
    | .migrate g => p.waiting (.migrate g)
    | .ok pa => f pa

/-- ldg and lda (04 R138, R139). -/
def ldgPlan (kind : AccKind) (r b : SReg) (w : Width) (n : Bool) (o : BitVec 11) (s : State) : SlotPlan :=
  let p : SlotPlan := { SlotPlan.empty with names := [rS r, rS b], reads := [rS b] }
  let ea := s.memEa b o
  s.globalPlan p .read ea (Width.bytes w) fun pa =>
    { p with
      acts := .load kind r.toNat ea.toNat pa (Width.bytes w) n (isWindow ea.toNat) :: s.conflictActs ea }

/-- LDG (04 R138). -/
def execLdg (r b : SReg) (w : Width) (n : Bool) (o : BitVec 11) (s : State) : Host.Outcome State Fault Refusal :=
  runSlot (.ldg r b w n o) (ldgPlan .ldg r b w n o) s

/-- LDA: an acquire load (04 R139). -/
def execLda (r b : SReg) (w : Width) (n : Bool) (o : BitVec 11) (s : State) : Host.Outcome State Fault Refusal :=
  runSlot (.lda r b w n o) (ldgPlan .lda r b w n o) s

/-- stg and str (04 R138, R140). -/
def stgPlan (rel : Bool) (r b : SReg) (w : Width) (o : BitVec 11) (s : State) : SlotPlan :=
  let p : SlotPlan := { SlotPlan.empty with names := [rS r, rS b], reads := [rS r, rS b] }
  let ea := s.memEa b o
  s.globalPlan p .write ea (Width.bytes w) fun pa =>
    let e : GateEnt :=
      if isWindow ea.toNat then .win (ea.toNat % 0x1000000) (s.sreg r) rel
      else .gl ea.toNat pa (bytesLE (Width.bytes w) (s.sreg r).toNat) rel 0
    { p with acts := .gate e :: s.conflictActs ea }

/-- STG (04 R138). -/
def execStg (r b : SReg) (w : Width) (o : BitVec 11) (s : State) : Host.Outcome State Fault Refusal := runSlot (.stg r b w o) (stgPlan false r b w o) s

/-- STR: a release store (04 R140). -/
def execStr (r b : SReg) (w : Width) (o : BitVec 11) (s : State) : Host.Outcome State Fault Refusal := runSlot (.str r b w o) (stgPlan true r b w o) s

/-- Bytes of an atomic (04 R141). -/
def amoBytes (w : Bool) : Nat := if w then 4 else 8

/-- amo and cas (04 R141 to R145). -/
def amoPlan (fn : AmoFn) (names : List RegRef) (d b : SReg) (w acq rel : Bool) (y : Word) (s : State) : SlotPlan :=
  let p : SlotPlan := { SlotPlan.empty with names := names, reads := names }
  let ea := s.sreg b
  s.globalPlan p .readWrite ea (amoBytes w) fun pa =>
    if isWindow ea.toNat then p.fail .atomicTarget ea
    else { p with acts := .atomic d.toNat ea.toNat pa (amoBytes w) ⟨fn, s.sreg d, y⟩ acq rel :: s.conflictActs ea }

/-- AMO_ADD (04 R141). -/
def execAmoAdd (d b : SReg) (w q e : Bool) (c : Scope) (s : State) : Host.Outcome State Fault Refusal :=
  runSlot (.amoAdd d b w q e c) (amoPlan .add [rS d, rS b] d b w q e 0) s

/-- AMO_AND (04 R141). -/
def execAmoAnd (d b : SReg) (w q e : Bool) (c : Scope) (s : State) : Host.Outcome State Fault Refusal :=
  runSlot (.amoAnd d b w q e c) (amoPlan .and [rS d, rS b] d b w q e 0) s

/-- AMO_OR (04 R141). -/
def execAmoOr (d b : SReg) (w q e : Bool) (c : Scope) (s : State) : Host.Outcome State Fault Refusal :=
  runSlot (.amoOr d b w q e c) (amoPlan .or [rS d, rS b] d b w q e 0) s

/-- AMO_XOR (04 R141). -/
def execAmoXor (d b : SReg) (w q e : Bool) (c : Scope) (s : State) : Host.Outcome State Fault Refusal :=
  runSlot (.amoXor d b w q e c) (amoPlan .xor [rS d, rS b] d b w q e 0) s

/-- AMO_MIN (04 R141). -/
def execAmoMin (d b : SReg) (w q e : Bool) (c : Scope) (s : State) : Host.Outcome State Fault Refusal :=
  runSlot (.amoMin d b w q e c) (amoPlan .min [rS d, rS b] d b w q e 0) s

/-- AMO_MAX (04 R141). -/
def execAmoMax (d b : SReg) (w q e : Bool) (c : Scope) (s : State) : Host.Outcome State Fault Refusal :=
  runSlot (.amoMax d b w q e c) (amoPlan .max [rS d, rS b] d b w q e 0) s

/-- AMO_MINN (04 R141). -/
def execAmoMinn (d b : SReg) (w q e : Bool) (c : Scope) (s : State) : Host.Outcome State Fault Refusal :=
  runSlot (.amoMinn d b w q e c) (amoPlan .minn [rS d, rS b] d b w q e 0) s

/-- AMO_MAXN (04 R141). -/
def execAmoMaxn (d b : SReg) (w q e : Bool) (c : Scope) (s : State) : Host.Outcome State Fault Refusal :=
  runSlot (.amoMaxn d b w q e c) (amoPlan .maxn [rS d, rS b] d b w q e 0) s

/-- AMO_SWP (04 R141). -/
def execAmoSwp (d b : SReg) (w q e : Bool) (c : Scope) (s : State) : Host.Outcome State Fault Refusal :=
  runSlot (.amoSwp d b w q e c) (amoPlan .swp [rS d, rS b] d b w q e 0) s

/-- CAS (04 R142). -/
def execCas (d b c : SReg) (w q e : Bool) (sc : Scope) (s : State) : Host.Outcome State Fault Refusal :=
  runSlot (.cas d b c w q e sc) (fun s => amoPlan .cas [rS d, rS b, rS c] d b w q e (s.sreg c) s) s

end Sys2Proof.Machine
end

