-- ==== Sys2Proof/Machine/VMath.lean ====
section
/-! DEFINITION. The transcendental functions of vmath (05 R164 to R166), each the correctly rounded value of the exact
function. An inexact value is enclosed by fixed-point integer arithmetic of far more bits than a result holds, and
rounded once with a sticky part. -/

namespace Sys2Proof.Machine

/-- The functions of vmath (05 R164). -/
inductive MathFn where
  | exp2 | log2 | rcp | rsqrt | tanh | sqrt
deriving DecidableEq, Repr

/-- Fraction bits of the fixed-point values below. -/
def fixBits : Nat := 320

/-- One in fixed point. -/
def fixOne : Nat := 2 ^ fixBits

/-- The sum of 1 / (k × 2^k) for k from 1, in fixed point: ln 2. -/
def ln2Loop : Nat → Nat → Nat
  | 0, _ => 0
  | n + 1, k => fixOne / (k * 2 ^ k) + ln2Loop n (k + 1)

/-- ln 2 in fixed point. -/
def fixLn2 : Nat := ln2Loop 330 1

/-- The rest of the exponential series from term k on, the k-th term given. -/
def expLoop (y : Nat) : Nat → Nat → Nat → Nat
  | 0, _, _ => 0
  | n + 1, k, term => term + expLoop y n (k + 1) (term * y / fixOne / (k + 1))

/-- e^y for a fixed-point y below 1. -/
def fixExp (y : Nat) : Nat := expLoop y 90 0 fixOne

/-- 2^f for a fixed-point f below 1. -/
def fixExp2 (f : Nat) : Nat := fixExp (f * fixLn2 / fixOne)

/-- The odd series z + z³/3 + z⁵/5 + … from term k on, given z^(2k+1) and z². -/
def atanhLoop (z2 : Nat) : Nat → Nat → Nat → Nat
  | 0, _, _ => 0
  | n + 1, k, zp => zp / (2 * k + 1) + atanhLoop z2 n (k + 1) (zp * z2 / fixOne)

/-- log2 of m / 2^p, a value in 1 to 2, in fixed point: 2 × atanh((x − 1) / (x + 1)) / ln 2. -/
def fixLog2 (m p : Nat) : Nat :=
  let z := (m - 2 ^ p) * fixOne / (m + 2 ^ p)
  2 * atanhLoop (z * z / fixOne) 110 0 z * fixOne / fixLn2

/-- floor of the square root, bit by bit from bit b − 1 down. -/
def isqrtLoop (n : Nat) : Nat → Nat → Nat
  | 0, r => r
  | b + 1, r => if (r + 2 ^ b) * (r + 2 ^ b) ≤ n then isqrtLoop n b (r + 2 ^ b) else isqrtLoop n b r

/-- floor of the square root. -/
def isqrt (n : Nat) : Nat := isqrtLoop n (ilog2 n / 2 + 1) 0

/-- A value before rounding: sign, magnitude m × 2^e, and whether the true magnitude lies just above. -/
structure Pre where
  neg : Bool
  m : Nat
  e : Int
  sticky : Bool
deriving DecidableEq, Repr

/-- 2^x for x = ±m × 2^e, x not zero. -/
def exp2Pre (neg : Bool) (m : Nat) (e : Int) : Pre :=
  if (ilog2 m : Int) + e ≥ 9 then ⟨false, 1, if neg then -400 else 400, true⟩
  else
    let x : Int := (if neg then -1 else 1) *
      (if e ≥ 0 then (m * 2 ^ e.toNat * fixOne : Nat) else (m * fixOne / 2 ^ (-e).toNat : Nat))
    let k := x / (fixOne : Int)
    let f := (x % (fixOne : Int)).toNat
    if f = 0 then ⟨false, 1, k, false⟩ else ⟨false, fixExp2 f, k - fixBits, true⟩

/-- log2 of x = m × 2^e, m not zero. -/
def log2Pre (m : Nat) (e : Int) : Pre :=
  let p := ilog2 m
  let n : Int := (p : Int) + e
  if m = 2 ^ p then ⟨decide (n < 0), n.natAbs, 0, false⟩
  else
    let v : Int := n * (fixOne : Int) + fixLog2 m p
    ⟨decide (v < 0), if v < 0 then v.natAbs - 1 else v.natAbs, -(fixBits : Int), true⟩

/-- tanh of |x| = m × 2^e, m not zero. -/
def tanhPre (neg : Bool) (m : Nat) (e : Int) : Pre :=
  let top : Int := (ilog2 m : Int) + e
  if top ≥ 6 then ⟨neg, 2 ^ 200 - 1, -200, true⟩
  else if top < -60 then ⟨neg, m * 2 ^ 80 - 1, e - 80, true⟩
  else
    let x2 := if e ≥ 0 then m * 2 ^ e.toNat * fixOne * 2 else m * fixOne * 2 / 2 ^ (-e).toNat
    let t := x2 * fixOne / fixLn2
    let ex := fixExp2 (t % fixOne) * 2 ^ (t / fixOne)
    ⟨neg, (ex - fixOne) * fixOne / (ex + fixOne), -(fixBits : Int), true⟩

/-- 1 / (m × 2^e). -/
def rcpPre (neg : Bool) (m : Nat) (e : Int) : Pre := ⟨neg, 2 ^ 200 / m, -200 - e, 2 ^ 200 % m != 0⟩

/-- 1 / sqrt(m × 2^e). -/
def rsqrtPre (m : Nat) (e : Int) : Pre :=
  let (m, e) := if e % 2 = 0 then (m, e) else (2 * m, e - 1)
  let r := isqrt (2 ^ 240 / m)
  ⟨false, r, -120 - e / 2, r * r * m != 2 ^ 240⟩

/-- sqrt(m × 2^e). -/
def sqrtPre (m : Nat) (e : Int) : Pre :=
  let (m, e) := if e % 2 = 0 then (m, e) else (2 * m, e - 1)
  let r := isqrt (m * 2 ^ 128)
  ⟨false, r, e / 2 - 64, r * r != m * 2 ^ 128⟩

/-- Results that 05 R166 calls exact raise no flag but those of a flushed subnormal; every other finite one sets NX,
and UF when its result is subnormal or zero. -/
def mathFlags (p : Pre) (r : RRes) : RRes :=
  if p.sticky then
    .ok r.bits (r.fl ||| flNX ||| (if r.bits % 2 ^ 31 < 2 ^ 23 then flUF else 0))
  else r

/-- f(x) for an f32 element (05 R164 to R166): rne for all but sqrt, whose mode is the operation's. -/
def mathF32 (fn : MathFn) (md : RMode) (ftz : Bool) (r16 x : Nat) : RRes :=
  let inf := 0x7F800000
  let ninf := 0xFF800000
  let nan := 0x7FC00000
  match unpackF .f32 ftz x with
  | .nan sg => .ok nan (if sg then flNV else 0)
  | .inf true => match fn with
    | .exp2 => .ok 0
    | .rcp => .ok 0x80000000
    | .tanh => .ok 0xBF800000
    | _ => .ok nan flNV
  | .inf false => match fn with
    | .exp2 | .log2 | .sqrt => .ok inf
    | .rcp | .rsqrt => .ok 0
    | .tanh => .ok 0x3F800000
  | .num neg m e =>
    if m = 0 then match fn with
      | .exp2 => .ok 0x3F800000
      | .log2 => .ok ninf flDZ
      | .rcp | .rsqrt => .ok (if neg then ninf else inf) flDZ
      | .tanh | .sqrt => .ok (if neg then 0x80000000 else 0)
    else
      let fin (md : RMode) (p : Pre) : RRes :=
        mathFlags p (roundF .f32 md .ieee ftz r16 p.neg p.m p.e p.sticky)
      match fn with
      | .exp2 => fin .rne (exp2Pre neg m e)
      | .rcp => fin .rne (rcpPre neg m e)
      | .tanh => fin .rne (tanhPre neg m e)
      | .log2 => if neg then .ok nan flNV else fin .rne (log2Pre m e)
      | .rsqrt => if neg then .ok nan flNV else fin .rne (rsqrtPre m e)
      | .sqrt =>
        if neg then .ok nan flNV
        else
          let p := sqrtPre m e
          roundF .f32 md .ieee ftz r16 p.neg p.m p.e p.sticky

/-- `vmath` (05 R164): a bf16 element is widened, the f32 result formed and rounded once to bf16. With FTZ = 1 a subnormal f32 result
is flushed before that rounding (02 R53): DESIGN CHOICE, log entry 90. -/
def vMath (fn : MathFn) (t : VType) (c : RCtx) (m : VMask) (a old : VData) : VRes :=
  mapActive (VType.width t) m old fun i =>
    let r16 := srLane c.s i
    if t = .bf16 then
      let r := mathF32 fn c.md c.ftz r16 (elem 2 a i * 2 ^ 16)
      let y := f32ToBf16 c.md c.ftz r16 r.bits
      .ok y.bits (r.fl ||| y.fl)
    else mathF32 fn c.md c.ftz r16 (elem 4 a i)

end Sys2Proof.Machine
end

