-- ==== Sys2Proof/Machine/Vector.lean ====
section
/-! DEFINITION. The vector pipes (05 R147 to R177): arithmetic, comparison, conversion, reductions and scans,
permutation, transcendental functions, masks, selection, moves and block operations. -/

namespace Sys2Proof.Machine

/-- How a slot rounds, and the advance of RNGS it makes: draws says that it holds an active element of a rounding
operation (02 R64 to R68; 05 R150). -/
def State.rctx (s : State) (ext : Option (BitVec 7)) (pol : OvPol) (draws : Bool) : RCtx × List Act :=
  let md := effMode s.fctx.arch.rmode ext
  let ftz := rmodeFtz s.fctx.arch.rmode
  if md = .sr ∧ draws then
    let r := srNext s.rngsNow
    ({ md := md, pol := pol, ftz := ftz, s := r }, [.rngs r])
  else ({ md := md, pol := pol, ftz := ftz, s := s.rngsNow }, [])

/-- A whole vector register written (05 R149). -/
def vecAct (lat : Nat) (d : BitVec 5) (data : VData) (side : VSide) : Act :=
  .result lat (.vec d.toNat data (BitVec.allOnes 16384) side (BitVec.allOnes 512))

/-- Flags set at the due step (01 R32). -/
def flagActs (lat : Nat) (f : Fl) : List Act := if f = 0 then [] else [.result lat (.flags f)]

/-- A vector slot with its result, or its trap with the lane at fault (02 R68; 05 R150). -/
def vecPlan (names reads : List RegRef) (lat : Nat) (d : BitVec 5) (cause : Cause) (draw : List Act) (r : VRes) : SlotPlan :=
  let p : SlotPlan := { SlotPlan.empty with names := names, reads := reads }
  match r.trap with
  | some l => p.fail cause (BitVec.ofNat 64 l)
  | none => { p with acts := draw ++ vecAct lat d r.data r.side :: flagActs lat r.fl }

/-- The destination as a source of a masked slot (05 R149). -/
def oldRead (m : BitVec 3) (d : BitVec 5) : List RegRef := if m = 0 then [] else [rV d]

/-- Latency of a function of v (03 R102). -/
def VFn.lat : VFn → Nat
  | .mul | .mulh => 5
  | _ => 3

/-- A function of v with two sources (05 R153, R154). -/
def vPlan2 (fn : VFn) (d a b : BitVec 5) (m : BitVec 3) (t : VType) (s : State) : SlotPlan :=
  let mk := s.mreg m
  let w := VType.width t
  let c := s.rctx s.ext .ieee (fn.rounds t && anyActive mk w (2048 / w))
  vecPlan [rV d, rV a, rV b, rM m] ([rV a, rV b, rM m] ++ oldRead m d) fn.lat d .convertOverflow c.2
    (vOp fn t c.1 mk (s.vreg a).data (s.vreg b).data (s.vreg d).data)

/-- A function of v with one source (05 R153, R154). -/
def vPlan1 (fn : VFn) (d a : BitVec 5) (m : BitVec 3) (t : VType) (s : State) : SlotPlan :=
  let mk := s.mreg m
  let c := s.rctx s.ext .ieee false
  vecPlan [rV d, rV a, rM m] ([rV a, rM m] ++ oldRead m d) fn.lat d .convertOverflow c.2
    (vOp fn t c.1 mk (s.vreg a).data 0 (s.vreg d).data)

/-- VADD: x + y (05 R153, R154). -/
def execVadd (d a b : BitVec 5) (m : BitVec 3) (t : VType) (s : State) : Host.Outcome State Fault Refusal :=
  runSlot (.vadd d a b m t) (vPlan2 .add d a b m t) s

/-- VSUB: x - y (05 R153, R154). -/
def execVsub (d a b : BitVec 5) (m : BitVec 3) (t : VType) (s : State) : Host.Outcome State Fault Refusal :=
  runSlot (.vsub d a b m t) (vPlan2 .sub d a b m t) s

/-- VMUL: x × y (05 R153, R154). -/
def execVmul (d a b : BitVec 5) (m : BitVec 3) (t : VType) (s : State) : Host.Outcome State Fault Refusal :=
  runSlot (.vmul d a b m t) (vPlan2 .mul d a b m t) s

/-- VMULH: the high half of x × y (05 R153). -/
def execVmulh (d a b : BitVec 5) (m : BitVec 3) (t : VType) (s : State) : Host.Outcome State Fault Refusal :=
  runSlot (.vmulh d a b m t) (vPlan2 .mulh d a b m t) s

/-- VMIN: the lesser (05 R153, R154). -/
def execVmin (d a b : BitVec 5) (m : BitVec 3) (t : VType) (s : State) : Host.Outcome State Fault Refusal :=
  runSlot (.vmin d a b m t) (vPlan2 .min d a b m t) s

/-- VMAX: the greater (05 R153, R154). -/
def execVmax (d a b : BitVec 5) (m : BitVec 3) (t : VType) (s : State) : Host.Outcome State Fault Refusal :=
  runSlot (.vmax d a b m t) (vPlan2 .max d a b m t) s

/-- VABS: the absolute value (05 R153, R154). -/
def execVabs (d a : BitVec 5) (m : BitVec 3) (t : VType) (s : State) : Host.Outcome State Fault Refusal :=
  runSlot (.vabs d a m t) (vPlan1 .abs d a m t) s

/-- VNEG: the value negated (05 R153, R154). -/
def execVneg (d a : BitVec 5) (m : BitVec 3) (t : VType) (s : State) : Host.Outcome State Fault Refusal :=
  runSlot (.vneg d a m t) (vPlan1 .neg d a m t) s

/-- VAND: x AND y (05 R153). -/
def execVand (d a b : BitVec 5) (m : BitVec 3) (t : VType) (s : State) : Host.Outcome State Fault Refusal :=
  runSlot (.vand d a b m t) (vPlan2 .and d a b m t) s

/-- VOR: x OR y (05 R153). -/
def execVor (d a b : BitVec 5) (m : BitVec 3) (t : VType) (s : State) : Host.Outcome State Fault Refusal :=
  runSlot (.vor d a b m t) (vPlan2 .or d a b m t) s

/-- VXOR: x XOR y (05 R153). -/
def execVxor (d a b : BitVec 5) (m : BitVec 3) (t : VType) (s : State) : Host.Outcome State Fault Refusal :=
  runSlot (.vxor d a b m t) (vPlan2 .xor d a b m t) s

/-- VANDN: x AND NOT y (05 R153). -/
def execVandn (d a b : BitVec 5) (m : BitVec 3) (t : VType) (s : State) : Host.Outcome State Fault Refusal :=
  runSlot (.vandn d a b m t) (vPlan2 .andn d a b m t) s

/-- VSHL: shift left (05 R153). -/
def execVshl (d a b : BitVec 5) (m : BitVec 3) (t : VType) (s : State) : Host.Outcome State Fault Refusal :=
  runSlot (.vshl d a b m t) (vPlan2 .shl d a b m t) s

/-- VSHR: shift right, zeros entering (05 R153). -/
def execVshr (d a b : BitVec 5) (m : BitVec 3) (t : VType) (s : State) : Host.Outcome State Fault Refusal :=
  runSlot (.vshr d a b m t) (vPlan2 .shr d a b m t) s

/-- VSRA: shift right, copies of the top bit entering (05 R153). -/
def execVsra (d a b : BitVec 5) (m : BitVec 3) (t : VType) (s : State) : Host.Outcome State Fault Refusal :=
  runSlot (.vsra d a b m t) (vPlan2 .sra d a b m t) s

/-- VADDS: x + y clipped (05 R153). -/
def execVadds (d a b : BitVec 5) (m : BitVec 3) (t : VType) (s : State) : Host.Outcome State Fault Refusal :=
  runSlot (.vadds d a b m t) (vPlan2 .adds d a b m t) s

/-- VSUBS: x - y clipped (05 R153). -/
def execVsubs (d a b : BitVec 5) (m : BitVec 3) (t : VType) (s : State) : Host.Outcome State Fault Refusal :=
  runSlot (.vsubs d a b m t) (vPlan2 .subs d a b m t) s

/-- VABSD: the absolute difference (05 R153). -/
def execVabsd (d a b : BitVec 5) (m : BitVec 3) (t : VType) (s : State) : Host.Outcome State Fault Refusal :=
  runSlot (.vabsd d a b m t) (vPlan2 .absd d a b m t) s

/-- VCLZ: leading zeros (05 R153). -/
def execVclz (d a : BitVec 5) (m : BitVec 3) (t : VType) (s : State) : Host.Outcome State Fault Refusal :=
  runSlot (.vclz d a m t) (vPlan1 .clz d a m t) s

/-- VPOPC: one bits (05 R153). -/
def execVpopc (d a : BitVec 5) (m : BitVec 3) (t : VType) (s : State) : Host.Outcome State Fault Refusal :=
  runSlot (.vpopc d a m t) (vPlan1 .popc d a m t) s

/-- VCOPYSIGN: the magnitude of x with the sign of y (05 R154). -/
def execVcopysign (d a b : BitVec 5) (m : BitVec 3) (t : VType) (s : State) : Host.Outcome State Fault Refusal :=
  runSlot (.vcopysign d a b m t) (vPlan2 .copysign d a b m t) s

/-- VSCALE: x × 2^k rounded once (05 R154). -/
def execVscale (d a b : BitVec 5) (m : BitVec 3) (t : VType) (s : State) : Host.Outcome State Fault Refusal :=
  runSlot (.vscale d a b m t) (vPlan2 .scale d a b m t) s

/-- The fused functions, which read d whatever the mask (05 R155). -/
def vfmaPlan (negP negC : Bool) (d a b : BitVec 5) (m : BitVec 3) (t : VType) (s : State) : SlotPlan :=
  let mk := s.mreg m
  let w := VType.width t
  let c := s.rctx s.ext .ieee (anyActive mk w (2048 / w))
  vecPlan [rV d, rV a, rV b, rM m] [rV a, rV b, rV d, rM m] 5 d .convertOverflow c.2
    (vFma negP negC t c.1 mk (s.vreg a).data (s.vreg b).data (s.vreg d).data)

/-- VFMA: a × b + c, rounded once (05 R155). -/
def execVfma (d a b : BitVec 5) (m : BitVec 3) (t : VType) (s : State) : Host.Outcome State Fault Refusal :=
  runSlot (.vfma d a b m t) (vfmaPlan false false d a b m t) s

/-- VFMS: a × b - c, rounded once (05 R155). -/
def execVfms (d a b : BitVec 5) (m : BitVec 3) (t : VType) (s : State) : Host.Outcome State Fault Refusal :=
  runSlot (.vfms d a b m t) (vfmaPlan false true d a b m t) s

/-- VFNMA: -(a × b) + c, rounded once (05 R155). -/
def execVfnma (d a b : BitVec 5) (m : BitVec 3) (t : VType) (s : State) : Host.Outcome State Fault Refusal :=
  runSlot (.vfnma d a b m t) (vfmaPlan true false d a b m t) s

/-- VFNMS: -(a × b) - c, rounded once (05 R155). -/
def execVfnms (d a b : BitVec 5) (m : BitVec 3) (t : VType) (s : State) : Host.Outcome State Fault Refusal :=
  runSlot (.vfnms d a b m t) (vfmaPlan true true d a b m t) s

/-- A comparison: a mask and its flags (05 R156). -/
def vcmpPlan (r : CmpRel) (d : BitVec 3) (a b : BitVec 5) (m : BitVec 3) (t : VType) (s : State) : SlotPlan :=
  let o := vCmp r t (rmodeFtz s.fctx.arch.rmode) (s.mreg m) (s.vreg a).data (s.vreg b).data
  { SlotPlan.empty with
    names := [rM d, rV a, rV b, rM m], reads := [rV a, rV b, rM m],
    acts := .result 3 (.mask d.toNat o.1) :: flagActs 3 o.2 }

/-- VCMP_EQ (05 R156). -/
def execVcmpEq (d : BitVec 3) (a b : BitVec 5) (m : BitVec 3) (t : VType) (s : State) : Host.Outcome State Fault Refusal :=
  runSlot (.vcmpEq d a b m t) (vcmpPlan .eq d a b m t) s

/-- VCMP_NE (05 R156). -/
def execVcmpNe (d : BitVec 3) (a b : BitVec 5) (m : BitVec 3) (t : VType) (s : State) : Host.Outcome State Fault Refusal :=
  runSlot (.vcmpNe d a b m t) (vcmpPlan .ne d a b m t) s

/-- VCMP_LT (05 R156). -/
def execVcmpLt (d : BitVec 3) (a b : BitVec 5) (m : BitVec 3) (t : VType) (s : State) : Host.Outcome State Fault Refusal :=
  runSlot (.vcmpLt d a b m t) (vcmpPlan .lt d a b m t) s

/-- VCMP_LE (05 R156). -/
def execVcmpLe (d : BitVec 3) (a b : BitVec 5) (m : BitVec 3) (t : VType) (s : State) : Host.Outcome State Fault Refusal :=
  runSlot (.vcmpLe d a b m t) (vcmpPlan .le d a b m t) s

/-- VCMP_GT (05 R156). -/
def execVcmpGt (d : BitVec 3) (a b : BitVec 5) (m : BitVec 3) (t : VType) (s : State) : Host.Outcome State Fault Refusal :=
  runSlot (.vcmpGt d a b m t) (vcmpPlan .gt d a b m t) s

/-- VCMP_GE (05 R156). -/
def execVcmpGe (d : BitVec 3) (a b : BitVec 5) (m : BitVec 3) (t : VType) (s : State) : Host.Outcome State Fault Refusal :=
  runSlot (.vcmpGe d a b m t) (vcmpPlan .ge d a b m t) s

/-- VCMP_UN (05 R156). -/
def execVcmpUn (d : BitVec 3) (a b : BitVec 5) (m : BitVec 3) (t : VType) (s : State) : Host.Outcome State Fault Refusal :=
  runSlot (.vcmpUn d a b m t) (vcmpPlan .un d a b m t) s

/-- vcvt (05 R157, R158). -/
def vcvtPlan (d a : BitVec 5) (m : BitVec 3) (p q : EType) (s : State) : SlotPlan :=
  let mk := s.mreg m
  let n := 2048 / max (EType.width p) (EType.width q)
  let c := s.rctx s.ext (effPol s.fctx.arch.ovpol s.ext) (convRounds p q && anyActive mk (EType.width p) n)
  vecPlan [rV d, rV a, rM m] ([rV a, rM m] ++ oldRead m d) 4 d .convertOverflow c.2
    (vCvt p q c.1 mk (s.vreg a).data (s.vreg d).data)

/-- VCVT: conversion (05 R157, R158). -/
def execVcvt (d a : BitVec 5) (m : BitVec 3) (p q : EType) (s : State) : Host.Outcome State Fault Refusal :=
  runSlot (.vcvt d a m p q) (vcvtPlan d a m p q) s

/-- A reduction (05 R160, R161). -/
def vredPlan (fn : RedFn) (d a : BitVec 5) (m : BitVec 3) (t : VType) (s : State) : SlotPlan :=
  let mk := s.mreg m
  let w := VType.width t
  let c := s.rctx s.ext .ieee (fn == .sum && (VType.fmt? t).isSome && anyActive mk w (2048 / w))
  vecPlan [rV d, rV a, rM m] [rV a, rM m] 9 d .convertOverflow c.2 (vRed fn t c.1 mk (s.vreg a).data)

/-- VRED_SUM (05 R160, R161). -/
def execVredSum (d a : BitVec 5) (m : BitVec 3) (t : VType) (s : State) : Host.Outcome State Fault Refusal :=
  runSlot (.vredSum d a m t) (vredPlan .sum d a m t) s

/-- VRED_MAX (05 R160, R161). -/
def execVredMax (d a : BitVec 5) (m : BitVec 3) (t : VType) (s : State) : Host.Outcome State Fault Refusal :=
  runSlot (.vredMax d a m t) (vredPlan .max d a m t) s

/-- VRED_MIN (05 R160, R161). -/
def execVredMin (d a : BitVec 5) (m : BitVec 3) (t : VType) (s : State) : Host.Outcome State Fault Refusal :=
  runSlot (.vredMin d a m t) (vredPlan .min d a m t) s

/-- VRED_AND (05 R160, R161). -/
def execVredAnd (d a : BitVec 5) (m : BitVec 3) (t : VType) (s : State) : Host.Outcome State Fault Refusal :=
  runSlot (.vredAnd d a m t) (vredPlan .and d a m t) s

/-- VRED_OR (05 R160, R161). -/
def execVredOr (d a : BitVec 5) (m : BitVec 3) (t : VType) (s : State) : Host.Outcome State Fault Refusal :=
  runSlot (.vredOr d a m t) (vredPlan .or d a m t) s

/-- VRED_XOR (05 R160, R161). -/
def execVredXor (d a : BitVec 5) (m : BitVec 3) (t : VType) (s : State) : Host.Outcome State Fault Refusal :=
  runSlot (.vredXor d a m t) (vredPlan .xor d a m t) s

/-- VRED_SUMW (05 R160, R161). -/
def execVredSumw (d a : BitVec 5) (m : BitVec 3) (t : VType) (s : State) : Host.Outcome State Fault Refusal :=
  runSlot (.vredSumw d a m t) (vredPlan .sumw d a m t) s

/-- A permutation with an immediate (05 R163). -/
def vpermImm (fn : PermFn) (d a h : BitVec 5) (m : BitVec 3) (w : ElemW) (l : BitVec 3) (s : State) : SlotPlan :=
  vecPlan [rV d, rV a, rM m] ([rV a, rM m] ++ oldRead m d) 4 d .convertOverflow []
    (vPerm fn (ElemW.bytes w) (immU s.ext 8 (h ++ l)) (s.mreg m) (s.vreg a).data 0 (s.vreg d).data)

/-- A permutation without one (05 R163). -/
def vpermPlan (fn : PermFn) (srcs : List (BitVec 5)) (d a b : BitVec 5) (m : BitVec 3) (w : ElemW) (s : State) : SlotPlan :=
  vecPlan (rV d :: rM m :: srcs.map rV) (srcs.map rV ++ [rM m] ++ oldRead m d) 4 d .convertOverflow []
    (vPerm fn (ElemW.bytes w) 0 (s.mreg m) (s.vreg a).data (s.vreg b).data (s.vreg d).data)

/-- bcast: an element beyond the register faults (05 R163). -/
def vpermBcastPlan (d a h : BitVec 5) (m : BitVec 3) (w : ElemW) (l : BitVec 3) (s : State) : SlotPlan :=
  if immU s.ext 8 (h ++ l) ≥ 2048 / ElemW.bytes w then
    { vpermImm .bcast d a h m w l s with
      early := some (.illegalOpcode, BitVec.ofNat 64 (Instr.vpermBcast d a h m w l).word), acts := [] }
  else vpermImm .bcast d a h m w l s

/-- VPERM_BCAST: one element of a (05 R163). -/
def execVpermBcast (d a h : BitVec 5) (m : BitVec 3) (w : ElemW) (l : BitVec 3) (s : State) : Host.Outcome State Fault Refusal :=
  runSlot (.vpermBcast d a h m w l) (vpermBcastPlan d a h m w l) s

/-- VPERM_IOTA: the element's number (05 R163). -/
def execVpermIota (d : BitVec 5) (m : BitVec 3) (w : ElemW) (s : State) : Host.Outcome State Fault Refusal :=
  runSlot (.vpermIota d m w) (vpermPlan .iota [] d 0 0 m w) s

/-- VPERM_SLIDEUP: a moved up (05 R163). -/
def execVpermSlideup (d a h : BitVec 5) (m : BitVec 3) (w : ElemW) (l : BitVec 3) (s : State) : Host.Outcome State Fault Refusal :=
  runSlot (.vpermSlideup d a h m w l) (vpermImm .slideup d a h m w l) s

/-- VPERM_SLIDEDN: a moved down (05 R163). -/
def execVpermSlidedn (d a h : BitVec 5) (m : BitVec 3) (w : ElemW) (l : BitVec 3) (s : State) : Host.Outcome State Fault Refusal :=
  runSlot (.vpermSlidedn d a h m w l) (vpermImm .slidedn d a h m w l) s

/-- VPERM_PERM: elements of a that b names (05 R163). -/
def execVpermPerm (d a b : BitVec 5) (m : BitVec 3) (w : ElemW) (s : State) : Host.Outcome State Fault Refusal :=
  runSlot (.vpermPerm d a b m w) (vpermPlan .perm [a, b] d a b m w) s

/-- VPERM_ZIP: a and b interleaved (05 R163). -/
def execVpermZip (d a b : BitVec 5) (m : BitVec 3) (w : ElemW) (s : State) : Host.Outcome State Fault Refusal :=
  runSlot (.vpermZip d a b m w) (vpermPlan .zip [a, b] d a b m w) s

/-- VPERM_UNZIP: even elements of a, then of b (05 R163). -/
def execVpermUnzip (d a b : BitVec 5) (m : BitVec 3) (w : ElemW) (s : State) : Host.Outcome State Fault Refusal :=
  runSlot (.vpermUnzip d a b m w) (vpermPlan .unzip [a, b] d a b m w) s

/-- VPERM_REV: a reversed (05 R163). -/
def execVpermRev (d a : BitVec 5) (m : BitVec 3) (w : ElemW) (s : State) : Host.Outcome State Fault Refusal :=
  runSlot (.vpermRev d a m w) (vpermPlan .rev [a] d a 0 m w) s

/-- A transcendental function; it takes no lent field (05 R164). -/
def vmathPlan (fn : MathFn) (d a : BitVec 5) (m : BitVec 3) (t : VType) (s : State) : SlotPlan :=
  let mk := s.mreg m
  let w := VType.width t
  let c := s.rctx none .ieee ((fn == .sqrt || t == .bf16) && anyActive mk w (2048 / w))
  vecPlan [rV d, rV a, rM m] ([rV a, rM m] ++ oldRead m d) 8 d .convertOverflow c.2
    (vMath fn t c.1 mk (s.vreg a).data (s.vreg d).data)

/-- VMATH_EXP2 (05 R164 to R166). -/
def execVmathExp2 (d a : BitVec 5) (m : BitVec 3) (t : VType) (s : State) : Host.Outcome State Fault Refusal :=
  runSlot (.vmathExp2 d a m t) (vmathPlan .exp2 d a m t) s

/-- VMATH_LOG2 (05 R164 to R166). -/
def execVmathLog2 (d a : BitVec 5) (m : BitVec 3) (t : VType) (s : State) : Host.Outcome State Fault Refusal :=
  runSlot (.vmathLog2 d a m t) (vmathPlan .log2 d a m t) s

/-- VMATH_RCP (05 R164 to R166). -/
def execVmathRcp (d a : BitVec 5) (m : BitVec 3) (t : VType) (s : State) : Host.Outcome State Fault Refusal :=
  runSlot (.vmathRcp d a m t) (vmathPlan .rcp d a m t) s

/-- VMATH_RSQRT (05 R164 to R166). -/
def execVmathRsqrt (d a : BitVec 5) (m : BitVec 3) (t : VType) (s : State) : Host.Outcome State Fault Refusal :=
  runSlot (.vmathRsqrt d a m t) (vmathPlan .rsqrt d a m t) s

/-- VMATH_TANH (05 R164 to R166). -/
def execVmathTanh (d a : BitVec 5) (m : BitVec 3) (t : VType) (s : State) : Host.Outcome State Fault Refusal :=
  runSlot (.vmathTanh d a m t) (vmathPlan .tanh d a m t) s

/-- VMATH_SQRT (05 R164 to R166). -/
def execVmathSqrt (d a : BitVec 5) (m : BitVec 3) (t : VType) (s : State) : Host.Outcome State Fault Refusal :=
  runSlot (.vmathSqrt d a m t) (vmathPlan .sqrt d a m t) s

/-- A mask computed from masks (05 R167). -/
def mopPlan (d : BitVec 3) (srcs : List (BitVec 3)) (v : VMask) : SlotPlan :=
  { SlotPlan.empty with
    names := rM d :: srcs.map rM, reads := srcs.map rM, acts := [.result 3 (.mask d.toNat v)] }

/-- MAND (05 R167). -/
def execMand (d a b : BitVec 3) (s : State) : Host.Outcome State Fault Refusal :=
  runSlot (.mand d a b) (fun s => mopPlan d [a, b] (s.mreg a &&& s.mreg b)) s

/-- MOR (05 R167). -/
def execMor (d a b : BitVec 3) (s : State) : Host.Outcome State Fault Refusal :=
  runSlot (.mor d a b) (fun s => mopPlan d [a, b] (s.mreg a ||| s.mreg b)) s

/-- MXOR (05 R167). -/
def execMxor (d a b : BitVec 3) (s : State) : Host.Outcome State Fault Refusal :=
  runSlot (.mxor d a b) (fun s => mopPlan d [a, b] (s.mreg a ^^^ s.mreg b)) s

/-- MNOT (05 R167). -/
def execMnot (d a : BitVec 3) (s : State) : Host.Outcome State Fault Refusal :=
  runSlot (.mnot d a) (fun s => mopPlan d [a] (~~~s.mreg a)) s

/-- MCNT: the number of set bits (05 R167). -/
def execMcnt (r : SReg) (a : BitVec 3) (s : State) : Host.Outcome State Fault Refusal :=
  runSlot (.mcnt r a)
    (fun s => scalarPlan [rS r, rM a] [rM a] 3 r (BitVec.ofNat 64 (maskCount (s.mreg a)))) s

/-- MFIRST: the lowest set bit (05 R167). -/
def execMfirst (r : SReg) (a : BitVec 3) (s : State) : Host.Outcome State Fault Refusal :=
  runSlot (.mfirst r a)
    (fun s => scalarPlan [rS r, rM a] [rM a] 3 r (BitVec.ofNat 64 (maskFirst (s.mreg a)))) s

/-- MSET: the bits below a scalar (05 R167). -/
def execMset (r : SReg) (d : BitVec 3) (s : State) : Host.Outcome State Fault Refusal :=
  runSlot (.mset r d)
    (fun s => { SlotPlan.empty with
      names := [rM d, rS r], reads := [rS r], acts := [.result 3 (.mask d.toNat (maskSet (s.sreg r).toNat))] }) s

/-- vsel (05 R168). -/
def vselPlan (d a b : BitVec 5) (m : BitVec 3) (s : State) : SlotPlan :=
  { SlotPlan.empty with
    names := [rV d, rV a, rV b, rM m], reads := [rV a, rV b, rM m],
    acts := [vecAct 2 d (vSel (s.mreg m) (s.vreg a).data (s.vreg b).data) sideOne] }

/-- VSEL: byte-lanes chosen by a mask (05 R168). -/
def execVsel (d a b : BitVec 5) (m : BitVec 3) (s : State) : Host.Outcome State Fault Refusal :=
  runSlot (.vsel d a b m) (vselPlan d a b m) s

/-- vins (05 R169). -/
def vinsPlan (v : BitVec 5) (r : SReg) (w : Width) (i : BitVec 11) (s : State) : SlotPlan :=
  { SlotPlan.empty with
    names := [rV v, rS r], reads := [rV v, rS r],
    acts := [vecAct 3 v (vIns (Width.insBytes w) i.toNat (s.sreg r).toNat (s.vreg v).data) sideOne] }

/-- VINS: a scalar into an element (05 R169). -/
def execVins (v : BitVec 5) (r : SReg) (w : Width) (i : BitVec 11) (s : State) : Host.Outcome State Fault Refusal :=
  runSlot (.vins v r w i) (vinsPlan v r w i) s

/-- VEXT: an element to a scalar (05 R169). -/
def execVext (v : BitVec 5) (r : SReg) (w : Width) (i : BitVec 11) (s : State) : Host.Outcome State Fault Refusal :=
  runSlot (.vext v r w i)
    (fun s => scalarPlan [rS r, rV v] [rV v] 3 r (BitVec.ofNat 64 (elem (Width.insBytes w) (s.vreg v).data i.toNat))) s

/-- VMV: the data bytes copied (05 R169). -/
def execVmv (d a : BitVec 5) (s : State) : Host.Outcome State Fault Refusal :=
  runSlot (.vmv d a)
    (fun s => { SlotPlan.empty with
      names := [rV d, rV a], reads := [rV a], acts := [vecAct 3 d (s.vreg a).data sideOne] }) s

/-- VSC_RD: a sidecar byte to a scalar (05 R170). -/
def execVscRd (v : BitVec 5) (r : SReg) (i : BitVec 6) (s : State) : Host.Outcome State Fault Refusal :=
  runSlot (.vscRd v r i)
    (fun s => scalarPlan [rS r, rV v] [rSide v] 3 r (BitVec.ofNat 64 (sideByte (s.vreg v).side i.toNat))) s

/-- vsc.wr (05 R170): one sidecar byte, the others and the data as they were. -/
def vscWrPlan (v : BitVec 5) (r : SReg) (i : BitVec 6) (s : State) : SlotPlan :=
  let at64 (n : Nat) : VSide := BitVec.ofNat 512 (n * 2 ^ (8 * i.toNat))
  let old := (s.vreg v).side
  { SlotPlan.empty with
    names := [rV v, rS r], reads := [rSide v, rS r],
    acts := [.result 3 (.vec v.toNat 0 0 ((old &&& ~~~at64 0xFF) ||| at64 ((s.sreg r).toNat % 256)) (BitVec.allOnes 512))] }

/-- VSC_WR: a scalar into a sidecar byte (05 R170). -/
def execVscWr (v : BitVec 5) (r : SReg) (i : BitVec 6) (s : State) : Host.Outcome State Fault Refusal :=
  runSlot (.vscWr v r i) (vscWrPlan v r i) s

/-- A block operation without rounding (05 R171). -/
def vblkPlan (names reads : List RegRef) (d : BitVec 5) (data : VData) (side : VSide) : SlotPlan :=
  { SlotPlan.empty with names := rV d :: names, reads := reads, acts := [vecAct 6 d data side] }

/-- VBLK_BEXP: the greatest exponent of each block (05 R172). -/
def execVblkBexp (d a : BitVec 5) (m : BitVec 3) (s : State) : Host.Outcome State Fault Refusal :=
  runSlot (.vblkBexp d a m)
    (fun s => vblkPlan [rV a, rM m] [rV a, rM m] d (vBexp (s.mreg m) (s.vreg a).data) sideOne) s

/-- VBLK_ANC: f32 to two anc64 blocks (05 R173). -/
def execVblkAnc (d a b : BitVec 5) (m : BitVec 3) (s : State) : Host.Outcome State Fault Refusal :=
  runSlot (.vblkAnc d a b m)
    (fun s => vecPlan [rV d, rV a, rV b, rM m] [rV a, rV b, rM m] 6 d .anchorMismatch []
      (vAnc (s.mreg m) (s.vreg a).data (s.vreg b).data)) s

/-- vblk.unanc (05 R174). -/
def vunancPlan (d a : BitVec 5) (m : BitVec 3) (s : State) : SlotPlan :=
  let mk := s.mreg m
  let c := s.rctx s.ext (effPol s.fctx.arch.ovpol s.ext) (anyActive mk 8 256)
  vecPlan [rV d, rV a, rM m] [rV a, rSide a, rM m] 6 d .convertOverflow c.2
    (vUnanc c.1 mk (s.vreg a).data (s.vreg a).side)

/-- VBLK_UNANC: two anc64 blocks to f32 (05 R174). -/
def execVblkUnanc (d a : BitVec 5) (m : BitVec 3) (s : State) : Host.Outcome State Fault Refusal :=
  runSlot (.vblkUnanc d a m) (vunancPlan d a m) s

/-- VBLK_PLPACK: planes of i8 elements (05 R176). -/
def execVblkPlpack (d a b : BitVec 5) (m : BitVec 3) (k : BitVec 5) (s : State) : Host.Outcome State Fault Refusal :=
  runSlot (.vblkPlpack d a b m k)
    (fun s => vblkPlan [rV a, rV b, rM m] [rV a, rSide a, rV b, rM m] d
      (vPlpack k.toNat (s.mreg m) (s.vreg a).data (s.vreg b).data) (s.vreg a).side) s

/-- VBLK_PLUNPK: i8 elements of planes (05 R177). -/
def execVblkPlunpk (d a : BitVec 5) (m : BitVec 3) (k : BitVec 5) (s : State) : Host.Outcome State Fault Refusal :=
  runSlot (.vblkPlunpk d a m k)
    (fun s => vblkPlan [rV a, rM m] [rV a, rSide a, rM m] d
      (vPlunpk k.toNat (s.mreg m) (s.vreg a).data) (s.vreg a).side) s

/-- vblk.bscale (05 R175). -/
def vbscalePlan (d a : BitVec 5) (m : BitVec 3) (s : State) : SlotPlan :=
  let mk := s.mreg m
  let c := s.rctx s.ext (effPol s.fctx.arch.ovpol s.ext) (anyActive mk 4 512)
  vecPlan [rV d, rV a, rM m] [rV a, rM m] 6 d .convertOverflow c.2 (vBscale c.1 mk (s.vreg a).data)

/-- VBLK_BSCALE: f32 to pni blocks (05 R175). -/
def execVblkBscale (d a : BitVec 5) (m : BitVec 3) (s : State) : Host.Outcome State Fault Refusal :=
  runSlot (.vblkBscale d a m) (vbscalePlan d a m) s

/-- A scan (05 R162). -/
def vscanPlan (fn : ScanFn) (d a : BitVec 5) (m : BitVec 3) (t : VType) (s : State) : SlotPlan :=
  let mk := s.mreg m
  let w := VType.width t
  let c := s.rctx s.ext .ieee (fn == .sumf && anyActive mk w (2048 / w))
  vecPlan [rV d, rV a, rM m] [rV a, rM m] 10 d .convertOverflow c.2 (vScan fn t c.1 mk (s.vreg a).data)

/-- VSCAN_SUMI (05 R162). -/
def execVscanSumi (d a : BitVec 5) (m : BitVec 3) (t : VType) (s : State) : Host.Outcome State Fault Refusal :=
  runSlot (.vscanSumi d a m t) (vscanPlan .sumi d a m t) s

/-- VSCAN_SUMF (05 R162). -/
def execVscanSumf (d a : BitVec 5) (m : BitVec 3) (t : VType) (s : State) : Host.Outcome State Fault Refusal :=
  runSlot (.vscanSumf d a m t) (vscanPlan .sumf d a m t) s

/-- VSCAN_MAX (05 R162). -/
def execVscanMax (d a : BitVec 5) (m : BitVec 3) (t : VType) (s : State) : Host.Outcome State Fault Refusal :=
  runSlot (.vscanMax d a m t) (vscanPlan .max d a m t) s

end Sys2Proof.Machine
end

