-- ==== Sys2Proof/Machine/VecMem.lean ====
section
/-! DEFINITION. Vector memory access: bank formats and footprints (05 R178 to R181; 08 R252), loads and stores with
their conversions (05 R182 to R185), gathers and scatters (05 R186 to R188). -/

namespace Sys2Proof.Machine

/-- A bank's format register (08 R252). -/
structure BFmt where
  elem : Nat
  planes : Nat
  rd : Nat
  side : Bool
deriving DecidableEq, Repr

/-- The fields of a format register (08 R252). -/
def BFmt.ofWord (w : Word) : BFmt := { elem := fld w 3 0, planes := fld w 7 4, rd := fld w 11 8, side := bit w 12 }

/-- The format of a physical bank. -/
def Core.bfmt (k : Core) (b : Nat) : BFmt := BFmt.ofWord (Tab.get k.bankFmt 0 b)

/-- The element type a bank stores; none for raw, pni and anc64 (08 R252). -/
def BFmt.etype? (b : BFmt) : Option EType :=
  match b.elem with
  | 1 => some .f32 | 2 => some .bf16 | 3 => some .e4m3 | 4 => some .e5m2 | 5 => some .i8 | 6 => some .i32 | _ => none

/-- A grouped format (05 R179). -/
def BFmt.grouped (b : BFmt) : Bool := b.side || b.elem == 7 || b.elem == 8

/-- Bytes of a group (05 R181). -/
def BFmt.group (b : BFmt) : Nat := if b.elem = 7 then 64 + 256 * b.planes else 2112

/-- Types a plain bank accepts besides raw (05 R179). -/
def BFmt.accepts (b : BFmt) (t : EType) : Bool :=
  match b.etype? with
  | none => (EType.fmt? t).isSome || (EType.int? t).isSome
  | some e =>
    if (EType.fmt? e).isSome then (EType.fmt? t).isSome else (EType.int? t).isSome

/-- How an access moves its elements: unconverted, converted from or to the bank's type, a whole group, or a part of
one (05 R179, R181). -/
inductive VKind where
  | bytes
  | conv (e : EType)
  | whole
  | part (p : Nat)
deriving DecidableEq, Repr

/-- A TYPE that a grouped bank takes by whole groups (05 R179). -/
def BFmt.wholeType (b : BFmt) (t : EType) : Bool :=
  b.grouped && (if b.elem = 8 then t == .anc64 else if b.elem = 7 then t == .pni || t == .i8 else b.etype? == some t)

/-- The kind of an access of a type at an offset of a bank; none where R184's third row faults it, the crossing of the
bank's end apart (05 R179, R181, R183). TYPE raw moves bytes of any bank as they are stored, and so is not held to the offsets of
groups, nor to the planes read of a pni bank: DESIGN CHOICE, log entry 88. -/
def vKind (b : BFmt) (t : EType) (x : Nat) (store : Bool) : Option VKind :=
  if t = .raw then some .bytes
  else if !b.grouped then
    if !b.accepts t then none
    else match b.etype? with
      | some e => some (.conv e)
      | none => some .bytes
  else
    let p := x % b.group / 64
    if (x / b.group + 1) * b.group > 0x40000 ∨ (b.elem = 7 ∧ (b.rd < 2 ∨ b.rd > b.planes)) then none
    else if b.elem ≠ 8 ∧ (t = .f32 ∨ t = .bf16) then
      if (store ∧ (b.elem = 3 ∨ b.elem = 4)) ∨ p ≥ (if t = .f32 then 4 else 2) then none else some (.part p)
    else if b.wholeType t ∧ p = 0 then some .whole
    else none

/-- Elements of a type in a register (05 R147). -/
def EType.count (t : EType) : Nat := 2048 / EType.width t

/-- The footprint of an access by offset of its bank, in order: for a group, the scale bytes first (05 R179, R181). -/
def vFoot (b : BFmt) (t : EType) (x : Nat) : VKind → List Nat
  | .bytes => (List.range 2048).map (x + ·)
  | .conv e => (List.range (EType.count t * EType.width e)).map (x + ·)
  | .whole => (List.range b.group).map (x / b.group * b.group + ·)
  | .part p =>
    let n := EType.count t
    let g := x / b.group * b.group
    (List.range (n / 32)).map (g + p * n / 32 + ·) ++
      (if b.elem = 7 then
        (List.range b.planes).flatMap fun j => (List.range (n / 8)).map (g + 64 + 256 * j + p * n / 8 + ·)
      else (List.range n).map (g + 64 + p * n + ·))

/-- The places in a footprint of the bytes that the active elements read (05 R184). -/
def vUsed (b : BFmt) (t : EType) (act : Nat → Bool) : VKind → List Nat
  | .bytes => (List.range (EType.count t)).flatMap fun i =>
    if act i then (List.range (EType.width t)).map (EType.width t * i + ·) else []
  | .conv e => (List.range (EType.count t)).flatMap fun i =>
    if act i then (List.range (EType.width e)).map (EType.width e * i + ·) else []
  | .whole =>
    List.range 64 ++
      (if b.elem = 7 then
        (List.range b.rd).flatMap fun p => (List.range 256).filterMap fun y =>
          if (List.range 8).any (fun u => act (8 * y + u)) then some (64 + 256 * p + y) else none
      else (List.range (EType.count t)).flatMap fun i =>
        if act i then (List.range (EType.width t)).map (64 + EType.width t * i + ·) else [])
  | .part _ =>
    let n := EType.count t
    ((List.range (n / 32)).filter fun j => (List.range 32).any fun u => act (32 * j + u)) ++
      (if b.elem = 7 then
        (List.range b.rd).flatMap fun p => (List.range (n / 8)).filterMap fun y =>
          if (List.range 8).any (fun u => act (8 * y + u)) then some (n / 32 + n / 8 * p + y) else none
      else ((List.range n).filter act).map (n / 32 + ·))

/-- A pni or i8 element with its scale as a float (02 R55, R58; 05 R182): no flush. -/
def decQ (f : Fmt) (c : RCtx) (r16 e q : Nat) : RRes :=
  let v := sint 8 q
  if e = 255 then .ok f.nan
  else if v = 0 then .ok 0
  else roundF f c.md c.pol false r16 (decide (v < 0)) v.natAbs ((e : Int) - 133)

/-- An e4m3 or e5m2 element with its scale as a float (05 R182). -/
def decS (f : Fmt) (src : Fmt) (c : RCtx) (r16 e q : Nat) : RRes :=
  if e = 255 then .ok f.nan
  else match unpackF src false q with
    | .nan _ => .ok f.nan
    | .inf neg => .ok (f.signed neg (f.infBits.getD f.nan))
    | .num neg 0 _ => .ok (f.signed neg 0)
    | .num neg m ex => roundF f c.md c.pol c.ftz r16 neg m (ex + e - 127)

/-- One element converted, or moved as it is between equal types (05 R180). -/
def convMem (d s : EType) (c : RCtx) (i x : Nat) : RRes :=
  if d = s then .ok x else convE d s c.md c.pol c.ftz (srLane c.s i) x

/-- Byte j of a footprint's image. -/
def imgByte (img j : Nat) : Nat := img / 2 ^ (8 * j) % 256

/-- The result of a load from the image of its footprint (05 R180, R182). -/
def vLoadRes (b : BFmt) (t : EType) (c : RCtx) (m : VMask) (old : VData) (img : Nat) (k : VKind) : VRes :=
  let w := EType.width t
  match k with
  | .bytes => mapActive w m old fun i => .ok (img / 2 ^ (8 * w * i) % 2 ^ (8 * w))
  | .conv e =>
    let es := EType.width e
    mapActive w m old fun i => convMem t e c i (img / 2 ^ (8 * es * i) % 2 ^ (8 * es))
  | .whole =>
    { mapActive w m old (fun i =>
        .ok (if b.elem = 7 then planeElem (fun y => imgByte img (64 + y)) 256 b.rd i
          else img / 2 ^ (8 * (64 + w * i)) % 2 ^ (8 * w))) with
      side := BitVec.ofNat 512 img }
  | .part _ =>
    let n := EType.count t
    let f := (EType.fmt? t).getD .f32
    mapActive w m old fun i =>
      let e := imgByte img (i / 32)
      if b.elem = 7 then decQ f c (srLane c.s i) e (planeElem (fun y => imgByte img (n / 32 + y)) (n / 8) b.rd i)
      else if b.elem = 5 then decQ f c (srLane c.s i) e (imgByte img (n / 32 + i))
      else decS f (if b.elem = 3 then .e4m3 else .e5m2) c (srLane c.s i) e (imgByte img (n / 32 + i))

/-- A plane byte of a store: the bits of active elements from q, no others (05 R183). -/
def planeStore (act : Nat → Bool) (q : Nat → Nat) (j y : Nat) : Nat :=
  (List.range 8).foldl (fun n u => n + (if act (8 * y + u) then q (8 * y + u) / 2 ^ j % 2 else 0) * 2 ^ u) 0

/-- The bits of a byte at a place of a footprint that a store writes: in a plane of a whole group those of the active elements,
elsewhere all (05 R183). -/
def storeMask (b : BFmt) (k : VKind) (act : Nat → Bool) (place : Nat) : Byte :=
  if k = .whole ∧ b.elem = 7 ∧ 64 ≤ place then
    BitVec.ofNat 8 ((List.range 8).foldl (fun n u => n + (act (8 * ((place - 64) % 256) + u)).toNat * 2 ^ u) 0)
  else BitVec.allOnes 8

/-- What a store writes: pairs of a place in its footprint and a byte; with flags and trap (05 R180, R183). -/
structure VStore where
  cells : List (Nat × Nat)
  rs : List RRes
deriving DecidableEq, Repr

/-- Little-endian bytes of a number at a place. -/
def placeBytes (at_ n x : Nat) : List (Nat × Nat) := (List.range n).map fun j => (at_ + j, x / 2 ^ (8 * j) % 256)

/-- What a store of a register writes (05 R180, R183). -/
def vStoreRes (b : BFmt) (t : EType) (c : RCtx) (m : VMask) (v : VData) (sd : VSide) (k : VKind) : VStore :=
  let w := EType.width t
  let act := active m w
  let n := EType.count t
  match k with
  | .bytes =>
    { cells := (List.range n).flatMap (fun i => if act i then placeBytes (w * i) w (elem w v i) else []), rs := [] }
  | .conv e =>
    let es := EType.width e
    let rs := (List.range n).map fun i => if act i then convMem e t c i (elem w v i) else .ok 0
    { cells := ((List.range n).zip rs).flatMap fun p => if act p.1 then placeBytes (es * p.1) es p.2.bits else [],
      rs := rs }
  | .whole =>
    { cells := placeBytes 0 64 sd.toNat ++
        (if b.elem = 7 then
          (List.range b.planes).flatMap fun p => (List.range 256).filterMap fun y =>
            if (List.range 8).any (fun u => act (8 * y + u)) then
              some (64 + 256 * p + y, planeStore act (elem 1 v) (7 - p) y)
            else none
        else (List.range n).flatMap fun i => if act i then placeBytes (64 + w * i) w (elem w v i) else []),
      rs := [] }
  | .part _ =>
    let f := (EType.fmt? t).getD .f32
    let blks := (List.range (n / 32)).map fun j =>
      quantBlock c f (fun i => srLane c.s (32 * j + i))
        ((List.range 32).map fun i => if act (32 * j + i) then some (elem w v (32 * j + i)) else none)
    let rs := blks.flatMap Prod.snd
    let q := packNat 1 (rs.map RRes.bits)
    { cells := ((List.range (n / 32)).zip (blks.map Prod.fst)) ++
        (if b.elem = 7 then
          (List.range b.planes).flatMap fun p => (List.range (n / 8)).map fun y =>
            (n / 32 + n / 8 * p + y, planeByte (imgByte q) (7 - p) y)
        else (List.range n).map fun i => (n / 32 + i, imgByte q i)),
      rs := rs }

/-- Whether the conversion of an access is a rounding operation (02 R66; 05 R150). -/
def vRounds (b : BFmt) (t : EType) (store : Bool) : VKind → Bool
  | .bytes | .whole => false
  | .conv e => if store then convRounds e t else convRounds t e
  | .part _ => store || (t == .bf16 && (b.elem == 3 || b.elem == 4))

/-- The physical offset of an offset of the bank that local address ea names, through its view (08 R250); none beyond
the allotted banks. -/
def vPhys (banks : List Nat) (ea x : Nat) : Option Nat :=
  if ea % 0x400000 / 0x40000 * 0x40000 + x < 0x400000 then viewPhys banks (ea / 0x40000 * 0x40000 + x) else none

/-- An access past rows 1 to 4 of R184: the bank's format, its kind, and the physical offsets of its footprint. -/
structure VAcc where
  fmt : BFmt
  kind : VKind
  offs : List Nat
deriving DecidableEq, Repr

/-- Rows 1 to 4 of R184 for an access at a local address. -/
def State.vCheck (s : State) (ea : Word) (t : EType) (store : Bool) : Except Cause VAcc :=
  let banks := s.fctx.banks
  let a := ea.toNat
  if fld ea 63 23 ≠ 0 then .error .spRange
  else match banks[a / 0x40000 % 16]? with
    | none => .error .spRange
    | some pb =>
      let b := s.fcore.bfmt pb
      let x := a % 0x40000
      match vKind b t x store with
      | none => .error (if a % 64 ≠ 0 then .align else .bankFormat)
      | some k =>
        let foot := vFoot b t x k
        match foot.mapM (vPhys banks a) with
        | none => .error .spRange
        | some offs =>
          if a % 64 ≠ 0 then .error .align
          else if foot.any fun y => decide (y ≥ 0x40000) then .error .bankFormat
          else if (offs.map tileOf).eraseDups.any s.fcore.engineOwns then .error .owner
          else .ok { fmt := b, kind := k, offs := offs }

/-- The rounding of a memory access: the registers govern it (05 R180). -/
def State.memRctx (s : State) (draws : Bool) : RCtx × List Act := s.rctx none (effPol s.fctx.arch.ovpol none) draws

/-- The effective address of vld and vst (05 R178). -/
def State.vecEa (s : State) (b : SReg) (o : BitVec 8) : Word := s.sreg b + 64 * immS s.ext 8 o

/-- Latency of vld (03 R102). -/
def vldLat (b : BFmt) : Nat := if b.elem = 7 then 8 else 6

/-- vld (05 R178 to R184). -/
def vldPlan (v : BitVec 5) (b : SReg) (m : BitVec 3) (t : EType) (o : BitVec 8) (s : State) : SlotPlan :=
  let p : SlotPlan :=
    { SlotPlan.empty with names := [rV v, rS b, rM m], reads := [rS b, rM m] ++ oldRead m v }
  let ea := s.vecEa b o
  match s.vCheck ea t false with
  | .error c => p.fail c ea
  | .ok a =>
    let un := s.fcore.unfilledOf a.offs
    if !un.isEmpty then p.blocking (.fill un)
    else
      let mk := s.mreg m
      let w := EType.width t
      let c := s.memRctx (vRounds a.fmt t false a.kind && anyActive mk w (EType.count t))
      let swz := isSwz ea.toNat
      let r := vLoadRes a.fmt t c.1 mk (s.vreg v).data (numLE (s.spLoad swz a.offs)) a.kind
      match r.trap with
      | some i => p.fail .convertOverflow (BitVec.ofNat 64 i)
      | none =>
        let used := (vUsed a.fmt t (active mk w) a.kind).filterMap fun j => a.offs[j]?
        { p with
          acts := c.2 ++ vecAct (vldLat a.fmt) v r.data r.side :: flagActs (vldLat a.fmt) r.fl ++ s.viewActs ea used }

/-- VLD: a vector register from scratchpad (05 R178). -/
def execVld (v : BitVec 5) (b : SReg) (m : BitVec 3) (t : EType) (o : BitVec 8) (s : State) : Host.Outcome State Fault Refusal :=
  runSlot (.vld v b m t o) (vldPlan v b m t o) s

/-- The bank of a local address takes a TYPE by whole groups, wherever in it the address lies; no bank beyond the allotted ones. -/
def State.wholeAt (s : State) (ea : Word) (t : EType) : Bool :=
  fld ea 63 23 == 0 && (s.fctx.banks[ea.toNat / 0x40000 % 16]?).any fun pb => (s.fcore.bfmt pb).wholeType t

/-- vst (05 R178 to R185): a TYPE that its bank takes by whole groups reads the sidecar, whatever the checks of the offset and of
the planes read then find (03 R82; 05 R183); flags are due a step after issue (01 R32). -/
def vstPlan (v : BitVec 5) (b : SReg) (m : BitVec 3) (t : EType) (o : BitVec 8) (s : State) : SlotPlan :=
  let ea := s.vecEa b o
  let side := if s.wholeAt ea t then [rSide v] else []
  let p : SlotPlan := { SlotPlan.empty with names := [rV v, rS b, rM m], reads := side ++ [rV v, rS b, rM m] }
  match s.vCheck ea t true with
  | .error c => p.fail c ea
  | .ok a =>
    let mk := s.mreg m
    let w := EType.width t
    let c := s.memRctx (vRounds a.fmt t true a.kind && anyActive mk w (EType.count t))
    let swz := isSwz ea.toNat
    let r := vStoreRes a.fmt t c.1 mk (s.vreg v).data (s.vreg v).side a.kind
    match trapOf r.rs with
    | some i => p.fail .convertOverflow (BitVec.ofNat 64 i)
    | none =>
      let un := s.fcore.unfilledOf a.offs
      if !un.isEmpty then p.blocking (.fill un)
      else
        let cells := r.cells.filterMap fun q => (a.offs[q.1]?).map fun o =>
          (⟨o, BitVec.ofNat 8 q.2, storeMask a.fmt a.kind (active mk w) q.1, swz⟩ : SpStore)
        { p with acts := c.2 ++ .gate (.sp cells false) :: flagActs 1 (flagsOf r.rs) }

/-- VST: a vector register to scratchpad (05 R178). -/
def execVst (v : BitVec 5) (b : SReg) (m : BitVec 3) (t : EType) (o : BitVec 8) (s : State) : Host.Outcome State Fault Refusal :=
  runSlot (.vst v b m t o) (vstPlan v b m t o) s

/-- An element of a gather or scatter past rows 1 to 4: its address, the physical offsets it touches, and the type it
is stored as, none where it moves unconverted. -/
structure GElem where
  i : Nat
  ea : Word
  offs : List Nat
  ty : Option EType
deriving DecidableEq, Repr

/-- The number of a row of R184. -/
def gatherRow : Cause → Nat
  | .spRange => 1 | .align => 2 | .bankFormat => 3 | _ => 4

/-- Rows 1 to 4 of R184 for an element in a plain bank (05 R186). An element whose address lies in a pni bank, of a gather whose base
does not, has no decoding under R187 and no conversion under R180, and faults BANK_FORMAT: DESIGN CHOICE, log entry 91. -/
def State.elemCheck (s : State) (t : EType) (i : Nat) (ea : Word) : Except Cause GElem :=
  let a := ea.toNat
  if fld ea 63 23 ≠ 0 then .error .spRange
  else match s.fctx.banks[a / 0x40000 % 16]? with
    | none => .error .spRange
    | some pb =>
      let b := s.fcore.bfmt pb
      let al := if b.elem = 0 then EType.width t else (b.etype?.map EType.width).getD 1
      let n := if t = .raw then 1 else al
      match viewOffs s.fctx.banks a n with
      | none => .error .spRange
      | some offs =>
        if a % al ≠ 0 then .error .align
        else if b.grouped ∨ (t ≠ .raw ∧ !b.accepts t) then .error .bankFormat
        else if offs.any fun o => s.fcore.engineOwns (tileOf o) then .error .owner
        else .ok { i := i, ea := ea, offs := offs, ty := if t = .raw then none else b.etype? }

/-- The same for an element number of a pni bank (05 R187). The rows of R184 that look at bytes, and the fills, take as its
footprint the scale byte, for TYPE i8 too, and a byte of each plane read: the spec gives a gathered element none (log entry
62). Base and element number, which is no byte offset here, are added for EINFO only: the first row's test of address bits
63:23 is not made on the sum (DESIGN CHOICE, log entry 96). -/
def State.pniCheck (s : State) (b : BFmt) (t : EType) (base : Word) (i j : Nat) : Except Cause GElem :=
  let a := base.toNat
  let ea := base + BitVec.ofNat 64 j
  let x := a % 0x40000 + j / 2048 * b.group
  if (t ≠ .f32 ∧ t ≠ .bf16 ∧ t ≠ .i8) ∨ a % 0x40000 % b.group ≠ 0 ∨ x + b.group > 0x40000 ∨ b.rd < 2 ∨ b.rd > b.planes then
    .error .bankFormat
  else
    let e := j % 2048
    let foot := (x + e / 32) :: (List.range b.rd).map fun p => x + 64 + 256 * p + e / 8
    match foot.mapM (vPhys s.fctx.banks a) with
    | none => .error .spRange
    | some offs =>
      if offs.any fun o => s.fcore.engineOwns (tileOf o) then .error .owner
      else .ok { i := i, ea := ea, offs := offs, ty := some .pni }

/-- The pni format of the bank that a base lies in, if it does (05 R187). -/
def State.pniBase (s : State) (base : Word) : Option BFmt :=
  if fld base 63 23 ≠ 0 then none
  else match s.fctx.banks[base.toNat / 0x40000 % 16]? with
    | none => none
    | some pb => if (s.fcore.bfmt pb).elem = 7 then some (s.fcore.bfmt pb) else none

/-- The elements of a gather or scatter, or the first row that one of them fails with the lowest element that fails it
(05 R186). -/
def gatherAll : List (Word × Except Cause GElem) → Option (Cause × Word) → List GElem → Except (Cause × Word) (List GElem)
  | [], some f, _ => .error f
  | [], none, es => .ok es.reverse
  | (ea, .error c) :: rest, some f, es =>
    gatherAll rest (if gatherRow c < gatherRow f.1 then some (c, ea) else some f) es
  | (ea, .error c) :: rest, none, es => gatherAll rest (some (c, ea)) es
  | (_, .ok e) :: rest, f, es => gatherAll rest f (e :: es)

/-- The value of a gathered element (05 R186, R187). -/
def gatherVal (b : Option BFmt) (t : EType) (c : RCtx) (swz : Bool) (ld : Bool → List Nat → List Byte) (e : GElem)
    (idx : Nat) : RRes :=
  let img := numLE (ld swz e.offs)
  match e.ty, b with
  | some .pni, some f =>
    let q := (List.range f.rd).foldl (fun n p => n + (imgByte img (1 + p) / 2 ^ (idx % 8) % 2) * 2 ^ (7 - p)) 0
    if t = .i8 then .ok q else decQ ((EType.fmt? t).getD .f32) c (srLane c.s e.i) (imgByte img 0) q
  | some ty, _ => convMem t ty c e.i img
  | none, _ => .ok img

/-- vgath (05 R186, R187). VIEW_ALIGN (10 R335) looks at the whole footprint of a gathered pni element, the scale byte among it for
TYPE i8 too, which returns none of it: DESIGN CHOICE, log entry 62. -/
def vgathPlan (v : BitVec 5) (b : SReg) (ix : BitVec 5) (m : BitVec 3) (t : EType) (s : State) : SlotPlan :=
  let p : SlotPlan :=
    { SlotPlan.empty with names := [rV v, rS b, rV ix, rM m], reads := [rS b, rV ix, rM m] ++ oldRead m v }
  let base := s.sreg b
  let w := EType.width t
  let mk := s.mreg m
  let pni := s.pniBase base
  let idx (i : Nat) : Nat := elem 4 (s.vreg ix).data i
  let chk := ((List.range 512).filter (active mk w)).map fun i =>
    (base + BitVec.ofNat 64 (idx i),
      match pni with
      | some f => s.pniCheck f t base i (idx i)
      | none => s.elemCheck t i (base + BitVec.ofNat 64 (idx i)))
  match gatherAll chk none [] with
  | .error f => p.fail f.1 f.2
  | .ok es =>
    let un := s.fcore.unfilledOf (es.flatMap GElem.offs)
    if !un.isEmpty then p.blocking (.fill un)
    else
      let c := s.memRctx (pni.isNone && es.any fun e => (e.ty.map (convRounds t)).getD false)
      let swzOf (e : GElem) : Bool := if pni.isSome then isSwz base.toNat else isSwz e.ea.toNat
      let vals : Tab RRes := es.map fun e => (e.i, gatherVal pni t c.1 (swzOf e) s.spLoad e (idx e.i))
      let r := vresOf w ((List.range (2048 / w)).map fun i =>
        if i ≥ 512 then .ok 0 else (Tab.find? vals i).getD (.ok (elem w (s.vreg v).data i)))
      match (es.zip (vals.map Prod.snd)).find? fun q => q.2.trap with
      | some q => p.fail .convertOverflow (BitVec.ofNat 64 q.1.i)
      | none =>
        let lat := if pni.isSome then 12 else 10
        let bad := es.findSome? fun e =>
          if s.fcore.loadBad s.fctx s.free (swzOf e) e.offs then some (Act.viewBad e.ea.toNat) else none
        { p with acts := c.2 ++ vecAct lat v r.data r.side :: flagActs lat r.fl ++ bad.toList }

/-- VGATH: elements gathered by index (05 R186). -/
def execVgath (v : BitVec 5) (b : SReg) (i : BitVec 5) (m : BitVec 3) (t : EType) (s : State) : Host.Outcome State Fault Refusal :=
  runSlot (.vgath v b i m t) (vgathPlan v b i m t) s

/-- vscat (05 R186 to R188). -/
def vscatPlan (v : BitVec 5) (b : SReg) (ix : BitVec 5) (m : BitVec 3) (t : EType) (s : State) : SlotPlan :=
  let p : SlotPlan :=
    { SlotPlan.empty with names := [rV v, rS b, rV ix, rM m], reads := [rV v, rS b, rV ix, rM m] }
  let base := s.sreg b
  let w := EType.width t
  let mk := s.mreg m
  let chk := ((List.range 512).filter (active mk w)).map fun i =>
    let ea := base + BitVec.ofNat 64 (elem 4 (s.vreg ix).data i)
    (ea, s.elemCheck t i ea)
  match gatherAll chk none [] with
  | .error f => p.fail f.1 f.2
  | .ok es =>
    let c := s.memRctx (es.any fun e => (e.ty.map fun d => convRounds d t).getD false)
    let rs := es.map fun e =>
      match e.ty with
      | some d => convMem d t c.1 e.i (elem w (s.vreg v).data e.i)
      | none => .ok (elem w (s.vreg v).data e.i)
    match (es.zip rs).find? fun q => q.2.trap with
    | some q => p.fail .convertOverflow (BitVec.ofNat 64 q.1.i)
    | none =>
      let un := s.fcore.unfilledOf (es.flatMap GElem.offs)
      if !un.isEmpty then p.blocking (.fill un)
      else
        let cells := (es.zip rs).flatMap fun q =>
          spStores (isSwz q.1.ea.toNat) (q.1.offs.zip (bytesLE q.1.offs.length q.2.bits))
        { p with acts := c.2 ++ .gate (.sp cells false) :: flagActs 1 (flagsOf rs) }

/-- VSCAT: elements scattered by index (05 R186). -/
def execVscat (v : BitVec 5) (b : SReg) (i : BitVec 5) (m : BitVec 3) (t : EType) (s : State) : Host.Outcome State Fault Refusal :=
  runSlot (.vscat v b i m t) (vscatPlan v b i m t) s

end Sys2Proof.Machine
end

