-- ==== Sys2Proof/Machine/Matrix.lean ====
section
/-! DEFINITION. The matrix operations (06 R193 to R202). -/

namespace Sys2Proof.Machine

/-- The context at the focus holds its core's array (06 R189). -/
def State.holdsArray (s : State) : Bool := s.fcore.mat.holder == some s.fp

/-- A matrix effect on rows after which the row holds v (06 R200). -/
def rowAct (lat r : Nat) (v : AccRow) : Act := .mat lat (.row r v)

/-- The physical row of a context's row (01 R19). -/
def State.physRow (s : State) (r : Nat) : Nat := s.fctx.aBase + r

/-- The last update of a physical row still in flight (06 R200). -/
def MatUnit.lastRow (m : MatUnit) (r : Nat) : Option MatFlight :=
  m.pend.foldl (fun a f => match f.op with
    | .row q _ => if q == r && (match a with | some g => decide (g.ord < f.ord) | none => true) then some f else a
    | _ => a) none

/-- A row after every update issued so far, whatever their due steps (06 R196, R200). -/
def MatUnit.rowNow (m : MatUnit) (r : Nat) : AccRow :=
  match m.lastRow r with
  | some f => (match f.op with | .row _ v => v | _ => 0)
  | none => Tab.get m.rows 0 r

/-- The lines of the active bank (06 R196). -/
def MatUnit.lines (m : MatUnit) : List Line :=
  (List.range 128).map fun j => Tab.get (if m.active then m.bank1 else m.bank0) Line.zero j

/-- mpush (06 R194, R202). -/
def mpushPlan (v : BitVec 5) (e : BitVec 3) (j : BitVec 7) (s : State) : SlotPlan :=
  let p : SlotPlan :=
    { SlotPlan.empty with
      names := [rV v], reads := [rEighth v e.toNat, { cls := .side, num := v.toNat, part := some e.toNat }] }
  if !s.holdsArray then p.fail .matrixState 0
  else if s.fcore.mat.mode.isNone then p.fail .matrixMode 0
  else
    let l := eighthOf (s.vreg v).data (s.vreg v).side e.toNat
    { p with acts := [.mat 2 (.push (!s.fcore.mat.active) j.toNat l v.toNat)] }

/-- MPUSH: an eighth into a line of the shadow bank (06 R194). -/
def execMpush (v : BitVec 5) (e : BitVec 3) (j : BitVec 7) (s : State) : Host.Outcome State Fault Refusal :=
  runSlot (.mpush v e j) (mpushPlan v e j) s

/-- A matrix effect is not yet due: its step lies ahead, or a trap's handler holds it (01 R46; 06 R205). -/
def MatFlight.notDue (f : MatFlight) (x : Ctx) : Bool := f.lvl != x.arch.lvl || decide (f.due > x.stepNo)

/-- EINFO of an mswap before a push is due: the push's vector register (06 R195); of several, that of the push first issued, one
that a handler holds back among them: DESIGN CHOICE, log entry 87. -/
def State.swapStall (s : State) : Option Word :=
  s.fcore.mat.pend.findSome? fun f => match f.op with
    | .push _ _ _ v =>
      if f.notDue s.fctx then some (BitVec.ofNat 64 (0x100 + v)) else none
    | _ => none

/-- mswap (06 R195). -/
def mswapPlan (s : State) : SlotPlan :=
  let p : SlotPlan := { SlotPlan.empty with stall := s.swapStall }
  if !s.holdsArray then { p with stall := none }.fail .matrixState 0 else { p with acts := [.mat 1 .swap] }

/-- MSWAP: the banks exchanged (06 R195). -/
def execMswap (s : State) : Host.Outcome State Fault Refusal := runSlot .mswap mswapPlan s

/-- MMODE: the matrix mode (06 R193). -/
def execMmode (m : MatMode) (n : BitVec 4) (a t : Bool) (s : State) : Host.Outcome State Fault Refusal :=
  runSlot (.mmode m n a t)
    (fun s =>
      if !s.holdsArray then SlotPlan.empty.fail .matrixState 0
      else { SlotPlan.empty with acts := [.mat 1 (.mode { mode := m, planes := n.toNat, acci := a, satt := t })] }) s

/-- MZERO: rows of zeros (06 R199). -/
def execMzero (r n : BitVec 8) (s : State) : Host.Outcome State Fault Refusal :=
  runSlot (.mzero r n)
    (fun s => { SlotPlan.empty with
      names := (List.range (n.toNat + 1)).map (fun i => rA (r.toNat + i)),
      acts := (List.range (n.toNat + 1)).map (fun i => rowAct 1 (s.physRow (r.toNat + i)) 0) }) s

/-- macc (06 R196 to R198). -/
def maccPlan (v : BitVec 5) (e : BitVec 3) (r : BitVec 8) (s : State) : SlotPlan :=
  let p : SlotPlan :=
    { SlotPlan.empty with
      names := [rV v, rA r.toNat],
      reads := [rEighth v e.toNat, { cls := .side, num := v.toNat, part := some e.toNat }] }
  let m := s.fcore.mat
  match m.mode with
  | none => p.fail .matrixMode 0
  | some c =>
    let o := beat c (eighthOf (s.vreg v).data (s.vreg v).side e.toNat) m.lines (m.rowNow (s.physRow r.toNat))
    { p with
      acts := rowAct 140 (s.physRow r.toNat) o.1 ::
        (match o.2 with
          | some col => [.result 140 (.sat r.toNat (some col) c.satt)]
          | none => []) }

/-- MACC: one beat (06 R196). -/
def execMacc (v : BitVec 5) (e : BitVec 3) (r : BitVec 8) (s : State) : Host.Outcome State Fault Refusal :=
  runSlot (.macc v e r) (maccPlan v e r) s

/-- The bits of quarter n of a register, and of its sidecar (06 R201). -/
def quarterMask (n : Nat) : VData := BitVec.ofNat 16384 ((2 ^ 4096 - 1) * 2 ^ (4096 * n))
def quarterSide (n : Nat) : VSide := BitVec.ofNat 512 ((2 ^ 128 - 1) * 2 ^ (128 * n))

/-- mdrain and mdrainz (06 R201). -/
def mdrainPlan (zero : Bool) (v : BitVec 5) (q : BitVec 2) (r : BitVec 8) (s : State) : SlotPlan :=
  let pr := s.physRow r.toNat
  let m := s.fcore.mat
  { SlotPlan.empty with
    names := [rV v, rA r.toNat],
    stall := match m.lastRow pr with
      | some f =>
        if f.notDue s.fctx then some (BitVec.ofNat 64 (0x300 + r.toNat)) else none
      | none => none,
    acts := .result 6 (.vec v.toNat (BitVec.ofNat 16384 ((Tab.get m.rows 0 pr).toNat * 2 ^ (4096 * q.toNat)))
        (quarterMask q.toNat) sideOne (quarterSide q.toNat)) ::
      (if zero then [rowAct 1 pr 0] else []) }

/-- MDRAIN: a row to a quarter of a register (06 R201). -/
def execMdrain (v : BitVec 5) (q : BitVec 2) (r : BitVec 8) (s : State) : Host.Outcome State Fault Refusal :=
  runSlot (.mdrain v q r) (mdrainPlan false v q r) s

/-- MDRAINZ: the same, the row then zero (06 R201). -/
def execMdrainz (v : BitVec 5) (q : BitVec 2) (r : BitVec 8) (s : State) : Host.Outcome State Fault Refusal :=
  runSlot (.mdrainz v q r) (mdrainPlan true v q r) s

end Sys2Proof.Machine
end

