-- ==== Sys2Proof/Machine/EngineOps.lean ====
section
/-! DEFINITION. Engine commands as they are issued (07 R210 to R235; 11 R338 to R341): their checks, what is captured as
their bundle commits, and shape loads. -/

namespace Sys2Proof.Machine

/-- A shape entry's fields (11 R339); a dimension is its extent and its byte stride. -/
structure Shape where
  kind : Nat
  cmode : Nat
  elog2 : Nat
  rnd : Nat
  pol : Nat
  nm1 : Nat
  ctr : Nat
  sobj : Nat
  src : List (Nat × Int)
  dst : List (Nat × Int)
deriving DecidableEq, Repr

/-- A dimension word (11 R339). -/
def shapeDim (w : Word) : Nat × Int := (fld w 63 40 + 1, sint 40 (fld w 39 0))

/-- An entry read from its 32 words (11 R339). -/
def Shape.parse (ws : List Word) : Shape :=
  let w (i : Nat) : Word := ws.getD i 0
  { kind := fld (w 0) 63 62, cmode := fld (w 0) 61 60, elog2 := fld (w 0) 51 49, rnd := fld (w 0) 48 46,
    pol := fld (w 0) 45 44, nm1 := fld (w 0) 43 40, ctr := fld (w 0) 9 0, sobj := fld (w 1) 22 0,
    src := (List.range (fld (w 0) 59 56 + 1)).map fun k => shapeDim (w (2 + k)),
    dst := (List.range (fld (w 0) 55 52 + 1)).map fun k => shapeDim (w (12 + k)) }

/-- Elements of a side (11 R340). -/
def extents (ds : List (Nat × Int)) : Nat := ds.foldl (fun n d => n * d.1) 1

/-- The reserved fields of an entry are zero (11 R339). -/
def shapeReserved (ws : List Word) : Bool :=
  let w (i : Nat) : Word := ws.getD i 0
  fld (w 0) 39 10 == 0 && fld (w 1) 63 23 == 0 && (List.range 10).all fun i => w (22 + i) == 0

/-- The dimension words beyond a side's dimensions are zero (11 R339). -/
def shapeUnused (ws : List Word) : Bool :=
  let w (i : Nat) : Word := ws.getD i 0
  let sd := fld (w 0) 59 56 + 1
  let dd := fld (w 0) 55 52 + 1
  decide (sd ≤ 10) && decide (dd ≤ 10) &&
    ((List.range 10).all fun k => decide (k < sd) || w (2 + k) == 0) &&
    (List.range 10).all fun k => decide (k < dd) || w (12 + k) == 0

/-- A COPY entry is valid, its ring apart (11 R340). -/
def shapeOk (banks : List Nat) (ws : List Word) : Bool :=
  let e := Shape.parse ws
  e.kind == 1 && shapeReserved ws && shapeUnused ws && e.cmode != 3 && decide (e.elog2 ≤ 6) && e.rnd != 6 &&
    e.pol != 3 && extents e.src == extents e.dst && decide (extents e.src * 2 ^ e.elog2 ≤ 2 ^ 40) &&
    (e.cmode != 2 || (e.sobj % 16 == 0 && (viewOffs banks e.sobj 16).isSome))

/-- A record that a shape load may enter (11 R341). -/
def recordOk (banks : List Nat) (ws : List Word) : Bool :=
  if (Shape.parse ws).kind = 0 then shapeReserved ws else shapeOk banks ws

/-- Entry k of a shape table (11 R338). -/
def Arch.shape (a : Arch) (k : Nat) : List Word := (List.range 32).map fun i => Tab.get a.shapes 0 (32 * k + i)

/-- The place an engine address word names (07 R225): global memory, own scratchpad, a peer of the gang, NVMe. -/
inductive Side where
  | glob (a : Nat)
  | own (a : Nat)
  | peer (idx a : Nat)
  | nvme (slot a : Nat)
deriving DecidableEq, Repr

/-- An engine address word read; none where it is not valid in a gang of n cores (07 R225). -/
def sideOf (n : Nat) (w : Word) : Option Side :=
  match fld w 63 56 with
  | 0x00 => some (.glob (fld w 55 0))
  | 0x80 => if fld w 55 23 = 0 then some (.own (fld w 22 0)) else none
  | 0x81 => if fld w 55 30 = 0 ∧ fld w 23 22 = 0 ∧ fld w 29 24 < n then some (.peer (fld w 29 24) (fld w 21 0)) else none
  | 0x82 => if fld w 55 52 = 0 then some (.nvme (fld w 51 48) (fld w 47 0)) else none
  | _ => none

/-- The cores of the gang of a number, row-major; core c alone where there is no such gang. -/
def State.gangCores (s : State) (g c : Nat) : List Nat :=
  match Tab.find? s.dev.gangs g with
  | some q => q.cores
  | none => [c]

/-- Least and greatest byte address of a side's walk, with elements of n bytes (11 R340). -/
def walkSpan (base : Nat) (ds : List (Nat × Int)) (n : Nat) : Int × Int :=
  let ends := ds.map fun d => ((d.1 : Int) - 1) * d.2
  ((base : Int) + ends.foldl (fun s x => s + min 0 x) 0,
   (base : Int) + ends.foldl (fun s x => s + max 0 x) 0 + n - 1)

/-- The byte offset of element i of a walk in traversal order (11 R342). -/
def walkOff : List (Nat × Int) → Nat → Int
  | [], _ => 0
  | d :: ds, i => ((i % d.1 : Nat) : Int) * d.2 + walkOff ds (i / d.1)

/-- The address of element i of a side's walk (11 R342). -/
def Side.addr (sd : Side) (ds : List (Nat × Int)) (i : Nat) : Nat :=
  ((match sd with
    | .glob b | .own b | .peer _ b | .nvme _ b => (b : Int)) + walkOff ds i).toNat

/-- The format of the bank that an address of a scratchpad side lies in, core c issuing (11 R343). -/
def State.sideFmt (s : State) (c : Nat) (banks : List Nat) (gang : Nat) (sd : Side) (a : Nat) : Option BFmt :=
  match sd with
  | .own _ => (banks[a / 0x40000 % 16]?).map fun b => (s.core c).bfmt b
  | .peer i _ => ((s.gangCores gang c)[i]?).map fun q => (s.core q).bfmt (a / 0x40000)
  | _ => none

/-- How a copy between two sides moves its elements (11 R343). -/
inductive CopyKind where
  | plain
  | convert (src dst : EType)
  | bad
deriving DecidableEq, Repr

/-- The kind of a copy from the bank formats of its sides (11 R343). -/
def copyKind (a b : Option BFmt) : CopyKind :=
  match a, b with
  | some f, some g =>
    if f = g then .plain
    else if f.grouped ∨ g.grouped then (if f.elem = 0 ∨ g.elem = 0 then .plain else .bad)
    else match f.etype?, g.etype? with
      | some x, some y => .convert x y
      | _, _ => .plain
  | _, _ => .plain

/-- Bytes of an element on the source and the destination side. -/
def copySizes (k : CopyKind) (e : Shape) : Nat × Nat :=
  match k with
  | .convert x y => (EType.width x, EType.width y)
  | _ => (2 ^ e.elog2, 2 ^ e.elog2)

/-- How one element of a copy is moved, and its bytes on the source and the destination side. -/
structure ElemPlan where
  kind : CopyKind
  sn : Nat
  dn : Nat
deriving DecidableEq, Repr

/-- How element i of a copy is moved: by the formats of the banks that its two places lie in (11 R343; log entry 18). -/
def State.elemPlan (s : State) (c : Nat) (banks : List Nat) (gang : Nat) (a b : Side) (e : Shape) (i : Nat) : ElemPlan :=
  let k := copyKind (s.sideFmt c banks gang a (a.addr e.src i)) (s.sideFmt c banks gang b (b.addr e.dst i))
  { kind := k, sn := (copySizes k e).1, dn := (copySizes k e).2 }

/-- An element is converted. -/
def ElemPlan.converts (q : ElemPlan) : Bool :=
  match q.kind with
  | .convert _ _ => true
  | _ => false

/-- Bytes of a namespace's block (11 R361). -/
def Dev.nvBlock (d : Dev) (slot : Nat) : Nat := 2 ^ fld (Tab.get d.cellarRegs 0 (0x100 + 16 * slot)) 59 56

/-- An NVMe side breaks its rule (11 R340). -/
def nvmeBad (d : Dev) (slot a : Nat) (ds : List (Nat × Int)) (n : Nat) : Bool :=
  match ds with
  | [(x, st)] => st != n || a % d.nvBlock slot != 0 || x * n % d.nvBlock slot != 0
  | _ => true

/-- The first bound of 11 R340 that a side's walk breaks; w is its address word. -/
def sideBad (d : Dev) (banks : List Nat) (k : Nat) (sd : Side) (w : Word) (ds : List (Nat × Int)) (n : Nat) :
    Option (Nat × Cause × Word) :=
  match sd with
  | .glob a =>
    let r := walkSpan a ds n
    if r.1 < 0 ∨ r.2 ≥ (2 ^ 56 : Nat) then some (3, .globalRange, w) else none
  | .own a =>
    let r := walkSpan (a % 0x400000) ds n
    if r.1 < 0 ∨ r.2 ≥ ((0x40000 * banks.length : Nat) : Int) then some (2, .spRange, w) else none
  | .peer _ a =>
    let r := walkSpan a ds n
    if r.1 < 0 ∨ r.2 > 0x3FFFFF then some (1, .copyShape, BitVec.ofNat 64 k) else none
  | .nvme slot a => if nvmeBad d slot a ds n then some (1, .copyShape, BitVec.ofNat 64 k) else none

/-- The earlier of two broken checks in the order of 07 R223: shapes, then scratchpad, then global parts. -/
def firstBad : Option (Nat × Cause × Word) → Option (Nat × Cause × Word) → Option (Cause × Word)
  | some a, some b => some (if b.1 < a.1 then b.2 else a.2)
  | some a, none => some a.2
  | none, b => b.map Prod.snd

/-- EINFO of an engine fault (07 R235). -/
def engInfo (eng fn ordinal reason detail : Nat) : Word :=
  BitVec.ofNat 64 (eng % 16 * 2 ^ 60 + fn % 16 * 2 ^ 56 + ordinal % 65536 * 2 ^ 40 + reason % 64 * 2 ^ 32 + detail % 2 ^ 32)

/-- The commands that earlier slots of the open bundle put into a queue (07 R211). -/
def State.stagedCmds (s : State) (eng : Nat) : Nat :=
  match s.bundle with
  | none => 0
  | some b => (b.staged.flatMap fun t => t.plan.acts).countP fun a => match a with
    | .cmd c => c.eng == eng
    | _ => false

/-- An instruction issues an engine command: eng of 07 R210, shape loads among them (07 R235; log entry 17). -/
def Instr.commands : Instr → Bool
  | .cpy _ _ _ _ | .press _ _ _ | .stash _ _ _ | .fetch _ _ | .drop _ | .send _ _ | .arm _ _ | .ctradd _ _ | .rmap _ _
  | .rflush _ | .rinv _ => true
  | _ => false

/-- The engine commands of the earlier slots of the open bundle, whether or not they find a place: they come before in the order
that EINFO numbers (07 R235). -/
def State.stagedAll (s : State) : Nat :=
  match s.bundle with
  | none => 0
  | some b => b.staged.countP fun t => (t.instr.map Instr.commands).getD false

/-- The queue of an eng function code (07 R210). -/
def engOf (fn : Nat) : Nat := if fn = 0 then 0 else if fn = 1 then 1 else if fn < 5 then 2 else if fn < 8 then 3 else 4

/-- A command of the context at the focus, as its bundle commits. -/
def State.newCmd (s : State) (fn : Nat) (sa sb : Word) (qa qb : Nat) : Cmd :=
  { id := 0, eng := engOf fn, fn := fn, place := s.fp, gang := s.fctx.gang, coreIdx := s.fctx.coreIdx,
    field0 := s.fctx.field0, ordinal := 0, sa := sa, sb := sb, qa := qa, qb := qb, priv := s.fctx.arch.priv,
    mbt := s.fctx.arch.mbt, stage := s.fctx.arch.stage, shape := [], md := 0, sr := 0, banks := s.fctx.banks,
    range := [], order := 0, accOrd := 0, st := .queued, data := [], aux := 0, page := none,
    waitTiles := [], cells := [], bad := none }

/-- A command placed in its queue, or a block while the queue has no place (07 R211). -/
def State.cmdPlan (s : State) (p : SlotPlan) (c : Cmd) (acts : List Act) : SlotPlan :=
  if (s.fcore.cmds.countP fun m => m.eng == c.eng) + s.stagedCmds c.eng + 1 > Config.queuePlaces then
    p.blocking (.queuePlaces c.eng (s.stagedCmds c.eng + 1))
  else { p with acts := acts ++ [.cmd c] }

/-- The rounding of a command with its own mode field, 7 naming RMODE.MODE, and its draw (11 R343, R349). -/
def State.cmdMode (s : State) (rnd : Nat) (draws : Bool) : Nat × Word × List Act :=
  let md := if rnd = 7 then fld s.fctx.arch.rmode 2 0 else rnd
  if md = 5 ∧ draws then (md, srNext s.rngsNow, [.rngs (srNext s.rngsNow)]) else (md, s.rngsNow, [])

/-- A copy under a COPY entry (07 R225; 11 R340, R343). -/
def copyPlan (sa sb : Word) (h q : Nat) (ws : List Word) (s : State) (p : SlotPlan) : SlotPlan :=
  let e := Shape.parse ws
  let x := s.fctx
  let n := (s.gangCores x.gang s.fc).length
  match sideOf n sa, sideOf n sb with
  | some a, some b =>
    if !shapeOk x.banks ws || (if e.cmode = 0 then !(s.fcore.ring q).valid else q != 0) then
      p.fail .copyShape (BitVec.ofNat 64 h)
    else
      let z := s.elemPlan s.fc x.banks x.gang a b e
      match firstBad (sideBad s.dev x.banks h a sa e.src (z 0).sn) (sideBad s.dev x.banks h b sb e.dst (z 0).dn) with
      | some f => p.fail f.1 f.2
      | none =>
        let m := s.cmdMode e.rnd ((List.range (extents e.src)).any fun i => (z i).converts)
        let c : Cmd := { s.newCmd 0 sa sb 0 q with shape := ws, md := m.1, sr := m.2.1 }
        s.cmdPlan p c (m.2.2 ++ if e.cmode = 0 then [.ringSide q true] else [])
  | _, _ => p.fail .copyShape (BitVec.ofNat 64 h)

/-- The first page of a global range whose translation for a load does not answer an address, with what it answers. -/
def State.loadBar (s : State) (va n : Nat) : Option (Nat × XOut) :=
  (List.range ((va % 0x10000 + n + 0xFFFF) / 0x10000)).findSome? fun i =>
    let a := max va (va / 0x10000 * 0x10000 + i * 0x10000)
    match s.translate s.fc s.fctx .read a with
    | .ok _ => none
    | o => some (a, o)

/-- The records a shape load has read, checked, and entered, beside the TLB conflicts met on the way (11 R341; 10 R324). -/
def recordsPlan (h : Nat) (ws : List Word) (met : List Act) (s : State) (p : SlotPlan) : SlotPlan :=
  match (List.range (ws.length / 32)).find? fun i => !recordOk s.fctx.banks ((ws.drop (32 * i)).take 32) with
  | some i => p.fail .copyShape (BitVec.ofNat 64 (h + i))
  | none => { p with acts := met ++ [.shapes h ws] }

/-- The records read for a context's shape load from n bytes at an address (11 R341). -/
def Ctx.recordsOf (x : Ctx) (glob : Bool) (a n : Nat) : Option (List Word) :=
  (x.loaded.find? fun q => q.1 == (glob, a, n)).map Prod.snd

/-- The TLB conflicts of the pages of a global range (10 R324). -/
def State.pageConflicts (s : State) (a n : Nat) : List Act :=
  (List.range ((a % 0x10000 + n + 0xFFFF) / 0x10000)).flatMap fun i =>
    s.conflictActs (BitVec.ofNat 64 (max a (a / 0x10000 * 0x10000 + i * 0x10000)))

/-- The first byte of an engine's access that lies in a core-owned tile (08 R254). -/
def Core.coreOwnedAt (k : Core) (offs : List Nat) : Option Nat := offs.find? fun o => !k.engineOwns (tileOf o)

/-- A shape load (11 R341): the context blocks while the copy engine reads the records. The read is the engine's access: in a
core-owned tile it faults OWNER, an ENGINE_FAULT raised at issue (07 R235; 08 R254). -/
def shapePlan (sa sb : Word) (h q nm1 : Nat) (s : State) (p : SlotPlan) : SlotPlan :=
  let n := 256 * (nm1 + 1)
  let wait (glob : Bool) (a : Nat) : SlotPlan :=
    match s.fctx.recordsOf glob a n with
    | some ws => recordsPlan h ws (if glob then s.pageConflicts a n else []) s p
    | none => p.blocking (.shapes glob a n)
  if sb ≠ 0 ∨ q ≠ 0 ∨ h + nm1 > 15 then p.fail .copyShape (BitVec.ofNat 64 h)
  else match sideOf 0 sa with
    | some (.glob a) =>
      if a + n > 2 ^ 56 then p.fail .globalRange sa
      else match s.loadBar a n with
        | some (va, .fault c) => p.fail c (BitVec.ofNat 64 va)
        | some (va, .miss) => p.waiting (.xlate va)
        | some (_, .migrate g) => p.waiting (.migrate g)
        | _ => wait true a
    | some (.own a) =>
      (match viewOffs s.fctx.banks a n with
        | none => p.fail .spRange sa
        | some offs =>
          match (if (s.fctx.recordsOf false a n).isSome then none else s.fcore.coreOwnedAt offs) with
          | some o => p.fail .engineFault (engInfo 0 0 (s.fctx.cmds + s.stagedAll) Cause.owner.code.toNat o)
          | none =>
            if (s.fcore.unfilledOf offs).isEmpty then wait false a else p.blocking (.fill (s.fcore.unfilledOf offs)))
    | _ => p.fail .copyShape (BitVec.ofNat 64 h)

/-- cpy (07 R225; 11 R340, R341). The ring is a ring name only when the entry completes by ring. -/
def cpyPlan (a b : SReg) (h : BitVec 4) (q : BitVec 5) (s : State) : SlotPlan :=
  let ws := s.fctx.arch.shape h.toNat
  let e := Shape.parse ws
  let p : SlotPlan :=
    { SlotPlan.empty with
      names := [rS a, rS b] ++ (if e.kind = 1 ∧ e.cmode = 0 then [rQ q] else []), reads := [rS a, rS b] }
  if e.kind = 0 then shapePlan (s.sreg a) (s.sreg b) h.toNat q.toNat e.nm1 s p
  else copyPlan (s.sreg a) (s.sreg b) h.toNat q.toNat ws s p

/-- CPY: a shaped copy, or a shape load (07 R225). -/
def execCpy (a b : SReg) (h : BitVec 4) (q : BitVec 5) (s : State) : Host.Outcome State Fault Refusal :=
  runSlot (.cpy a b h q) (cpyPlan a b h q) s

/-- A press parameter word is well formed (07 R226). -/
def pressOk (w : Word) (qa qb : Nat) : Bool :=
  decide (fld w 11 8 ≤ 2) && fld w 6 4 != 6 && qa != qb &&
    (if fld w 11 8 = 0 then decide (1 ≤ fld w 15 12) && decide (fld w 15 12 ≤ 8) else fld w 15 12 == 0)

/-- press (07 R224, R226). The manual states no DETAIL for a malformed word: a free value. -/
def pressPlan (a : SReg) (qa qb : BitVec 5) (s : State) : SlotPlan :=
  let p : SlotPlan := { SlotPlan.empty with names := [rS a, rQ qa, rQ qb], reads := [rS a] }
  let w := s.sreg a
  if !pressOk w qa.toNat qb.toNat then
    p.fail .engineFault
      (engInfo 1 1 (s.fctx.cmds + s.stagedAll) 0 (Config.freeWord (freeKey s.free 1)).toNat)
  else if !(s.fcore.ring qa.toNat).valid then p.fail .ringState (qa.setWidth 64)
  else if !(s.fcore.ring qb.toNat).valid then p.fail .ringState (qb.setWidth 64)
  else
    let m := s.cmdMode (fld w 6 4) true
    s.cmdPlan p { s.newCmd 1 w 0 qa.toNat qb.toNat with md := m.1, sr := m.2.1 }
      (m.2.2 ++ [.ringSide qa.toNat false, .ringSide qb.toNat true])

/-- PRESS: slots quantised (07 R226). -/
def execPress (a : SReg) (p q : BitVec 5) (s : State) : Host.Outcome State Fault Refusal :=
  runSlot (.press a p q) (pressPlan a p q) s

/-- A command on one valid ring (07 R223). -/
def ringCmdPlan (p : SlotPlan) (q : BitVec 5) (producer : Bool) (c : State → Cmd) (s : State) : SlotPlan :=
  if !(s.fcore.ring q.toNat).valid then p.fail .ringState (q.setWidth 64)
  else s.cmdPlan p (c s) [.ringSide q.toNat producer]

/-- STASH: slots stored under a key (07 R228). -/
def execStash (a b : SReg) (q : BitVec 5) (s : State) : Host.Outcome State Fault Refusal :=
  runSlot (.stash a b q)
    (ringCmdPlan { SlotPlan.empty with names := [rS a, rS b, rQ q], reads := [rS a, rS b] } q false
      (fun s => s.newCmd 2 (s.sreg a) (s.sreg b) q.toNat 0)) s

/-- FETCH: an entry brought back (07 R229). -/
def execFetch (a : SReg) (q : BitVec 5) (s : State) : Host.Outcome State Fault Refusal :=
  runSlot (.fetch a q)
    (ringCmdPlan { SlotPlan.empty with names := [rS a, rQ q], reads := [rS a] } q true
      (fun s => s.newCmd 3 (s.sreg a) 0 0 q.toNat)) s

/-- DROP: an entry forgotten (07 R230). -/
def execDrop (a : SReg) (s : State) : Host.Outcome State Fault Refusal :=
  runSlot (.drop a)
    (fun s => s.cmdPlan { SlotPlan.empty with names := [rS a], reads := [rS a] } (s.newCmd 4 (s.sreg a) 0 0 0) []) s

/-- send (07 R231). -/
def sendPlan (c : BitVec 8) (q : BitVec 5) (s : State) : SlotPlan :=
  let p : SlotPlan := { SlotPlan.empty with names := [rQ q] }
  if !s.dev.chanOk c.toNat then p.fail .channelMismatch (c.setWidth 64)
  else ringCmdPlan p q false (fun s => { s.newCmd 5 0 0 q.toNat 0 with aux := c.toNat }) s

/-- SEND: slots over a channel (07 R231). -/
def execSend (c : BitVec 8) (q : BitVec 5) (s : State) : Host.Outcome State Fault Refusal :=
  runSlot (.send c q) (sendPlan c q) s

/-- arm (07 R232): the record is read as the bundle commits. -/
def armPlan (a b : SReg) (s : State) : SlotPlan :=
  let p : SlotPlan := { SlotPlan.empty with names := [rS a, rS b], reads := [rS a, rS b] }
  let sa := s.sreg a
  let sb := s.sreg b
  if sb.toNat > 4095 then p.fail .triggerTable sb
  else match (if fld sa 63 23 ≠ 0 then none else viewOffs s.fctx.banks sa.toNat 64) with
    | none => p.fail .spRange sa
    | some offs =>
      if sa.toNat % 64 ≠ 0 then p.fail .align sa
      else if offs.any fun o => s.fcore.engineOwns (tileOf o) then p.fail .owner sa
      else if !(s.fcore.unfilledOf offs).isEmpty then p.blocking (.fill (s.fcore.unfilledOf offs))
      else s.cmdPlan p { s.newCmd 6 sa sb 0 0 with aux := offs.headD 0 } []

/-- ARM: a Trellis entry posted (07 R232). -/
def execArm (a b : SReg) (s : State) : Host.Outcome State Fault Refusal := runSlot (.arm a b) (armPlan a b) s

/-- CTRADD: a counter raised (07 R232). -/
def execCtradd (a b : SReg) (s : State) : Host.Outcome State Fault Refusal :=
  runSlot (.ctradd a b)
    (fun s =>
      let p : SlotPlan := { SlotPlan.empty with names := [rS a, rS b], reads := [rS a, rS b] }
      if (s.sreg a).toNat > 1023 then p.fail .triggerTable (s.sreg a)
      else s.cmdPlan p (s.newCmd 7 (s.sreg a) (s.sreg b) 0 0) []) s

/-- The valid stage slot that serves a stage, the lowest (09 R306). -/
def Dev.stageSlot (d : Dev) (stage : Nat) : Option Nat :=
  (List.range 4).find? fun k => bit (Tab.get d.vintTab 0 (40 * k)) 63 && fld (Tab.get d.vintTab 0 (40 * k)) 15 0 == stage

/-- The global base of an rmap: through the base of the context's vintage; none where no slot serves its stage (09
R309). -/
def State.rmapBase (s : State) (vint : Bool) (sb : Word) : Option Word :=
  if vint then
    (s.dev.stageSlot (fld s.fctx.arch.stage 15 0)).map fun k =>
      sb + Tab.get s.dev.vintTab 0 (40 * k + 8 + 4 * fld s.fctx.arch.vint 2 0)
  else some sb

/-- Two ranges meet. -/
def rangesMeet (a n b m : Nat) : Bool := decide (a < b + m) && decide (b < a + n)

/-- A region conflicts with another of its context (08 R255). -/
def Region.meets (r t : Region) : Bool :=
  rangesMeet r.first r.count t.first t.count || rangesMeet r.base (0x2000 * r.count) t.base (0x2000 * t.count)

/-- The regions of the context at the focus with those of earlier slots (08 R255). -/
def State.regionsNow (s : State) : List Region :=
  s.fctx.regions ++ (match s.bundle with
    | none => []
    | some b => (b.staged.flatMap fun t => t.plan.acts).filterMap fun a => match a with
      | .regionMap r => some r
      | _ => none)

/-- rmap (07 R233; 08 R255; 09 R309). -/
def rmapPlan (a b : SReg) (s : State) : SlotPlan :=
  let p : SlotPlan := { SlotPlan.empty with names := [rS a, rS b], reads := [rS a, rS b] }
  let sa := s.sreg a
  let sb := s.sreg b
  match rangePhys s.fctx.banks sa with
  | none => p.fail .spRange sa
  | some ts =>
    if ts.any s.fcore.engineOwns then p.fail .owner sa
    else if fld sb 63 56 ≠ 0 then p.fail .globalRange sb
    else if sb.toNat % 64 ≠ 0 then p.fail .align sb
    else match s.rmapBase (bit sa 31) sb with
      | none => p.fail .vintage sa
      | some base =>
        let r : Region := { first := fld sa 8 0, count := fld sa 17 9 + 1, base := base.toNat, vint := bit sa 31 }
        if s.regionsNow.length ≥ 8 ∨ s.regionsNow.any r.meets then p.fail .regionConflict sa
        else s.cmdPlan p { s.newCmd 8 sa sb 0 0 with range := ts } [.regionMap r]

/-- RMAP: tiles mapped onto global memory (07 R233). -/
def execRmap (a b : SReg) (s : State) : Host.Outcome State Fault Refusal := runSlot (.rmap a b) (rmapPlan a b) s

/-- rflush and rinv (07 R233). -/
def regionPlan (fn : Nat) (a : SReg) (s : State) : SlotPlan :=
  let p : SlotPlan := { SlotPlan.empty with names := [rS a], reads := [rS a] }
  let sa := s.sreg a
  match rangePhys s.fctx.banks sa with
  | none => p.fail .spRange sa
  | some ts =>
    if (rangeTiles sa).all fun t => s.fctx.regions.any fun r => decide (r.first ≤ t) && decide (t < r.first + r.count) then
      s.cmdPlan p { s.newCmd fn sa 0 0 0 with range := ts } []
    else p.fail .regionUnmapped sa

/-- RFLUSH: dirty bytes written back (07 R233). -/
def execRflush (a : SReg) (s : State) : Host.Outcome State Fault Refusal := runSlot (.rflush a) (regionPlan 9 a) s

/-- RINV: dirty bytes discarded and tiles unmapped (07 R233). -/
def execRinv (a : SReg) (s : State) : Host.Outcome State Fault Refusal := runSlot (.rinv a) (regionPlan 10 a) s

end Sys2Proof.Machine
end

