-- ==== Sys2Proof/Machine/RingOps.lean ====
section
/-! DEFINITION. Ring instructions (07 R218 to R223) and sync-object instructions (07 R236 to R239). -/

namespace Sys2Proof.Machine

/-- waitf (07 R218). -/
def waitfPlan (q : BitVec 5) (s : State) : SlotPlan :=
  let r := s.fcore.ring q.toNat
  let p : SlotPlan := { SlotPlan.empty with names := [rQ q] }
  if r.cside then p.fail .ringState (q.setWidth 64) else if r.occ = 0 then p.blocking (.ringFilled q.toNat) else p

/-- WAITF: blocks while a ring is empty (07 R218). -/
def execWaitf (q : BitVec 5) (s : State) : Host.Outcome State Fault Refusal := runSlot (.waitf q) (waitfPlan q) s

/-- waitr (07 R218). -/
def waitrPlan (q : BitVec 5) (s : State) : SlotPlan :=
  let r := s.fcore.ring q.toNat
  let p : SlotPlan := { SlotPlan.empty with names := [rQ q] }
  if r.pside then p.fail .ringState (q.setWidth 64) else if r.occ = r.count then p.blocking (.ringRoom q.toNat) else p

/-- WAITR: blocks while a ring is full (07 R218). -/
def execWaitr (q : BitVec 5) (s : State) : Host.Outcome State Fault Refusal := runSlot (.waitr q) (waitrPlan q) s

/-- rels (07 R219). -/
def relsPlan (q : BitVec 5) (s : State) : SlotPlan :=
  let r := s.fcore.ring q.toNat
  let p : SlotPlan := { SlotPlan.empty with names := [rQ q] }
  if !r.valid || r.cside || r.occ == 0 then p.fail .ringState (q.setWidth 64) else { p with acts := [.rels q.toNat] }

/-- RELS: the consumer's release (07 R219). -/
def execRels (q : BitVec 5) (s : State) : Host.Outcome State Fault Refusal := runSlot (.rels q) (relsPlan q) s

/-- radv (07 R219). -/
def radvPlan (q : BitVec 5) (s : State) : SlotPlan :=
  let r := s.fcore.ring q.toNat
  let p : SlotPlan := { SlotPlan.empty with names := [rQ q] }
  if !r.valid || r.pside || r.occ == r.count then p.fail .ringState (q.setWidth 64) else { p with acts := [.radv q.toNat] }

/-- RADV: the producer's advance (07 R219). -/
def execRadv (q : BitVec 5) (s : State) : Host.Outcome State Fault Refusal := runSlot (.radv q) (radvPlan q) s

/-- own (07 R221). -/
def ownPlan (a : SReg) (s : State) : SlotPlan :=
  let p : SlotPlan := { SlotPlan.empty with names := [rS a], reads := [rS a] }
  let sa := s.sreg a
  match rangePhys s.fctx.banks sa with
  | none => p.fail .spRange sa
  | some ts =>
    if ts.any s.fcore.engineRingTiles.contains then p.fail .ringState sa else { p with acts := [.own ts (bit sa 24)] }

/-- OWN: owner bits set (07 R221). -/
def execOwn (a : SReg) (s : State) : Host.Outcome State Fault Refusal := runSlot (.own a) (ownPlan a) s

/-- VJOIN: the views joined (07 R223). -/
def execVjoin (s : State) : Host.Outcome State Fault Refusal :=
  runSlot .vjoin (fun _ => { SlotPlan.empty with acts := [.vjoin] }) s

/-- The rings a command names: its input and its output (07 R213, R220). -/
def Cmd.rings (c : Cmd) : List Nat :=
  (if c.fn = 1 ∨ c.fn = 2 ∨ c.fn = 5 then [c.qa] else []) ++
    (if c.fn = 1 ∨ c.fn = 3 ∨ (c.fn = 0 ∧ (Shape.parse c.shape).cmode = 0) then [c.qb] else [])

/-- The ring that rinit makes of a descriptor word whose extent is the given tiles (07 R215, R220). -/
def ringOf (w : Word) (ts : List Nat) : Ring :=
  { Ring.reset with
    valid := true, perm1 := fld w 46 41, countm1 := fld w 40 35, slotm1 := fld w 34 30, first := ts.headD 0, tiles := ts }

/-- rinit (07 R220). -/
def rinitPlan (q : BitVec 5) (a : SReg) (s : State) : SlotPlan :=
  let p : SlotPlan := { SlotPlan.empty with names := [rQ q, rS a], reads := [rS a] }
  let w := s.sreg a
  if s.fcore.cmds.any fun c => c.rings.contains q.toNat then p.fail .ringState (q.setWidth 64)
  else if !bit w 63 then { p with acts := [.rinit q.toNat Ring.reset] }
  else if fld w 46 41 > fld w 40 35 ∨ fld w 40 35 = 0 then p.fail .ringState (q.setWidth 64)
  else
    match ((List.range ((fld w 40 35 + 1) * (fld w 34 30 + 1))).map fun i => fld w 29 21 + i).mapM (viewTile s.fctx.banks) with
    | none => p.fail .spRange w
    | some ts => { p with acts := [.rinit q.toNat (ringOf w ts)] }

/-- RINIT: a ring initialised (07 R220). -/
def execRinit (q : BitVec 5) (a : SReg) (s : State) : Host.Outcome State Fault Refusal := runSlot (.rinit q a) (rinitPlan q a) s

/-- The checks of a sync object's address (07 R239), and what follows with its physical offset. -/
def State.syncPlan (s : State) (p : SlotPlan) (sa : Word) (f : Nat → SlotPlan) : SlotPlan :=
  match s.spCheck sa 16 16 with
  | .fault c => p.fail c sa
  | .fill ts => p.blocking (.fill ts)
  | .ok offs => f (offs.headD 0)

/-- ARRIVE: one arrival (07 R237). -/
def execArrive (a : SReg) (s : State) : Host.Outcome State Fault Refusal :=
  runSlot (.arrive a)
    (fun s =>
      let p : SlotPlan := { SlotPlan.empty with names := [rS a], reads := [rS a] }
      s.syncPlan p (s.sreg a) fun o => { p with acts := [.arrive o none (s.sreg a)] }) s

/-- ARRIVEB: one arrival and a decrement of bytes (07 R237). -/
def execArriveb (a b : SReg) (s : State) : Host.Outcome State Fault Refusal :=
  runSlot (.arriveb a b)
    (fun s =>
      let p : SlotPlan := { SlotPlan.empty with names := [rS a, rS b], reads := [rS a, rS b] }
      s.syncPlan p (s.sreg a) fun o => { p with acts := [.arrive o (some (s.sreg b)) (s.sreg a)] }) s

/-- waitph (07 R238). -/
def waitphPlan (a : SReg) (ph : Bool) (s : State) : SlotPlan :=
  let p : SlotPlan := { SlotPlan.empty with names := [rS a], reads := [rS a] }
  s.syncPlan p (s.sreg a) fun o =>
    if bit (s.fcore.spWord o) 63 = ph then p.blocking (.phase o ph) else p

/-- WAITPH: blocks until a phase has completed (07 R238). -/
def execWaitph (a : SReg) (ph : Bool) (s : State) : Host.Outcome State Fault Refusal :=
  runSlot (.waitph a ph) (waitphPlan a ph) s

end Sys2Proof.Machine
end

