-- ==== Sys2Proof/Machine/Slew.lean ====
section
/-! DEFINITION. The slew limiter (13 R405 to R407) and the release of a gang's sync line (07 R240). -/

namespace Sys2Proof.Machine

/-- A cluster's limiter with nothing under way. -/
def Cluster.reset : Cluster :=
  { claims := [], rampStart := none, rampStep := 0, lastEst := 0, downRun := 0, fillers := 0, hot := false }

/-- The limiter of cluster k. -/
def Dev.cluster (d : Dev) (k : Nat) : Cluster := Tab.get d.clusters Cluster.reset k

/-- The state with a cluster's limiter changed. -/
def State.modCluster (s : State) (k : Nat) (f : Cluster → Cluster) : State :=
  s.modDev fun d => { d with clusters := Tab.set d.clusters k (f (d.cluster k)) }

/-- EN of the ramp table (13 R405). -/
def Dev.slewOn (d : Dev) : Bool := bit (Tab.get d.rampTab 0 16) 63

/-- UP and DOWN of step i (13 R405). -/
def Dev.rampUp (d : Dev) (i : Nat) : Nat := fld (Tab.get d.rampTab 0 (min i 15)) 31 16
def Dev.rampDown (d : Dev) (i : Nat) : Nat := fld (Tab.get d.rampTab 0 (min i 15)) 15 0

/-- A claim granted: SKEW of its core becomes the cycles it waited, 0 with EN = 0 (13 R406). -/
def State.grantClaim (s : State) (c : Claim) : State :=
  s.modCore c.core fun k => { k with skew := if s.dev.slewOn then BitVec.ofNat 64 (s.cycle - c.made) else 0 }

/-- The claims of a list that one step grants, with those left (13 R406). -/
def grantStep (up : Nat) : Nat → List Claim → List Claim × List Claim
  | _, [] => ([], [])
  | sum, c :: cs =>
    if sum + c.size > up ∧ sum > 0 then ([], c :: cs)
    else
      let r := grantStep up (sum + c.size) cs
      (c :: r.1, r.2)

/-- A cluster's cores are clamped: no claim is granted (13 R413). -/
def State.clampedCluster (s : State) (k : Nat) : Bool := (clusterCores k).any fun c => (s.core c).clamped

/-- A claim made for a core: granted at once with EN = 0, else at the tail of its cluster's queue, where a first claim
begins a ramp (13 R406). -/
def State.makeClaim (s : State) (core size : Nat) (places : List Nat) : State :=
  let c : Claim := { core := core, size := size, made := s.cycle, places := places }
  if s.dev.slewOn || s.clampedCluster (clusterOf core) then
    s.modCluster (clusterOf core) fun k =>
      if k.claims.isEmpty then { k with claims := [c], rampStart := some s.cycle, rampStep := 0 }
      else { k with claims := k.claims ++ [c] }
  else s.grantClaim c

/-- The step of a cluster's ramp that the present cycle lies in (13 R406). -/
def State.rampNow (s : State) (k : Nat) : Nat := (s.cycle - ((s.dev.cluster k).rampStart.getD s.cycle)) / 4

/-- A cluster's limiter may grant now: at the first cycle of a step of its ramp that has not granted yet. The steps that pass while
the cluster is clamped grant nothing, then or later (13 R406, R413). -/
def State.rampDue (s : State) (k : Nat) : Bool :=
  let q := s.dev.cluster k
  !q.claims.isEmpty && !s.clampedCluster k && (!s.dev.slewOn || (match q.rampStart with
    | some t => decide ((s.cycle - t) % 4 = 0) && decide (q.rampStep ≤ s.rampNow k)
    | none => true))

/-- One step of a ramp (13 R406). -/
def State.claimStep (s : State) (k : Nat) : State :=
  if s.rampDue k then
    let q := s.dev.cluster k
    let i := s.rampNow k
    let r := if s.dev.slewOn then grantStep (s.dev.rampUp i) 0 q.claims else (q.claims, [])
    (r.1.foldl State.grantClaim s).modCluster k fun q =>
      { q with claims := r.2, rampStep := i + 1, rampStart := if r.2.isEmpty then none else q.rampStart }
  else s

/-- CLAIM_GRANT: the step of a ramp (13 R406). -/
def execClaimGrant (cluster : Nat) (s : State) : Host.Outcome State Fault Refusal := .next (s.claimStep cluster)

/-- A context waits for its core's claim (13 R406). -/
def State.staggered (s : State) (c p : Nat) : Bool :=
  (s.dev.cluster (clusterOf c)).claims.any fun q => q.core == c && q.places.contains p

/-- Beats issued by the cores of a cluster in the four cycles from one (13 R407). -/
def State.beatsFrom (s : State) (k from' : Nat) : Nat :=
  (clusterCores k).foldl (fun n c =>
    n + ((s.core c).beats.filter fun t => decide (from' ≤ t) && decide (t < from' + 4)).length) 0

/-- Free places for filler beats in those cycles: none where the core issues a matrix operation, nor on an odd cycle under LIMIT
4 (06 R203; 13 R407). -/
def State.fillerRoom (s : State) (k from' : Nat) : Nat :=
  (clusterCores k).foldl (fun n c =>
    let q := s.core c
    n + ((List.range 4).filter fun i =>
      !q.mats.contains (from' + i) && !(fld q.slotmask 2 0 == 4 && (from' + i) % 2 == 1)).length) 0

/-- Fewest filler beats that bring a fall to at most down, in units of BEATA ÷ 4 (13 R407). -/
def fillersNeeded (beata b last down : Nat) : Nat :=
  if beata = 0 ∨ last ≤ beata * b + 4 * down then 0 else (last - 4 * down - beata * b + beata - 1) / beata

/-- The ramp-down judged for the 4-cycle step that ends with this cycle (13 R407). Estimates are four times those of the
manual. -/
def State.rampDownOnce (s : State) (k : Nat) : State :=
  let q := s.dev.cluster k
  let from' := s.cycle / 4 * 4
  let beata := fld (Tab.get s.dev.rampTab 0 16) 15 0
  let b := s.beatsFrom k from'
  let need := if s.dev.slewOn then fillersNeeded beata b q.lastEst (s.dev.rampDown q.downRun) else 0
  let put := min need (s.fillerRoom k from')
  s.modCluster k fun q =>
    { q with lastEst := beata * (b + put), downRun := if need = 0 then 0 else q.downRun + 1, fillers := q.fillers + put }

/-- RAMP_DOWN_STEP: filler beats (13 R407). -/
def execRampDownStep (cluster : Nat) (s : State) : Host.Outcome State Fault Refusal := .next (s.rampDownOnce cluster)

/-- The contexts of a gang on a core. -/
def State.gangCtxs (s : State) (g c : Nat) : List (Nat × Ctx) := (s.core c).ctxs.filter fun q => q.2.gang == g

/-- A context blocked at sync whose accesses have been performed. -/
def Ctx.atSync (x : Ctx) : Bool :=
  x.syncIn && (match x.run with | .blocked .sync _ => true | _ => false)

/-- A core contributes to a gang's line: every context of the group that has not retired stands at sync (07 R240). -/
def State.contributes (s : State) (g c : Nat) : Bool :=
  (s.gangCtxs g c).all fun q => q.2.run == .retired || q.2.atSync

/-- The gang's line may be released: every core contributes and some context waits (07 R240). -/
def State.syncReady (s : State) (g : Nat) : Bool :=
  match Tab.find? s.dev.gangs g with
  | none => false
  | some q => q.cores.all (s.contributes g) && q.cores.any fun c => (s.gangCtxs g c).any fun r => r.2.atSync

/-- The contexts of a core released from their sync. -/
def releaseSync (g : Nat) (cs : Tab Ctx) : Tab Ctx :=
  cs.map fun q => if q.2.gang = g ∧ q.2.atSync then (q.1, { q.2 with run := .ready, syncIn := false, actIn := true }) else q

/-- SYNC_RELEASE: every core of the gang sees the release in one cycle; a claim is made for each (07 R240; 13 R406). -/
def execSyncRelease (gang : Nat) (s : State) : Host.Outcome State Fault Refusal :=
  .next (match Tab.find? s.dev.gangs gang with
    | none => s
    | some q =>
      if s.syncReady gang then
        q.cores.foldl (fun s c =>
          let places := ((s.gangCtxs gang c).filter fun r => r.2.atSync).map Prod.fst
          (s.modCore c fun k => { k with ctxs := releaseSync gang k.ctxs }).makeClaim c (s.classCur q.cool) places) s
      else s)

end Sys2Proof.Machine
end

