-- ==== Sys2Proof/Machine/Agents.lean ====
section
/-! DEFINITION. What the device's agents share: traps delivered to a context wherever it is (07 R234; 10 R316), arrivals
at the Sheepdog (09 R297), the places fabric and Trellis operations name and how they read and write them (12 R386 to
R389), and the Trellis with its counters (12 R382 to R385) and collective groups (12 R391, R393). -/

namespace Sys2Proof.Machine

/-- A context is that of a gang with a core index and a field-0 index (09 R289). -/
def Ctx.isThe (x : Ctx) (g ci f0 : Nat) : Bool := x.gang == g && x.coreIdx == ci && x.field0 == f0

/-- Where a context of a gang stands, unless it has retired. -/
def State.findCtx (s : State) (g ci f0 : Nat) : Option (Nat × Nat) :=
  (s.allCtxs.find? fun q => q.2.2.isThe g ci f0 && q.2.2.run != .retired).map fun q => (q.1, q.2.1)

/-- A trap made pending for a context that pre-emption has saved. -/
def SavedGroup.pend (h : SavedGroup) (g ci f0 : Nat) (c : Cause) (info : Word) : SavedGroup :=
  { h with ctxs := h.ctxs.map fun v => if v.ctx.isThe g ci f0 ∧ v.ctx.run ≠ .retired then { v with ctx := v.ctx.pend c info } else v }

/-- A trap made pending for a context of a gang, placed or saved (07 R234; 10 R316). -/
def State.pendFor (s : State) (g ci f0 : Nat) (c : Cause) (info : Word) : State :=
  match s.findCtx g ci f0 with
  | some q => s.pend q.1 q.2 c info
  | none => s.modDev fun d =>
    { d with gangs := d.gangs.map fun q =>
        if q.1 = g then (q.1, { q.2 with groups := q.2.groups.map fun h => h.pend g ci f0 c info }) else q }

/-- A saved context of a gang has not retired. -/
def Gang.keeps (q : Gang) (g ci f0 : Nat) : Bool :=
  q.groups.any fun h => h.ctxs.any fun v => v.ctx.isThe g ci f0 && v.ctx.run != .retired

/-- A context of a gang has not retired, placed or saved. -/
def State.alive (s : State) (g ci f0 : Nat) : Bool :=
  (s.findCtx g ci f0).isSome || (match Tab.find? s.dev.gangs g with
    | some q => q.keeps g ci f0
    | none => false)

/-- A trap for the lead context of a gang (10 R316). -/
def State.pendLead (s : State) (g : Nat) (c : Cause) (info : Word) : State := s.pendFor g 0 0 c info

/-- The gangs placed on a core that a test picks. -/
def State.gangsOn (s : State) (f : Nat → Bool) : List Nat := (s.placed.filter fun g => g.2.cores.any f).map Prod.fst

/-- An arrival queue of the Sheepdog. -/
def Dev.arrivalsOf (d : Dev) (q : Nat) : List Arrival := Tab.get d.arrivals [] q

/-- An arrival enters Sheepdog queue q, merged with an equal one that waits there (09 R297). -/
def Dev.enterArr (d : Dev) (q : Nat) (a : Arrival) : Dev :=
  if (d.arrivalsOf q).contains a then d
  else { d with arrivals := Tab.set d.arrivals q (d.arrivalsOf q ++ [a]), dogDue := true }

/-- A Sheepdog queue has no place for one more arrival: it is full, or what is held for it comes first (09 R297). -/
def Dev.arrFull (d : Dev) (q : Nat) : Bool :=
  decide (512 ≤ (d.arrivalsOf q).length) || d.heldArr.any fun h => h.1 == q

/-- An arrival at Sheepdog queue q: merged with one that waits, entered, or held while the queue has no place (09 R297). -/
def Dev.arrive (d : Dev) (q : Nat) (a : Arrival) : Dev :=
  if (d.arrivalsOf q).contains a || !d.arrFull q then d.enterArr q a else { d with heldArr := d.heldArr ++ [(q, a)] }

/-- A place that a fabric or Trellis address word names (12 R386). -/
inductive FSide where
  | glob (a : Nat)
  | sp (core off : Nat)
deriving DecidableEq, Repr

/-- An address word of a Trellis entry or a message, for n bytes; none where it breaks a rule (12 R386). -/
def fabSide (w : Word) (n : Nat) : Option FSide :=
  match fld w 63 56 with
  | 0x00 => if fld w 55 0 + n ≤ 2 ^ 56 then some (.glob (fld w 55 0)) else none
  | 0x84 =>
    if fld w 55 41 = 0 ∧ fld w 31 22 = 0 ∧ fld w 40 32 < 288 ∧ fld w 21 0 + n ≤ 2 ^ 22 then
      some (.sp (fld w 40 32) (fld w 21 0))
    else none
  | _ => none

/-- The tiles that n bytes from a physical offset lie in. -/
def tilesOf (off n : Nat) : List Nat :=
  if n = 0 then [] else (List.range ((off + n - 1) / 0x2000 - off / 0x2000 + 1)).map fun i => off / 0x2000 + i

/-- Scratchpad bytes left undefined (07 R222, R233, R234). -/
def State.undefSp (s : State) (c off n : Nat) : State :=
  if n = 0 then s
  else (s.modCore c fun k => { k with undef := ⟨off, n, freeKey s.free 4, off⟩ :: k.undef }).takeFree 1

/-- Global bytes left undefined. -/
def State.undefGl (s : State) (pa n : Nat) : State :=
  if n = 0 then s
  else (s.modDev fun d => { d with memUndef := ⟨pa, n, freeKey s.free 4, pa⟩ :: d.memUndef }).takeFree 1

/-- The parts of a range of addresses that lie in one 64 KiB page each: where each begins, and its length. -/
def pageParts (a n : Nat) : List (Nat × Nat) :=
  (List.range ((a % 0x10000 + n + 0xFFFF) / 0x10000)).map fun i =>
    let lo := max a (a / 0x10000 * 0x10000 + i * 0x10000)
    (lo, min (a + n) (a / 0x10000 * 0x10000 + (i + 1) * 0x10000) - lo)

/-- Bytes that a collective has written left undefined, as far as they are on the device (12 R393). -/
def State.undefWrote (s : State) (w : Wrote) : State :=
  match w.core with
  | some c => s.undefSp c w.at' w.len
  | none => (pageParts w.at' w.len).foldl (fun s q => match s.engineEnt 0 q.1 with
    | some e => s.undefGl (e.phys q.1) q.2
    | none => s) s

/-- What an agent's access meets: it goes on, waits for fills or for a page, or faults at an address. -/
inductive Reach where
  | ok
  | fills (core : Nat) (tiles : List Nat)
  | page (p : Nat)
  | bad (c : Cause) (at' : Word)
deriving DecidableEq, Repr

/-- What an access of the network engine of die d to n bytes of a place meets (08 R254, R256, R263; 12 R386, R387). -/
def State.fabReach (s : State) (d : Nat) (u : Use) (sd : FSide) (n : Nat) : Reach :=
  match sd with
  | .glob a =>
    (match s.migrateNeed d true u a n with
      | some p => .page p
      | none => match s.engineBar d true u a n with
        | some f => .bad f.1 (BitVec.ofNat 64 f.2)
        | none => .ok)
  | .sp c off =>
    let k := s.core c
    match (if u != .read then none else (tilesOf off n).find? fun t => !k.engineOwns t) with
    | some t => .bad .owner (BitVec.ofNat 64 (max off (0x2000 * t)))
    | none =>
      let ts := (tilesOf off n).filter k.unfilled
      if ts.isEmpty then .ok else .fills c ts

/-- The wait that an access meets, begun (08 R256, R263). -/
def State.beginWait (s : State) (r : Reach) : State :=
  match r with
  | .fills c ts => s.modCore c fun k => k.startFills ts
  | .page p => s.requestPage p
  | _ => s

/-- Bytes read at a place that may be read. -/
def State.fabRead (s : State) (d : Nat) (sd : FSide) (n : Nat) : List Byte :=
  match sd with
  | .glob a => (match s.engineRead d true a n with | .ok bs => bs | .error _ => [])
  | .sp c off => (s.core c).spBytes off n

/-- The arrival count of tiles raised by the bytes written, with the READY bits; how often counts passed a multiple of
8,192 (12 R389). -/
def Core.countArrived (k : Core) (off n : Nat) : Core × Nat :=
  (tilesOf off n).foldl (fun r t =>
    let m := min (off + n) (0x2000 * (t + 1)) - max off (0x2000 * t)
    let old := Tab.get r.1.arrived 0 t
    let passed := (old + m) / 8192 - old / 8192
    ({ r.1 with
        arrived := Tab.set r.1.arrived t ((old + m) % 2 ^ 32),
        readyBits := if passed = 0 then r.1.readyBits else r.1.readyBits ||| BitVec.ofNat 512 (2 ^ t) },
     r.2 + passed)) (k, 0)

/-- TLB conflicts that a fabric access meets on a die told to the host (10 R324). -/
def State.fabConflict (s : State) (d : Nat) (sd : FSide) (n : Nat) : State :=
  match sd with
  | .glob a => s.noteConflict d a n
  | .sp _ _ => s

/-- A fabric write noted as one of a collective's, while its slot runs (12 R393). -/
def State.noteWrote (s : State) (g : Nat) (sd : FSide) (n : Nat) : State :=
  let w : Wrote := match sd with
    | .glob a => { core := none, at' := a, len := n }
    | .sp c off => { core := some c, at' := off, len := n }
  s.modDev fun d =>
    let q := Tab.get d.groups Group.reset g
    if fld q.w0 61 60 = 1 then { d with groups := Tab.set d.groups g { q with wrote := w :: q.wrote } } else d

/-- Bytes written by the fabric at a place that may be written; how often arrival counts passed (12 R387, R389). -/
def State.fabWrite (s : State) (d : Nat) (sd : FSide) (bs : List Byte) : State × Nat :=
  match sd with
  | .glob a => (s.enginePut d a bs, 0)
  | .sp c off =>
    let k := (s.core c).agentPut (((List.range bs.length).zip bs).map fun q => (off + q.1, q.2))
    let r := k.countArrived off bs.length
    (s.setCore c r.1, r.2)

/-- A word of a Trellis entry (12 R383). -/
def Die.word (d : Die) (e w : Nat) : Word := Tab.get d.trellis 0 (8 * e + w)

/-- A counter of a die (12 R382). -/
def State.counter (s : State) (d c : Nat) : Word := Tab.get (s.die d).counters 0 c

/-- An entry's counter holds at least its threshold (12 R384). -/
def Die.reached (d : Die) (e : Nat) : Bool :=
  decide ((d.word e 1).toNat ≤ (Tab.get d.counters 0 (fld (d.word e 0) 41 32)).toNat)

/-- An entry is armed and met (12 R384). -/
def Die.met (d : Die) (e : Nat) : Bool := bit (d.word e 0) 63 && d.reached e

/-- The armed entries of a die, ascending. -/
def Die.armed (d : Die) : List Nat := (d.trellis.filter fun q => q.1 % 8 == 0 && bit q.2 63).map fun q => q.1 / 8

/-- An entry to be judged in the next cycle (12 R384). -/
def Die.again (d : Die) (e : Nat) : Die := if d.refire.contains e then d else { d with refire := d.refire ++ [e] }

/-- A group slot of the device. -/
def Dev.group (d : Dev) (g : Nat) : Group := Tab.get d.groups Group.reset g

/-- STATE of a group slot (12 R391). -/
def Group.state (g : Group) : Nat := fld g.w0 61 60

/-- The state with a group slot changed. -/
def State.modGroup (s : State) (g : Nat) (f : Group → Group) : State :=
  s.modDev fun d => { d with groups := Tab.set d.groups g (f (d.group g)) }

/-- A group slot leaves RUNNING: STATE, and PROGRESS from its final counter (12 R391). -/
def Group.leave (g : Group) (st : Nat) (ctr : Word) : Group :=
  { g with w0 := setFld g.w0 61 60 st, progress := ctr, startMet := false }

/-- The final counter of a group slot. -/
def State.finalCtr (s : State) (g : Group) : Word := s.counter (fld g.w0 58 58) (fld g.w0 57 48)

/-- RUNNING slots whose final counter has reached FTHR become COMPLETE (12 R391). -/
def State.groupsMet (s : State) (d c : Nat) : State :=
  (List.range 64).foldl (fun s g =>
    let q := s.dev.group g
    if q.state = 1 ∧ fld q.w0 58 58 = d ∧ fld q.w0 57 48 = c ∧ q.fthr.toNat ≤ (s.counter d c).toNat then
      s.modGroup g fun q => q.leave 2 (s.counter d c)
    else s) s

/-- Word index of word w of vintage v of slot k (09 R306). -/
def vintIdx (k v w : Nat) : Nat := 40 * k + 8 + 4 * v + w

/-- A FREE vintage becomes READY once its ready counter holds at least RTHR (09 R307). -/
def State.vintageReady (s : State) (k v : Nat) : State :=
  let w (i : Nat) : Word := Tab.get s.dev.vintTab 0 (vintIdx k v i)
  if fld (w 1) 1 0 = 0 ∧ bit (w 2) 63 ∧ fld (w 2) 31 0 ≤ (s.counter (fld (w 2) 62 62) (fld (w 2) 57 48)).toNat then
    s.modDev fun d =>
      { d with
        vintTab := Tab.set d.vintTab (vintIdx k v 1) (setFld (w 1) 1 0 1), dogDue := true,
        readyOrder := (d.readyOrder.filter fun i => i != vintIdx k v 1) ++ [vintIdx k v 1] }
  else s

/-- Every vintage judged by its ready counter (09 R307). -/
def State.vintagesReady (s : State) : State :=
  (List.range 4).foldl (fun s k => (List.range 8).foldl (fun s v => s.vintageReady k v) s) s

/-- Who armed an entry, packed: the ordinal of the arm, and the context by its gang, core and field-0 index. -/
def packArmer (ord f0 ci g : Nat) : Nat := ord % 65536 + 65536 * (f0 % 4 + 4 * (ci % 512 + 512 * g))

/-- A fault of a fired operation delivered to the context that armed it, else told to the host (12 R385). -/
def State.trellisFault (s : State) (d : Nat) (o : FiredOp) (c : Cause) (reason detail : Nat) : State :=
  let f0 := o.armer / 65536 % 4
  let ci := o.armer / 262144 % 512
  let g := o.armer / 134217728
  if fld (o.words.getD 6 0) 50 40 ≠ 0x7FF ∧ s.alive g ci f0 then
    s.pendFor g ci f0 c (engInfo 3 6 (o.armer % 65536) reason detail)
  else s.post 10 0 0 (BitVec.ofNat 64 o.entry) (BitVec.ofNat 64 d) (c.code.setWidth 64)

/-- A fired operation removed. -/
def State.dropOp (s : State) (d id : Nat) : State :=
  s.modDie d fun v => { v with fired := v.fired.filter fun o => o.id != id }

/-- The counters that an operation's completion raises (12 R385). -/
def doneRaises (w : List Word) : List (Nat × Word) :=
  (if bit (w.getD 0 0) 43 then [(fld (w.getD 3 0) 41 32, (1 : Word))] else []) ++
    (if bit (w.getD 0 0) 42 then [(fld (w.getD 3 0) 25 16, (1 : Word))] else [])

/-- A fired operation's fields break no rule (12 R375, R383, R386). -/
def State.opOk (s : State) (w : List Word) : Bool :=
  let w0 := w.getD 0 0
  let kind := fld w0 62 60
  let len := fld (w.getD 6 0) 39 0
  decide (kind < 6) && decide (fld w0 59 57 < 5) && (decide (kind > 2) || len != 0) &&
    (decide (kind > 3) || s.dev.names (BitVec.ofNat 16 (fld w0 15 0))) &&
    (decide (kind > 2) || ((fabSide (w.getD 4 0) len).isSome && (fabSide (w.getD 5 0) len).isSome))

/-- An entry armed anew: judged in the next cycle if it is met, and no more for what the cycle before left of it (12 R384). -/
def Die.rearmed (d : Die) (e : Nat) : Die :=
  let d := { d with due := d.due.filter fun i => i != e }
  if d.reached e then d.again e else d

/-- A kind 5 operation: its target re-armed, and fired in the next cycle if it is met (12 R384, R385). -/
def State.rearm (s : State) (d : Nat) (o : FiredOp) : State × List (Nat × Word) :=
  let t := fld (o.words.getD 3 0) 11 0
  if bit ((s.die d).word t 0) 63 then (s.trellisFault d o .triggerTable 0 o.entry, [])
  else
    (s.modDie d fun v =>
      { v with
        trellis := Tab.set (Tab.set v.trellis (8 * t) (setFld (v.word t 0) 63 63 1)) (8 * t + 1)
          (v.word t 1 + o.words.getD 7 0) }.rearmed t, doneRaises o.words)

/-- An entry fires (12 R384, R385): it is disarmed or its threshold moves, and its operation is put to work; the
counters that it raises at once. -/
def State.fireEntry (s : State) (d e : Nat) : State × List (Nat × Word) :=
  let v := s.die d
  let w := (List.range 8).map (v.word e)
  let o : FiredOp :=
    { id := v.nextOp, entry := e, kind := fld (w.getD 0 0) 62 60, words := w, armer := Tab.get v.armOrd 0 e,
      started := false, sent := false, dead := false }
  let s := s.modDie d fun v =>
    { v with
      trellis := if w.getD 2 0 = 0 then Tab.set v.trellis (8 * e) (setFld (v.word e 0) 63 63 0)
        else Tab.set v.trellis (8 * e + 1) (v.word e 1 + w.getD 2 0),
      nextOp := v.nextOp + 1 }.again e
  if !s.opOk w then (s.trellisFault d o .triggerTable 0 e, [])
  else if o.kind = 4 then (s, (fld (w.getD 3 0) 57 48, w.getD 7 0) :: doneRaises w)
  else if o.kind = 5 then s.rearm d o
  else (s.modDie d fun v => { v with fired := v.fired ++ [o] }, [])

/-- What follows a change of a counter: groups, vintages, and the entries on it, which are judged as the cycle ends (12 R384, R391;
09 R307). -/
def State.counterChanged (s : State) (d c : Nat) : State :=
  ((s.groupsMet d c).vintagesReady).modDie d fun v => { v with changed := if v.changed.contains c then v.changed else v.changed ++ [c] }

/-- A counter of a die raised (12 R272, R384). -/
def State.raise (s : State) (d c : Nat) (v : Word) : State :=
  (s.modDie d fun x => { x with counters := Tab.set x.counters c (Tab.get x.counters 0 c + v) }).counterChanged d c

/-- Several counters of a die raised, one after the other. -/
def State.raises (s : State) (d : Nat) (l : List (Nat × Word)) : State := l.foldl (fun s q => s.raise d q.1 q.2) s

/-- An entry fires, and raises what it raises at once (12 R384, R385). -/
def State.fireNow (s : State) (d e : Nat) : State :=
  let r := s.fireEntry d e
  r.1.raises d r.2

/-- An entry left over from the cycle before is judged: it fires if it is still armed and met and has not fired in this cycle (12
R384). -/
def State.fireDue (s : State) (d e : Nat) : State :=
  let fires := (s.die d).met e && !(s.die d).refire.contains e
  let s := s.modDie d fun v => { v with due := v.due.filter fun i => i != e }
  if fires then s.fireNow d e else s

/-- The entry of a die that comes next in this cycle: the lowest of those left over and of those met whose counter has changed,
each at most once (12 R384). -/
def State.nextEntry (s : State) (d : Nat) : Option Nat :=
  let v := s.die d
  let met := v.armed.filter fun e => v.met e && v.changed.contains (fld (v.word e 0) 41 32) && !v.refire.contains e
  (v.due ++ met).foldl (fun m e => some (match m with | some i => min i e | none => e)) none

/-- The entries of a die that fire in a cycle, in ascending order; each fires at most once (12 R384). -/
def State.fireAll : Nat → State → Nat → State
  | 0, s, _ => s
  | n + 1, s, d =>
    match s.nextEntry d with
    | none => s
    | some e => State.fireAll n (if (s.die d).due.contains e then s.fireDue d e else s.fireNow d e) d

/-- The request or message of a fired operation, without its data (12 R373, R385). -/
def FiredOp.msg (o : FiredOp) (d : Nat) : Msg :=
  let w (i : Nat) : Word := o.words.getD i 0
  let k := match o.kind with | 0 => 7 | 1 => 8 | 2 => 9 | _ => 11
  { Msg.rest with
    kind := BitVec.ofNat 4 k, dst := BitVec.ofNat 16 (fld (w 0) 15 0), route := BitVec.ofNat 2 (fld (w 0) 49 48),
    hops := BitVec.ofNat 4 (fld (w 0) 47 44), ch := BitVec.ofNat 8 (fld (w 0) 55 50), seq := BitVec.ofNat 16 o.id,
    rcen := bit (w 3) 63, rctr := BitVec.ofNat 10 (fld (w 3) 57 48), runit := bit (w 0) 56,
    accop := BitVec.ofNat 3 (fld (w 0) 59 57), rdie := bit (w 3) 62, word1 := if o.kind = 3 then w 7 else w 5,
    fromAddr := w 4, len := fld (w 6) 39 0, op := 2 * o.id + d }

/-- A fired operation changed. -/
def State.setOp (s : State) (d : Nat) (o : FiredOp) : State :=
  s.modDie d fun v => { v with fired := v.fired.map fun p => if p.id = o.id then o else p }

/-- A put or put-accumulate that a die fired before an operation, to the same peer, has not been performed there (12 R385). -/
def Die.putBefore (v : Die) (o : FiredOp) : Bool :=
  v.fired.any fun p => decide (p.id < o.id) && decide (p.kind < 2) && fld (p.words.getD 0 0) 15 0 == fld (o.words.getD 0 0) 15 0

/-- A fired operation starts: its bytes are read and its message sent; false while its read must wait (12 R385, R386). The message
of a remote counter add stays back while an earlier put to its peer has not been performed (12 R385). -/
def State.startOp (s : State) (d : Nat) (o : FiredOp) : State × Bool :=
  let len := fld (o.words.getD 6 0) 39 0
  let go (s : State) (data : List Byte) : State × Bool :=
    ((s.setOp d { o with started := true, sent := true }).emit { o.msg d with data := data }, true)
  if o.kind = 3 ∧ (s.die d).putBefore o then (s.setOp d { o with started := true }, true)
  else if o.kind > 1 then go s []
  else match fabSide (o.words.getD 4 0) len with
    | none => ((s.trellisFault d o .triggerTable 0 o.entry).dropOp d o.id, true)
    | some sd =>
      match s.fabReach d .read sd len with
      | .bad c a => ((s.trellisFault d o .engineFault c.code.toNat a.toNat).dropOp d o.id, true)
      | .ok => go (s.fabConflict d sd len) (s.fabRead d sd len)
      | r => (s.beginWait r, false)

/-- A remote counter add that has started and stayed back, sent once it may be (12 R385). -/
def State.sendOp (s : State) (d : Nat) (o : FiredOp) : State :=
  if o.started && !o.sent && !o.dead && !(s.die d).putBefore o then (s.setOp d { o with sent := true }).emit (o.msg d) else s

/-- The fired operations of a die started in the order in which they fired, up to one that waits, and what stayed back sent (12
R385). -/
def State.startOps (s : State) (d : Nat) : State :=
  let s := (s.die d).fired.foldl (fun s o => s.sendOp d o) s
  ((s.die d).fired.foldl (fun (r : State × Bool) o =>
    if r.2 && !o.started && !o.dead then r.1.startOp d o else r) (s, true)).1

/-- The Trellis of a die as a cycle ends: the entries that fire, and their operations (12 R384, R385). -/
def State.trellisEnd (s : State) (d : Nat) : State :=
  ((s.fireAll 8192 d).modDie d fun v => { v with changed := [] }).startOps d

end Sys2Proof.Machine
end

