-- ==== Sys2Proof/Machine/Messages.lean ====
section
/-! DEFINITION. Messages as they arrive (12 R372 to R393): channels, barriers and their tokens, aborts, puts, gets and
remote counter adds. A message that meets a fill or a migration waits in the device. -/

namespace Sys2Proof.Machine

/-- A message that has arrived: kept before BOOTST 4, unless this device sent it to itself (13 R424); sent on where it is for
another device, else delivered (12 R375). -/
def State.receive (s : State) (m : Msg) (f : State → State) : State :=
  if s.dev.bootst ≠ 4 ∧ m.src ≠ s.dev.id then s.modDev fun d => { d with bootWait := d.bootWait ++ [(true, m)] }
  else if m.route.toNat = 1 ∨ m.route.toNat = 2 then
    if m.hops.toNat > 1 then s.sendOn { m with hops := m.hops - 1 }
    else if m.dst = s.dev.id then f s
    else s.postLink (Msg.port m) m.dst
  else if m.dst = s.dev.id then f s
  else s.sendOn m

/-- The message is one of those discarded while its group is ABORTED (12 R393). -/
def Dev.discards (d : Dev) (m : Msg) : Bool :=
  let k := m.kind.toNat
  let g := if k = 0 then d.chanGroup m.ch.toNat else m.ch.toNat
  (k == 0 || (decide (7 ≤ k) && decide (k ≤ 10))) && (d.group g).state == 3

/-- A context blocked at barx on a channel. -/
def Ctx.atBarx (x : Ctx) (ok : Nat → Bool) : Option Nat :=
  match x.run with
  | .blocked (.barx ch) _ => if ok ch then some ch else none
  | _ => none

/-- Every saved context changed (10 R329). -/
def State.mapSaved (s : State) (f : Ctx → Ctx) : State :=
  s.modDev fun d =>
    { d with gangs := d.gangs.map fun q =>
        (q.1, { q.2 with groups := q.2.groups.map fun h =>
          { h with ctxs := h.ctxs.map fun v => { v with ctx := f v.ctx } } }) }

/-- The saved contexts (10 R329). -/
def State.savedCtxs (s : State) : List Ctx :=
  s.dev.gangs.flatMap fun q => q.2.groups.flatMap fun h => h.ctxs.map SavedCtx.ctx

/-- Every context changed, placed or saved. -/
def State.mapCtxs (s : State) (f : Ctx → Ctx) : State :=
  State.mapSaved { s with cores := s.cores.map fun q => (q.1, { q.2 with ctxs := q.2.ctxs.map fun r => (r.1, f r.2) }) } f

/-- A trap pending for a context blocked at a barx on the channels a test picks. -/
def Ctx.pendAtBarx (ok : Nat → Bool) (c : Cause) (info : Nat → Word) (x : Ctx) : Ctx :=
  match x.atBarx ok with
  | some ch => x.pend c (info ch)
  | none => x

/-- A trap for every context blocked at a barx on the channels a test picks, placed or switched out (10 R313, R316; 12 R380, R393). -/
def State.pendAtBarx (s : State) (ok : Nat → Bool) (c : Cause) (info : Nat → Word) : State :=
  s.mapCtxs (Ctx.pendAtBarx ok c info)

/-- A channel stopped by a mismatch: ERR, and its barx contexts trap (12 R380). -/
def State.stopChan (s : State) (ch : Nat) : State :=
  (s.chanFld ch 0 62 62 1).pendAtBarx (· == ch) .channelMismatch fun c => BitVec.ofNat 64 c

/-- The ring a channel's arrivals go to (12 R378). -/
def Dev.destCore (d : Dev) (ch : Nat) : Nat := fld (d.chanWord ch 3) 56 48
def Dev.destRing (d : Dev) (ch : Nat) : Nat := fld (d.chanWord ch 3) 44 40

/-- The conditions of 12 R380 on a message of kind 0. -/
def State.accepts (s : State) (m : Msg) : Bool :=
  let ch := m.ch.toNat
  let w := s.dev.chanWord ch 0
  let r := (s.core (s.dev.destCore ch)).ring (s.dev.destRing ch)
  s.dev.chanOk ch && m.src.toNat == fld w 15 0 && m.seq.toNat == fld (s.dev.chanWord ch 4) 31 16 &&
    m.format.toNat == fld w 35 32 && m.sbytes == s.dev.slotBytes ch && decide (m.sbytes ≤ 0x2000 * r.slotTiles) &&
    r.valid && !r.cside && decide (r.occ + r.reserved + m.slots ≤ r.count)

/-- The slots a message of kind 0 fills (12 R380). -/
def State.fillsSlots (s : State) (m : Msg) : List Nat :=
  let r := (s.core (s.dev.destCore m.ch.toNat)).ring (s.dev.destRing m.ch.toNat)
  r.slotsFrom r.prod m.slots

/-- Tiles that n bytes of a slot lie in. -/
def slotTilesFor (tiles : List Nat) (n : Nat) : List Nat := tiles.take ((n + 0x1FFF) / 0x2000)

/-- Bytes placed over a slot's tiles, in order. -/
def slotCells (tiles : List Nat) (bs : List Byte) : List Host.Cell :=
  ((List.range bs.length).zip bs).map fun q => (0x2000 * tiles.getD (q.1 / 0x2000) 0 + q.1 % 0x2000, q.2)

/-- Bytes written by the fabric into one slot of a ring, tile by tile, with their counts (12 R387, R389). -/
def State.putSlot (s : State) (c : Nat) (tiles : List Nat) (bs : List Byte) : State :=
  let k := (s.core c).agentPut (slotCells tiles bs)
  s.setCore c (((slotTilesFor tiles bs.length).zip (List.range tiles.length)).foldl
    (fun k q => (k.countArrived (0x2000 * q.1) (min 0x2000 (bs.length - 0x2000 * q.2))).1) k)

/-- The first n bytes of a slot noted as written for a group (12 R393). -/
def State.noteSlot (s : State) (g c : Nat) (tiles : List Nat) (n : Nat) : State :=
  ((slotTilesFor tiles n).zip (List.range tiles.length)).foldl
    (fun s q => s.noteWrote g (.sp c (0x2000 * q.1)) (min 0x2000 (n - 0x2000 * q.2))) s

/-- A message of kind 0 written and its ring advanced (12 R380). -/
def State.acceptData (s : State) (m : Msg) : State :=
  let ch := m.ch.toNat
  let c := s.dev.destCore ch
  let q := s.dev.destRing ch
  let s := if ((s.core c).ring q).pside then s else s.modCore c fun k => k.ringPside q
  let slots := s.fillsSlots m
  let r := (s.core c).ring q
  let s := (slots.zip (List.range slots.length)).foldl
    (fun s p => (s.noteSlot (s.dev.chanGroup ch) c (r.slot p.1) m.sbytes).putSlot c (r.slot p.1)
      ((m.data.drop (m.sbytes * p.2)).take m.sbytes)) s
  let s := s.chanFld ch 4 31 16 ((m.seq.toNat + 1) % 65536)
  let s := s.modCore c fun k =>
    let k := k.ringProduce q m.slots
    let r := k.ring q
    k.setRing q { r with filled := slots.foldl (fun t i => Tab.set t i ch) r.filled }
  let w := s.dev.chanWord ch 3
  let s := if bit w 39 then s.raise (dieOf c) (fld w 9 0) 1 else s
  if bit w 38 then s.modDev fun d => d.arrive (fld w 37 36) ⟨m.tag.toNat, fld w 31 16⟩ else s

/-- A message of kind 0 refused: a kind 6 message goes back and the channel stops (12 R380). -/
def State.refuseData (s : State) (m : Msg) : State :=
  let ch := m.ch.toNat
  let w := s.dev.chanWord ch 0
  let s := s.post 10 0 0 (BitVec.ofNat 64 ch) (m.seq.setWidth 64) (m.src.setWidth 64)
  let back : Msg :=
    { s.dev.toPeer ch 6 with dst := m.src, ch := BitVec.ofNat 8 (fld w 47 40), seq := m.seq }
  (s.emit back).stopChan ch

/-- The acknowledgement of a fabric operation; a cause other than 0 says that it faulted (12 R385). -/
def ackOf (m : Msg) (c : Nat) (reason : Nat) (detail : Word) : Msg :=
  { Msg.rest with kind := 12, dst := m.src, ch := m.ch, seq := m.seq, op := m.op, cause := BitVec.ofNat 6 c,
                  reason := BitVec.ofNat 6 reason, detail := detail }

/-- One element of a put-accumulate (12 R388). -/
def accElem (op : Nat) (old new : Nat) : Nat :=
  match op with
  | 1 => (fAdd .f32 .rne false 0 old new).bits
  | 2 => (fAdd .bf16 .rne false 0 old new).bits
  | 4 => max old new
  | _ => new

/-- Bytes of an element under ACCOP (12 R388). -/
def accSize (op : Nat) : Nat := match op with | 1 => 4 | 2 => 2 | 3 => 2112 | 4 => 4 | _ => 1

/-- A stored pair of anc64 blocks added to another (02 R60, R62; 12 R388): the sum, or the cause of the first block that
faults. A NaN block holds the plain sum of the counts, past 65,536 too, and no ANCHOR_OVERFLOW is raised for it: DESIGN CHOICE, log
entry 85. -/
def ancGroupAdd (old new : List Byte) : Except Cause (List Byte) :=
  let anchor (b : List Byte) (j : Nat) : Nat := (b.getD (32 * j) 0).toNat
  let count (b : List Byte) (j : Nat) : Nat := numLE ((b.drop (32 * j + 1)).take 3)
  let word (b : List Byte) (j i : Nat) : Nat := numLE ((b.drop (64 + 1024 * j + 8 * i)).take 8)
  let block (j : Nat) : Except Cause (List Byte × List Byte) :=
    let c := count old j + count new j
    if anchor old j = 255 ∨ anchor new j = 255 then
      .ok (bytesLE 32 (255 + 256 * c), List.replicate 1024 0)
    else if anchor old j ≠ anchor new j then .error .anchorMismatch
    else if c > 65536 then .error .anchorOverflow
    else .ok (bytesLE 32 (anchor old j + 256 * c),
              (List.range 128).flatMap fun i => bytesLE 8 (word old j i + word new j i))
  match block 0, block 1 with
  | .ok a, .ok b => .ok (a.1 ++ b.1 ++ a.2 ++ b.2)
  | .error e, _ => .error e
  | _, .error e => .error e

/-- A put-accumulate's destination is aligned as its operation asks (12 R388). -/
def accAligned (op : Nat) (sd : FSide) (len : Nat) : Bool :=
  match op, sd with
  | 3, .sp _ off =>
    (off % 0x40000) % 2112 == 0 && len % 2112 == 0 &&
      (List.range (len / 2112)).all fun i => (off + 2112 * i) / 0x40000 == (off + 2112 * i + 2111) / 0x40000
  | 3, .glob a => a % 64 == 0 && len % 2112 == 0
  | op, .sp _ off => off % accSize op == 0 && len % accSize op == 0
  | op, .glob a => a % accSize op == 0 && len % accSize op == 0

/-- A place moved on by n bytes. -/
def FSide.plus : FSide → Nat → FSide
  | .glob a, n => .glob (a + n)
  | .sp c off, n => .sp c (off + n)

/-- The elements of a put-accumulate of a group combined one after the other, those written noted: how often arrival counts
passed, and the first fault (12 R388, R393). -/
def State.accumulate (s : State) (g op : Nat) (sd : FSide) (data : List Byte) : State × Nat × Option (Cause × Nat) :=
  let n := accSize op
  ((pieces n data.length data).zip (List.range data.length)).foldl (fun r q =>
    let at' := sd.plus (n * q.2)
    let old := r.1.fabRead 0 at' n
    match (if op = 3 then ancGroupAdd old q.1 else .ok (bytesLE n (accElem op (numLE old) (numLE q.1)))) with
    | .ok bs =>
      let w := (r.1.noteWrote g at' n).fabWrite 0 at' bs
      (w.1, r.2.1 + w.2, r.2.2)
    | .error c => (r.1, r.2.1, r.2.2.orElse fun _ => some (c, n * q.2))) (s, 0, none)

/-- The low bits of a place, for DETAIL (07 R235). -/
def FSide.low : FSide → Word
  | .glob a => BitVec.ofNat 64 a
  | .sp _ off => BitVec.ofNat 64 off

/-- The counters that a put raises at its destination, and its acknowledgement (12 R385, R389). -/
def State.putDone (s : State) (m : Msg) (passed : Nat) : State :=
  let n := if m.runit then passed else 1
  let s := if m.rcen && n != 0 then s.raise m.rdie.toNat m.rctr.toNat (BitVec.ofNat 64 n) else s
  s.emit (ackOf m 0 0 0)

/-- A put or put-accumulate performed (12 R387 to R389). -/
def State.performPut (s : State) (m : Msg) : State :=
  match fabSide m.word1 m.data.length with
  | none => s.emit (ackOf m Cause.triggerTable.code.toNat 0 0)
  | some sd =>
    let s := s.fabConflict 0 sd m.data.length
    if m.kind = 7 then
      let r := (s.noteWrote m.ch.toNat sd m.data.length).fabWrite 0 sd m.data
      r.1.putDone m r.2
    else if m.accop.toNat > 4 ∨ !accAligned m.accop.toNat sd m.data.length then
      s.emit (ackOf m Cause.engineFault.code.toNat Cause.bankFormat.code.toNat sd.low)
    else
      let r := s.accumulate m.ch.toNat m.accop.toNat sd m.data
      match r.2.2 with
      | none => r.1.putDone m r.2.1
      | some (c, o) => r.1.emit (ackOf m c.code.toNat 0 (sd.plus o).low)

/-- The fired operation that an answer belongs to: its die and itself (12 R385). -/
def State.opOf (s : State) (m : Msg) : Option (Nat × FiredOp) :=
  ((s.die (m.op % 2)).fired.find? fun o => o.id == m.op / 2).map fun o => (m.op % 2, o)

/-- A channel of a group whose peer is a device (12 R392). -/
def Dev.rootChannel (d : Dev) (g : Nat) (src : BitVec 16) : Option Nat :=
  (List.range 256).find? fun ch =>
    bit (d.chanWord ch 0) 63 && d.chanGroup ch == g && fld (d.chanWord ch 0) 15 0 == src.toNat

/-- The channel that a barrier arrival at the root is counted on (12 R392). Slots holds one more than the channel of a barx executed
at the root. -/
def Dev.arrivalChannel (d : Dev) (m : Msg) : Option Nat :=
  if m.slots = 0 then d.rootChannel m.ch.toNat m.src else some (m.slots - 1)

/-- A barrier arrival matches its channel (12 R392). -/
def Dev.arrivalMatch (d : Dev) (m : Msg) : Bool :=
  match d.arrivalChannel m with
  | some c => fld (d.chanWord c 4) 63 48 == m.seq.toNat
  | none => false

/-- What a message's access to memory meets before it is performed (08 R256, R263; 12 R386, R387, R392). -/
def State.msgReach (s : State) (m : Msg) : Reach :=
  let side (w : Word) (n : Nat) (u : Use) : Reach :=
    match fabSide w n with
    | none => .ok
    | some sd => s.fabReach 0 u sd n
  match m.kind.toNat with
  | 0 =>
    if s.accepts m then
      let c := s.dev.destCore m.ch.toNat
      let r := (s.core c).ring (s.dev.destRing m.ch.toNat)
      let ts := ((s.fillsSlots m).flatMap fun i => slotTilesFor (r.slot i) m.sbytes).filter (s.core c).unfilled
      if ts.isEmpty then .ok else .fills c ts
    else .ok
  | 2 =>
    if s.dev.arrivalMatch m then
      s.fabReach 0 .write (.glob (fld (s.dev.group m.ch.toNat).gbuf 55 6 * 64)) (2 * fld (s.dev.group m.ch.toNat).w0 31 16)
    else .ok
  | 7 => side m.word1 m.data.length .write
  | 8 => side m.word1 m.data.length (if m.accop = 0 then .write else .readWrite)
  | 9 => side m.fromAddr m.len .read
  | 10 =>
    match s.opOf m with
    | some (_, o) => side (o.words.getD 5 0) m.data.length .write
    | none => .ok
  | _ => .ok

/-- A message waits behind one that waits: a counter add behind the puts of the same die of the same device (12 R385), a
channel's data behind its earlier data (12 R375, R380). -/
def msgBehind (before : List (Nat × Msg)) (m : Msg) : Bool :=
  before.any fun q =>
    (m.kind == 11 && (q.2.kind == 7 || q.2.kind == 8) && q.2.src == m.src && q.2.op % 2 == m.op % 2) ||
      (m.kind == 0 && q.2.kind == 0 && q.2.ch == m.ch)

/-- A fired operation completes or faults as its answer says (12 R385). -/
def State.finishOp (s : State) (m : Msg) : State :=
  match s.opOf m with
  | none => s
  | some (d, o) =>
    let s := s.dropOp d o.id
    if o.dead then s
    else if m.cause = 0 then s.raises d (doneRaises o.words)
    else
      match (([.engineFault, .triggerTable, .anchorMismatch, .anchorOverflow] : List Cause).find? fun c => c.code == m.cause) with
      | some c => s.trellisFault d o c m.reason.toNat m.detail.toNat
      | none => s

/-- A context's barrier on a channel of a group released (12 R392; 10 R330). -/
def Ctx.releaseBar (d : Dev) (g seq : Nat) (x : Ctx) : Ctx :=
  let hit (b : Nat × Nat × Bool) : Bool := d.chanGroup b.1 == g && b.2.1 == seq
  let y := { x with barSent := x.barSent.map fun b => if hit b then (b.1, b.2.1, true) else b }
  match x.atBarx fun ch => y.barSent.any fun b => b.1 == ch && b.2.2 with
  | some _ => { y with run := .ready }
  | none => y

/-- Arrivals that a test picks are answered, released or refused (12 R380, R392). -/
def State.answered (s : State) (f : Nat × Nat → Bool) : State :=
  s.modDev fun d => { d with barOut := d.barOut.filter fun q => !f q }

/-- The contexts of this device blocked at an episode released (12 R392). -/
def State.freeBarrier (s : State) (g seq : Nat) : State :=
  (s.mapCtxs (Ctx.releaseBar s.dev g seq)).answered fun q => s.dev.chanGroup q.1 == g && q.2 == seq

/-- An absence token stands for an episode (10 R331). -/
def Dev.absent (d : Dev) (g seq : Nat) : Bool := d.absences.any fun a => a.group == g && a.seq == seq

/-- An episode whose arrivals are complete and that no absence holds open is released: BRSEQ of its channels advances
and every source recorded is told (12 R392). -/
def State.tryRelease (s : State) (g seq : Nat) : State :=
  match s.dev.episodes.find? fun e => e.group == g && e.seq == seq with
  | none => s
  | some e =>
    if e.srcs.length < fld (s.dev.group g).w0 31 16 ∨ s.dev.absent g seq then s
    else
      let s := e.chans.eraseDups.foldl (fun s ch => s.chanFld ch 4 63 48 ((seq + 1) % 65536)) s
      let s := s.modDev fun d => { d with episodes := d.episodes.filter fun f => f != e }
      e.srcs.eraseDups.foldl (fun s src =>
        if BitVec.ofNat 16 src = s.dev.id then s.freeBarrier g seq
        else s.emit { barMsg 2 g seq (BitVec.ofNat 16 src) with op := 1 }) s

/-- A group's abort begins: flits to its peers on the first abort of an episode, SEEN where it is COMPLETE; a RUNNING
slot is aborted as the cycle ends, after the cycle's counter updates (12 R393). -/
def State.beginAbort (s : State) (g : Nat) : State :=
  let q := s.dev.group g
  let s :=
    if q.forwarded then s
    else
      let chans := (List.range 256).filter fun ch => bit (s.dev.chanWord ch 0) 63 && s.dev.chanGroup ch == g
      let s := chans.foldl (fun s ch => s.emit { s.dev.toPeer ch 5 with ch := BitVec.ofNat 8 g }) s
      let ents := [0, 1].flatMap fun d =>
        (s.die d).armed.filterMap fun e =>
          let w := (s.die d).word e 0
          if fld w 55 50 = g then some w else none
      ents.foldl (fun s w => s.emit
        { Msg.rest with kind := 5, dst := BitVec.ofNat 16 (fld w 15 0), route := BitVec.ofNat 2 (fld w 49 48),
                        hops := BitVec.ofNat 4 (fld w 47 44), ch := BitVec.ofNat 8 g }) s
  let s := s.modGroup g fun q => { q with forwarded := true }
  if q.state = 2 then s.modGroup g fun q => { q with w0 := setFld q.w0 62 62 1 }
  else if q.state = 1 then s.modDev fun d => { d with abortsDue := if d.abortsDue.contains g then d.abortsDue else d.abortsDue ++ [g] }
  else s

/-- Contexts with an uncompleted send on a channel of a group, each once, with the ordinal (12 R393). -/
def State.sendersOf (s : State) (g : Nat) : List (Nat × Cmd) :=
  s.cores.flatMap fun q => (q.2.cmds.filter fun m => m.fn == 5 && s.dev.chanGroup m.aux == g).map fun m => (q.1, m)

/-- An arm command is one of an entry of a group (12 R393). -/
def Cmd.armsFor (m : Cmd) (g : Nat) : Bool := m.fn == 6 && fld (BitVec.ofNat 64 (numLE (m.data.take 8))) 55 50 == g

/-- The arm commands that still wait to arm an entry of a group (12 R393). -/
def State.armsOf (s : State) (g : Nat) : List (Nat × Cmd) :=
  s.cores.flatMap fun q => (q.2.cmds.filter fun m => m.armsFor g).map fun m => (q.1, m)

/-- The commands that pre-emption saved (10 R329). -/
def State.savedCmds (s : State) : List Cmd := s.dev.gangs.flatMap fun q => q.2.groups.flatMap SavedGroup.cmds

/-- Saved commands that a test picks removed. -/
def State.dropSaved (s : State) (f : Cmd → Bool) : State :=
  s.modDev fun d =>
    { d with gangs := d.gangs.map fun q =>
        (q.1, { q.2 with groups := q.2.groups.map fun h => { h with cmds := h.cmds.filter fun m => !f m } }) }

/-- Queued messages that a test picks never leave; what a port holds of them goes with them. -/
def Dev.dropOut (f : Msg → Bool) (d : Dev) : Dev :=
  let size (l : List (Nat × Msg)) : Nat := l.foldl (fun n o => n + Msg.flits o.2) 0
  let ports := (d.outbox.filter fun o => f o.2).map Prod.fst |>.eraseDups
  { d with
    outbox := d.outbox.filter fun o => !f o.2,
    ports := ports.foldl (fun t p =>
      let q := Tab.get t Port.reset p
      let l := d.outbox.filter fun o => o.1 == p
      let sent := match l.head? with
        | some o => if f o.2 then 0 else size l - q.queued
        | none => 0
      Tab.set t p { q with queued := size (l.filter fun o => !f o.2) - sent }.judge) d.ports }

/-- A RUNNING group slot aborted: its entries disarmed, its operations stopped with what they still hold to send, CHANNEL_ABORT delivered, what it has written left
undefined (12 R393): the bytes that the fabric wrote on this device for the group since its START (log entry 79). A context is
told once; the manual gives FUNC and CMD of a barx's trap no value: free values. -/
def State.abortNow (s : State) (g : Nat) : State :=
  let q := s.dev.group g
  if q.state = 2 then s.modGroup g fun q => { q with w0 := setFld q.w0 62 62 1 }
  else if q.state ≠ 1 then s
  else
    let ctr := s.finalCtr q
    let s := s.modGroup g fun q => q.leave 3 ctr
    let armers := [0, 1].flatMap fun d =>
      ((s.die d).armed.filterMap fun e => if fld ((s.die d).word e 0) 55 50 = g then some (Tab.get (s.die d).armOrd 0 e, (s.die d).word e 6) else none)
        ++ (s.die d).fired.filterMap fun o =>
          if fld (o.words.getD 0 0) 55 50 = g then some (o.armer, o.words.getD 6 0) else none
    let sends := s.sendersOf g
    let waits := s.armsOf g
    let saved (m : Cmd) : Bool := (m.fn == 5 && s.dev.chanGroup m.aux == g) || m.armsFor g
    let arms := ((armers.filter fun a => fld a.2 50 40 != 0x7FF).map Prod.fst)
    let ids : List (Nat × Nat × Nat × Nat × Nat) :=
      (sends.map fun m => (m.2.gang, m.2.coreIdx, m.2.field0, 5, m.2.ordinal)) ++
        (waits.map fun m => (m.2.gang, m.2.coreIdx, m.2.field0, 6, m.2.ordinal)) ++
        ((s.savedCmds.filter saved).map fun m => (m.gang, m.coreIdx, m.field0, m.fn, m.ordinal)) ++
        arms.map fun a => (a / 134217728, a / 262144 % 512, a / 65536 % 4, 6, a % 65536)
    let told := ids.foldl (fun l i =>
      if l.any fun j => j.1 == i.1 && j.2.1 == i.2.1 && j.2.2.1 == i.2.2.1 then l else l ++ [i]) []
    let stopped := [0, 1].flatMap fun d =>
      ((s.die d).fired.filter fun o => fld (o.words.getD 0 0) 55 50 == g).map fun o => 2 * o.id + d
    let s := s.modDev (Dev.dropOut fun m =>
      (match Msg.ownOp m s.dev.id with
        | some o => stopped.contains o
        | none => false) ||
        (m.kind == 0 && m.src == s.dev.id && sends.any fun c => m.op == c.1 * 2 ^ 32 + c.2.id))
    let s := [0, 1].foldl (fun s d => s.modDie d fun v =>
      let es := v.armed.filter fun e => fld (v.word e 0) 55 50 == g
      { v with
        trellis := es.foldl (fun t e => Tab.set t (8 * e) (setFld (Tab.get t 0 (8 * e)) 63 63 0)) v.trellis,
        refire := v.refire.filter fun e => !es.contains e, due := v.due.filter fun e => !es.contains e,
        fired := v.fired.filter fun o => fld (o.words.getD 0 0) 55 50 != g }) s
    let s := sends.foldl (fun s m => s.modCore m.1 fun k =>
      let r := k.ring m.2.qa
      { (if m.2.st == .queued then k else k.setRing m.2.qa { r with taken := r.taken - r.declared }) with
        cmds := k.cmds.filter fun c => c.id != m.2.id }) s
    let s := waits.foldl (fun s m => s.modCore m.1 fun k => { k with cmds := k.cmds.filter fun c => c.id != m.2.id }) s
    let s := s.dropSaved saved
    let s := (q.wrote.foldl State.undefWrote s).modGroup g fun q => { q with wrote := [] }
    let s := s.modDev fun d => { d with waitMsgs := d.waitMsgs.filter fun w => !d.discards w.2 }
    let s := told.foldl (fun s i =>
      s.pendFor i.1 i.2.1 i.2.2.1 .channelAbort (engInfo 3 i.2.2.2.1 i.2.2.2.2 0 g)) s
    let s := s.pendAtBarx (fun ch => s.dev.chanGroup ch == g) .channelAbort fun _ =>
      (Config.freeWord (freeKey s.free 2) &&& 0x0FFFFF0000000000#64) ||| BitVec.ofNat 64 (3 * 2 ^ 60 + g)
    (s.takeFree 1).post 13 0 0 (BitVec.ofNat 64 g) ctr 0

/-- The aborts of a cycle applied as it ends (12 R393). -/
def State.abortsEnd (s : State) : State :=
  s.dev.abortsDue.foldl State.abortNow (s.modDev fun d => { d with abortsDue := [] })

/-- A barrier arrival that meets no channel of its sequence number: both ends stop (12 R380, R392). The flit returned names, with
OP 2, the channel at its destination that the matched channel is bound to (12 R372, R378), or, where none matches, the group, with
OP 3 (DESIGN CHOICE, log entry 30). -/
def State.barMismatch (s : State) (g seq : Nat) (src : BitVec 16) (ch : Option Nat) : State :=
  let s := s.post 10 0 0 (BitVec.ofNat 64 (ch.getD 0)) (BitVec.ofNat 64 seq) (src.setWidth 64)
  match ch with
  | some c =>
    let there := if src = s.dev.id then c else fld (s.dev.chanWord c 0) 47 40
    (s.emit { barMsg 6 there seq src with op := 2 }).stopChan c
  | none => s.emit { barMsg 6 g seq src with op := 3 }

/-- A barrier arrival counted at the root, on a channel (12 R392). -/
def State.countArrival (s : State) (g seq : Nat) (src : BitVec 16) (ch : Nat) : State :=
  let buf := fld (s.dev.group g).gbuf 55 6 * 64
  let es := s.dev.episodes
  let e := (es.find? fun e => e.group == g && e.seq == seq).getD ⟨g, seq, [], []⟩
  let at' := buf + 2 * e.srcs.length
  match s.fabReach 0 .write (.glob at') 2 with
  | .bad _ _ => s.beginAbort g
  | _ =>
    let s := (s.fabConflict 0 (.glob at') 2).enginePut 0 at' (bytesLE 2 src.toNat)
    let e' : BarEp := { e with srcs := e.srcs ++ [src.toNat], chans := e.chans ++ [ch] }
    let s := s.modDev fun d =>
      { d with episodes := (d.episodes.filter fun f => !(f.group == g && f.seq == seq)) ++ [e'] }
    let s := if src = s.dev.id then s
      else (s.dev.absences.filter fun a => a.group == g && a.seq == seq).foldl (fun s _ => s.emit (barMsg 3 g seq src)) s
    s.tryRelease g seq

/-- A barrier arrival at the root: counted, or a mismatch (12 R392). -/
def State.performArrival (s : State) (m : Msg) : State :=
  let g := m.ch.toNat
  let seq := m.seq.toNat
  match s.dev.arrivalChannel m with
  | none => s.barMismatch g seq m.src none
  | some c => if fld (s.dev.chanWord c 4) 63 48 = seq then s.countArrival g seq m.src c else s.barMismatch g seq m.src (some c)

/-- A message performed: every wait is over (12 R380 to R392). -/
def State.performMsg (s : State) (m : Msg) : State :=
  match m.kind.toNat with
  | 0 => if s.accepts m then s.acceptData m else s.refuseData m
  | 2 => s.performArrival m
  | 7 | 8 => s.performPut m
  | 9 =>
    match fabSide m.fromAddr m.len with
    | none => s.emit (ackOf m Cause.triggerTable.code.toNat 0 0)
    | some sd => (s.fabConflict 0 sd m.len).emit { ackOf m 0 0 0 with kind := 10, data := s.fabRead 0 sd m.len }
  | 10 =>
    match s.opOf m with
    | none => s
    | some (_, o) =>
      match fabSide (o.words.getD 5 0) m.data.length with
      | some sd =>
        ((((s.fabConflict 0 sd m.data.length).noteWrote m.ch.toNat sd m.data.length).fabWrite 0 sd m.data).1).finishOp m
      | none => s
  | 11 => (s.raise m.rdie.toNat m.rctr.toNat m.word1).emit (ackOf m 0 0 0)
  | _ => s

/-- A message whose access faults: discarded whole, and its sender told (08 R256; 12 R380, R385, R386, R392). -/
def State.failMsg (s : State) (m : Msg) (c : Cause) (at' : Word) : State :=
  match m.kind.toNat with
  | 0 => s.refuseData m
  | 2 => s.beginAbort m.ch.toNat
  | 7 | 8 | 9 => s.emit (ackOf m Cause.engineFault.code.toNat c.code.toNat at')
  | 10 => s.finishOp { m with cause := Cause.engineFault.code, reason := c.code, detail := at' }
  | _ => s

/-- A message to be taken meets its wait, is performed, or fails. -/
def State.settleMsg (s : State) (m : Msg) : State :=
  if s.dev.discards m then s
  else match s.msgReach m with
    | .ok => s.performMsg m
    | .bad c a => s.failMsg m c a
    | r => (s.beginWait r).modDev fun d => { d with waitMsgs := d.waitMsgs ++ [(0, m)] }

/-- A message as it comes: refused where a packet of it is corrupt, else behind those that wait, or settled (12 R381). -/
def State.takeMsg (s : State) (m : Msg) : State :=
  match Msg.plain m with
  | none => s.refuseMsg m
  | some m =>
  let s := s.resent m
  if msgBehind s.dev.waitMsgs m && !s.dev.discards m then s.modDev fun d => { d with waitMsgs := d.waitMsgs ++ [(0, m)] }
  else s.settleMsg m

/-- The first waiting message whose wait is over, by its place in the list. -/
def State.readyMsg (s : State) : Option Nat :=
  (List.range s.dev.waitMsgs.length).find? fun i =>
    match s.dev.waitMsgs[i]? with
    | some q =>
      !msgBehind (s.dev.waitMsgs.take i) q.2 &&
        (s.dev.discards q.2 || (match s.msgReach q.2 with | .ok | .bad _ _ => true | _ => false))
    | none => false

/-- The first waiting message whose wait is over settled (MODEL: a move of its own). -/
def State.retryMsg (s : State) : State :=
  match s.readyMsg with
  | none => s
  | some i =>
    match s.dev.waitMsgs[i]? with
    | none => s
    | some q => (s.modDev fun d => { d with waitMsgs := d.waitMsgs.eraseIdx i }).settleMsg q.2

/-- Waiting messages that a test picks fail with a cause (08 R256, R263). -/
def State.failMsgs (s : State) (pick : Reach → Bool) (c : Cause) (at' : Word) : State :=
  let hit := s.dev.waitMsgs.filter fun q => pick (s.msgReach q.2)
  hit.foldl (fun s q => s.failMsg q.2 c at') (s.modDev fun d => { d with waitMsgs := d.waitMsgs.filter fun q => !hit.contains q })

/-- CHANNEL_DATA: accepted or refused (12 R380). -/
def execChannelData (m : Msg) (s : State) : Host.Outcome State Fault Refusal :=
  .next (s.receive m fun s => s.takeMsg { m with kind := 0 })

/-- CREDIT: the channel's CREDIT rises by 1 (12 R380). -/
def execCredit (m : Msg) (s : State) : Host.Outcome State Fault Refusal :=
  .next (s.receive m fun s => s.chanFld m.ch.toNat 2 38 32 (fld (s.dev.chanWord m.ch.toNat 2) 38 32 + 1))

/-- BARRIER_ARRIVAL: counted at the root (12 R392). -/
def execBarrierArrival (m : Msg) (s : State) : Host.Outcome State Fault Refusal :=
  .next (s.receive m fun s => s.takeMsg { m with kind := 2, slots := 0 })

/-- BARRIER_RELEASE: contexts blocked at the episode go on (12 R392). -/
def execBarrierRelease (m : Msg) (s : State) : Host.Outcome State Fault Refusal :=
  .next (s.receive m fun s => s.freeBarrier m.ch.toNat m.seq.toNat)

/-- The members to which the root forwards a token: those that have arrived (10 R331). -/
def Dev.arrivedAt (d : Dev) (g seq : Nat) : List Nat :=
  (((d.episodes.filter fun e => e.group == g && e.seq == seq).flatMap BarEp.srcs).eraseDups).filter fun i => BitVec.ofNat 16 i != d.id

/-- A token forwarded by the root (10 R331; 12 R392). -/
def State.forwardToken (s : State) (kind g seq : Nat) : State :=
  if s.dev.root g = s.dev.id then
    (s.dev.arrivedAt g seq).foldl (fun s i => s.emit (barMsg kind g seq (BitVec.ofNat 16 i))) s
  else s

/-- ABSENCE_TOKEN: an episode held open (10 R331; 12 R392). -/
def execAbsenceToken (m : Msg) (s : State) : Host.Outcome State Fault Refusal :=
  .next (s.receive m fun s =>
    let g := m.ch.toNat
    let seq := m.seq.toNat
    let since := (s.dev.absences.filter fun a => a.group == g && a.seq == seq).foldl (fun n a => min n a.start) s.cycle
    (s.modDev fun d => { d with absences := d.absences ++ [⟨g, seq, m.src.toNat, since⟩] }).forwardToken 3 g seq)

/-- The time an absence stood taken off the wait of a context blocked at its episode (10 R331). -/
def Ctx.skipAbsence (d : Dev) (g seq start now : Nat) (x : Ctx) : Ctx :=
  match x.run with
  | .blocked (.barx ch) since =>
    if d.chanGroup ch == g && x.barSent.any fun b => b.1 == ch && b.2.1 == seq then
      { x with run := .blocked (.barx ch) (since + (now - max start since)) }
    else x
  | _ => x

/-- PRESENCE_TOKEN: an absence withdrawn (10 R331). -/
def execPresenceToken (m : Msg) (s : State) : Host.Outcome State Fault Refusal :=
  .next (s.receive m fun s =>
    let g := m.ch.toNat
    let seq := m.seq.toNat
    match s.dev.absences.find? fun a => a.group == g && a.seq == seq && a.src == m.src.toNat with
    | none => s
    | some a =>
      let s := s.modDev fun d => { d with absences := d.absences.erase a }
      let s := if s.dev.absent g seq then s else s.mapCtxs (Ctx.skipAbsence s.dev g seq a.start s.cycle)
      (s.forwardToken 4 g seq).tryRelease g seq)

/-- ABORT: a group's abort arrives (12 R393). -/
def execAbortFlit (m : Msg) (s : State) : Host.Outcome State Fault Refusal :=
  .next (s.receive m fun s => s.beginAbort m.ch.toNat)

/-- The channels of a group that have sent the arrival of an episode that nothing has answered yet (12 R380, R392). -/
def State.barChannelsOf (s : State) (g seq : Nat) : List Nat :=
  ((s.dev.barOut.filter fun b => s.dev.chanGroup b.1 == g && b.2 == seq).map Prod.fst).eraseDups

/-- A barrier's arrival came back as a mismatch on some channels: the host is told of the first, each stops (07 R242; 12 R380). -/
def State.barRefused (s : State) (seq : Nat) (src : BitVec 16) (chs : List Nat) : State :=
  let s := match chs with
    | ch :: _ => s.post 10 0 0 (BitVec.ofNat 64 ch) (BitVec.ofNat 64 seq) (src.setWidth 64)
    | [] => s
  (chs.foldl State.stopChan s).answered fun b => chs.contains b.1 && b.2 == seq

/-- A send that has fired with a sequence number on a channel and has not completed; md holds that number. -/
def State.sendOf (s : State) (ch seq : Nat) : Option (Nat × Cmd) :=
  (s.cores.flatMap fun q => q.2.cmds.map fun m => (q.1, m)).find? fun m =>
    m.2.fn == 5 && m.2.st != .queued && m.2.aux == ch && m.2.md == seq

/-- A fired send faults: it advances no ring and gives back its slots (07 R234). -/
def State.failSend (s : State) (c : Nat) (m : Cmd) (cause : Cause) (detail : Nat) : State :=
  (s.modCore c fun k =>
    let r := k.ring m.qa
    { k.setRing m.qa { r with taken := r.taken - r.declared } with cmds := k.cmds.filter fun q => q.id != m.id }).pendFor
    m.gang m.coreIdx m.field0 cause (engInfo 3 5 m.ordinal 0 detail)

/-- MISMATCH: the channel stops, and its send faults or the host is told (12 R380). -/
def execMismatch (m : Msg) (s : State) : Host.Outcome State Fault Refusal :=
  .next (s.receive m fun s =>
    let ch := m.ch.toNat
    let seq := m.seq.toNat
    if m.op = 2 then
      s.barRefused seq m.src (ch :: (s.barChannelsOf (s.dev.chanGroup ch) seq).filter fun c => c != ch)
    else if m.op = 3 then s.barRefused seq m.src (s.barChannelsOf ch seq)
    else
      let s := match s.sendOf ch seq with
        | some (c, k) => s.failSend c k .channelMismatch ch
        | none => s.post 10 0 0 (BitVec.ofNat 64 ch) (m.seq.setWidth 64) (m.src.setWidth 64)
      s.stopChan ch)

/-- PUT: bytes written, counts raised (12 R387, R389). -/
def execPut (m : Msg) (s : State) : Host.Outcome State Fault Refusal :=
  .next (s.receive m fun s => s.takeMsg { m with kind := 7 })

/-- PUT_ACCUMULATE: elements combined (12 R388). -/
def execPutAccumulate (m : Msg) (s : State) : Host.Outcome State Fault Refusal :=
  .next (s.receive m fun s => s.takeMsg { m with kind := 8 })

/-- GET_REQUEST: bytes read and sent back (12 R385). -/
def execGetRequest (m : Msg) (s : State) : Host.Outcome State Fault Refusal :=
  .next (s.receive m fun s => s.takeMsg { m with kind := 9 })

/-- GET_REPLY: bytes written here, the get complete (12 R385). -/
def execGetReply (m : Msg) (s : State) : Host.Outcome State Fault Refusal :=
  .next (s.receive m fun s => s.takeMsg { m with kind := 10 })

/-- REMOTE_COUNTER_ADD: a counter raised and the peer told (12 R385). -/
def execRemoteCounterAdd (m : Msg) (s : State) : Host.Outcome State Fault Refusal :=
  .next (s.receive m fun s => s.takeMsg { m with kind := 11 })

/-- COMPLETION_ACKNOWLEDGEMENT: an operation completes (12 R385). -/
def execCompletionAcknowledgement (m : Msg) (s : State) : Host.Outcome State Fault Refusal :=
  .next (s.receive m fun s => s.finishOp m)

/-- A context's barrier arrival sent, its accesses performed (07 R242; 12 R375, R392). -/
def State.barSend (s : State) (c p ch : Nat) : State :=
  let g := s.dev.chanGroup ch
  let seq := s.dev.bseq ch
  let root := s.dev.root g
  if !s.dev.names root then s.pend c p .channelMismatch (BitVec.ofNat 64 ch)
  else
    let s := (s.modDev fun d => { d with barOut := d.barOut ++ [(ch, seq)] }).chanFld ch 4 47 32 ((seq + 1) % 65536)
    let s := s.modCtx c p fun x =>
      { x with barSent := x.barSent ++ [(ch, seq, false)], barChs := if x.barChs.contains ch then x.barChs else x.barChs ++ [ch] }
    if root = s.dev.id then s.takeMsg { barMsg 2 g seq root with src := s.dev.id, slots := ch + 1 }
    else s.emit (barMsg 2 g seq root)

end Sys2Proof.Machine
end

