-- ==== Sys2Proof/Machine/FabricEvents.lean ====
section
/-! DEFINITION. Ports (12 R374 to R377), channel records (12 R378), and writes of the Trellis, its counters and the group
slots (12 R382 to R384, R391, R393). -/

namespace Sys2Proof.Machine

/-- The device at the other end of a port: the neighbour on the torus (12 R375); the manual gives no way to tell the
neighbour on the D ring: a free value. -/
def State.portPeer (s : State) (p : Nat) : Nat :=
  if p < 6 then
    let k := p / 2
    let n := s.dev.torusSize k
    let c := coord s.dev.id k
    let c' := if p % 2 = 0 then (c + 1) % n else (c + n - 1) % n
    s.dev.id.toNat - c * 2 ^ dimLo k + c' * 2 ^ dimLo k
  else (Config.freeWord (freeKey s.free 3)).toNat % 65536

/-- A channel's route leaves by a port, or did leave by it before detouring (12 R376; 10 R316). -/
def Dev.leavesBy (d : Dev) (p ch : Nat) : Bool :=
  let w := d.chanWord ch 0
  bit w 63 && (d.firstPort (BitVec.ofNat 2 (fld w 61 60)) (BitVec.ofNat 16 (fld w 15 0)) == some p ||
    (d.hop (d.toPeer ch 0)).map Prod.fst == some p)

/-- The groups with a fired operation whose flits a port has lost (12 R376). -/
def State.lostGroups (s : State) (p : Nat) : List Nat :=
  ([0, 1].flatMap fun d =>
    ((s.die d).fired.filter fun o => (s.dev.lostBy p).contains (2 * o.id + d)).map fun o => fld (o.words.getD 0 0) 55 50).eraseDups

/-- A port goes down: the channels are those that leave by it while it is up (12 R376; 10 R316). -/
def State.portFails (s : State) (p : Nat) : State :=
  let peer := s.portPeer p
  let info : Word := BitVec.ofNat 64 (peer * 65536 + p)
  let hit := (List.range 256).filter (s.dev.leavesBy p)
  let groups := s.lostGroups p
  let s := ((s.takeFree 1).emptyPort p 0).modPort p fun q => { q with lostOps := [] }
  let s := s.post 11 0 0 (BitVec.ofNat 64 p) (BitVec.ofNat 64 peer) 0
  let s := s.pendAtBarx hit.contains .linkDown fun _ => info
  let gangs := (((s.cores.flatMap fun q => q.2.cmds) ++ s.savedCmds).filter fun m => m.fn == 5 && hit.contains m.aux).map Cmd.gang
  let s := gangs.eraseDups.foldl (fun s g => s.pendLead g .linkDown info) s
  let s := hit.foldl (fun s ch => s.chanFld ch 0 62 62 1) s
  groups.foldl State.beginAbort s

/-- FLIT_CRC_FAILURE: a refused flit, sent again or not (12 R374). -/
def execFlitCrcFailure (port : Nat) (resendOk : Bool) (s : State) : Host.Outcome State Fault Refusal :=
  .next (s.flitRefused port resendOk)

/-- PORT_RETRAIN_END: a retrain succeeds, or fails; the third failure in succession takes the port down (12 R374,
R376). -/
def execPortRetrainEnd (port : Nat) (ok : Bool) (s : State) : Host.Outcome State Fault Refusal :=
  .next
    (let q := Tab.get s.dev.ports Port.reset port
     if q.state ≠ 1 then s
     else if ok then s.modPort port fun q => { q with state := 2, failedRetrains := 0 }
     else
       let s := s.modPort port fun q => { q with failedRetrains := q.failedRetrains + 1 }
       if q.failedRetrains + 1 ≥ 3 then s.portFails port else s)

/-- RETRAIN: a port that is down starts a retrain (12 R376, R377). -/
def execRetrain (port : Nat) (s : State) : Host.Outcome State Fault Refusal :=
  .next (if s.dev.portDown port then s.modPort port fun q => { q with state := 1, failedRetrains := 0, refusals := 0, corrupt := 0 } else s)

/-- RESERVED_KIND_FLIT: discarded and counted (12 R372). -/
def execReservedKindFlit (port : Nat) (s : State) : Host.Outcome State Fault Refusal :=
  .next (s.modPort port fun q => { q with crcerr := satInc q.crcerr })

/-- A word of a channel's record after a write: ERR is only cleared (12 R378). -/
def chanWrite (i : Nat) (old w : Word) : Word :=
  let v := (old &&& ~~~chanMask i) ||| (w &&& chanMask i)
  if i = 0 then setFld v 62 62 (fld old 62 62 * fld w 62 62) else v

/-- CHANNEL_CONFIGURE: a word of a channel's record written; VALID going from 0 to 1 zeroes the sequence fields (12
R378). -/
def execChannelConfigure (word : Nat) (w : Word) (s : State) : Host.Outcome State Fault Refusal :=
  .next
    (let old := Tab.get s.dev.chanTab 0 word
     let s' := s.modDev fun d => { d with chanTab := Tab.set d.chanTab word (chanWrite (word % 8) old w) }
     if word % 8 = 0 ∧ bit w 63 ∧ !bit old 63 then
       s'.modDev fun d =>
         { d with chanTab := Tab.set d.chanTab (word + 4) 0, barOut := d.barOut.filter fun q => q.1 != word / 8 }
     else s')

/-- COUNTER_WRITE: stored, then judged for firing (12 R382, R384). -/
def execCounterWrite (die ctr : Nat) (w : Word) (s : State) : Host.Outcome State Fault Refusal :=
  .next
    ((s.modDie die fun v => { v with counters := Tab.set v.counters ctr w }).counterChanged die ctr)

/-- ENTRY_ARM_WRITE: word 0 of an entry written; with ARMED = 1 the entry is armed by no context, and fires in the next
cycle if it is met (12 R383, R384). -/
def execEntryArmWrite (die entry : Nat) (w : Word) (s : State) : Host.Outcome State Fault Refusal :=
  .next (s.modDie die fun v =>
    let v := { v with trellis := maskInto v.trellis (8 * entry) (trellisMask 0) w }
    if bit w 63 then
      { v with trellis := Tab.set v.trellis (8 * entry + 6) (setFld (v.word entry 6) 50 40 0x7FF) }.rearmed entry
    else { v with refire := v.refire.filter (fun e => e != entry), due := v.due.filter fun e => e != entry })

/-- TRELLIS_REFIRE: an entry left over from the cycle before fires if it is still armed and met (12 R384). -/
def execTrellisRefire (die entry : Nat) (s : State) : Host.Outcome State Fault Refusal :=
  .next (if (s.die die).due.contains entry then s.fireDue die entry else s)

/-- GROUP_START: RUNNING, SEEN cleared (12 R391). -/
def execGroupStart (slot : Nat) (s : State) : Host.Outcome State Fault Refusal :=
  .next (s.modGroup slot fun q =>
    { q with w0 := setFld (setFld q.w0 61 60 1) 62 62 0, forwarded := false, wrote := [],
             startMet := decide (q.fthr.toNat ≤ (s.finalCtr q).toNat) })

/-- GROUP_START_COMPLETE: a slot whose threshold was met at its START completes in the next cycle (12 R391). -/
def execGroupStartComplete (slot : Nat) (s : State) : Host.Outcome State Fault Refusal :=
  .next
    (let q := s.dev.group slot
     if q.startMet ∧ q.state = 1 then s.modGroup slot fun q => q.leave 2 (s.finalCtr q) else s)

/-- GROUP_ABORT: a local ABORT (12 R393). -/
def execGroupAbort (slot : Nat) (s : State) : Host.Outcome State Fault Refusal := .next (s.beginAbort slot)

end Sys2Proof.Machine
end

