-- ==== Sys2Proof/Machine/CtxEvents.lean ====
section
/-! DEFINITION. What happens to a context beside its bundles: steps without a bundle (01 R25, R42), results and replies (01
R43, R47, R49), pending and debug traps (10 R313, R333, R334), the ends of waits (07 R240 to R243), time-outs and freezes
(07 R241, R242; 10 R325 to R328), detected errors (10 R321 to R323; 06 R207) and the host's actions (10 R337). An event
whose occasion is absent leaves the state as it is. -/

namespace Sys2Proof.Machine

/-- STALL_STEP: a step in which nothing issues (01 R42). -/
def execStallStep (s : State) : Host.Outcome State Fault Refusal :=
  .next (match s.fctx? with
    | none => s
    | some x => if x.stalls = 0 then s else ((s.spend s.fc).stallOnce s.fc s.fp).closeWindow s.fc s.fp)

/-- BUNDLE_NULLIFIED: one step, no effect (01 R25). The exemption from BREAKPOINT of the first bundle to issue after an eret
stays (10 R334). -/
def execBundleNullified (s : State) : Host.Outcome State Fault Refusal :=
  .next (match s.fctx? with
    | none => s
    | some x =>
      if x.arch.pc.n then
        (((s.spend s.fc).advance s.fc s.fp none).modCtx s.fc s.fp fun y =>
          { y with arch := { y.arch with bpExempt := x.arch.bpExempt } }).closeWindow s.fc s.fp
      else s)

/-- RESULT_DUE: the results due are written (01 R43, R44). -/
def execResultDue (s : State) : Host.Outcome State Fault Refusal := .next (s.applyDue s.fc s.fp)

/-- The accesses of a context performed in order up to one (08 R269). -/
def State.performTo (s : State) (c p id : Nat) : State :=
  match s.ctx? c p with
  | none => s
  | some x =>
    match x.acc.find? fun a => a.id == id with
    | none => s
    | some a => (x.acc.filter fun b => decide (b.ord ≤ a.ord)).foldl (fun s b => s.performOne c p b.id) s

/-- A context parked silently is ready again: its absence is withdrawn (10 R326, R327, R331). -/
def State.unpark (s : State) (c p : Nat) : State :=
  (s.modCtx c p fun x => { x with run := .ready }).tellPresence c p

/-- GLOBAL_REPLY: a load's or atomic's reply reaches its context; a freeze or park that waits on it ends (01 R47; 10
R327). -/
def execGlobalReply (core place id : Nat) (s : State) : Host.Outcome State Fault Refusal :=
  .next
    (let s := (s.performTo core place id).deliver core place id
     let s := s.modCore core fun k => match k.freeze with
       | some f => if f.place = place ∧ f.kind = .reply id then { k with freeze := none } else k
       | none => k
     match s.ctx? core place with
     | some x => (match x.run with
       | .awaitAtomic i _ => if i = id ∧ x.acc.all (fun a => a.id != id) then s.unpark core place else s
       | _ => s)
     | none => s)

/-- TRANSLATION_RESOLVED: the walk of the address that a context waits on is kept for it and installed (01 R49; 11
R366). -/
def execTranslationResolved (core place : Nat) (s : State) : Host.Outcome State Fault Refusal :=
  .next (match (s.core core).freeze with
    | some f =>
      (match f.kind with
        | .xlate va =>
          if f.place = place then
            match s.dev.walk va with
            | some e => (s.modCtx core place fun x => { x with walks := x.walks ++ [(va / 0x10000, .ok e)] }).install core e
            | none => s.modCtx core place fun x => { x with walks := x.walks ++ [(va / 0x10000, .fault .pageNotPresent)] }
          else s
        | _ => s)
    | none => s)

/-- A page is on this device and stays (08 R262, R265). -/
def State.pageHere (s : State) (page : Nat) : Bool :=
  !s.dev.leaving page && (match s.dev.walk page with
    | some e => !(e.hv && e.hown)
    | none => true)

/-- What a freeze waits on has come (01 R47, R49; 08 R263). -/
def State.thawed (s : State) (c : Nat) (f : Freeze) : Bool :=
  match s.ctx? c f.place with
  | none => true
  | some x =>
    match f.kind with
    | .xlate va => (x.walked va).isSome
    | .reply id => x.acc.all fun a => a.id != id
    | .read _ late => !late && !x.readsHeld
    | .migrate va => s.pageHere (pageOf va) || (match x.walked va with | some (.fault _) => true | _ => false)

/-- A core's issue is held by a freeze (01 R45). -/
def State.frozen (s : State) (c : Nat) : Bool :=
  match (s.core c).freeze with
  | some f => !s.thawed c f
  | none => false

/-- TAKE_PENDING_TRAP: the pending trap that comes first is taken; a machine check after a rollback (10 R311, R313,
R314). -/
def execTakePendingTrap (s : State) : Host.Outcome State Fault Refusal :=
  .next (match s.fctx? with
    | none => s
    | some x => match x.nextPend with
      | none => s
      | some q =>
        (if q.cause.isMachineCheck then s.rollback s.fc s.fp else s).takePending s.fc s.fp)

/-- A bundle at BPADDR stops before it issues (10 R334). -/
def Ctx.atBreakpoint (x : Ctx) : Bool :=
  x.debuggable && bit x.ctl 1 && x.arch.pc.addr.toNat == fld x.bpaddr 55 4 && !x.arch.bpExempt && !x.arch.pc.n

/-- BREAKPOINT (10 R334). -/
def execBreakpoint (s : State) : Host.Outcome State Fault Refusal :=
  .next (match s.fctx? with
    | none => s
    | some x => if x.atBreakpoint then (s.spend s.fc).trapEnter s.fc s.fp .breakpoint x.bpaddr 0 else s)

/-- QUANTUM_EXPIRY: the turn ends, or the context traps QUANTUM (09 R295). -/
def execQuantumExpiry (s : State) : Host.Outcome State Fault Refusal :=
  .next (match s.fctx? with
    | none => s
    | some x =>
      if s.quantumUp s.fc x then
        (if x.qtrap then s.trapEnter s.fc s.fp .quantum x.arch.quantum 0 else s.endTurn s.fc)
      else s)

/-- TIMER: pending once CYCLE reaches TCMP with TEN set (10 R333); of a saved context State.timeSaved looks each cycle. -/
def execTimer (core place : Nat) (s : State) : Host.Outcome State Fault Refusal :=
  .next (match s.ctx? core place with
    | none => s
    | some x =>
      if x.timerDue s.cycle then s.pend core place .timer s.cycleWord else s)

/-- HOSTEVT: HOST_EVENT becomes pending with the value written (10 R333). -/
def execHostevt (core place : Nat) (v : Word) (s : State) : Host.Outcome State Fault Refusal :=
  .next (s.pend core place .hostEvent v)

/-- Every access that a context has published has been performed, stores held for a page among them (08 R265, R266). -/
def State.allPerformed (s : State) (c p : Nat) : Bool :=
  ((s.ctx? c p).map fun x => (x.acc.all fun a => !a.pending) && (s.heldBy x).isEmpty).getD true

/-- DRAIN_SATISFIED: the accesses that a blocked drain, sync or barx waits on are performed; the drain ends, the sync
contributes, the barx sends its arrival (07 R240, R242, R243). -/
def execDrainSatisfied (core place : Nat) (s : State) : Host.Outcome State Fault Refusal :=
  .next (match s.ctx? core place with
    | none => s
    | some x =>
      match x.run with
      | .blocked (.drain _) _ =>
        let s := s.performAll core place
        if s.drained core place then s.modCtx core place fun x => { x with run := .ready } else s
      | .blocked .sync _ =>
        let s := s.performAll core place
        if s.allPerformed core place then s.modCtx core place fun x => { x with syncIn := true } else s
      | .blocked (.barx ch) _ =>
        if x.barSent.any fun b => b.1 == ch then s
        else
          let s := s.performAll core place
          if s.allPerformed core place then s.barSend core place ch else s
      | _ => s)

/-- The sync line of a gang (09 R288). -/
def State.gangLine (s : State) (g : Nat) : Nat := ((Tab.find? s.dev.gangs g).map Gang.line).getD 0

/-- SYNC_TIMEOUT: a context blocked at sync for more than 4,096 × WATCHDOG cycles, counted while its gang is placed (07
R241). -/
def execSyncTimeout (core place : Nat) (s : State) : Host.Outcome State Fault Refusal :=
  .next (match s.ctx? core place with
    | none => s
    | some x =>
      match x.run with
      | .blocked .sync since =>
        if s.cycle - since + x.syncWait > 4096 * fld (s.core core).watchdog 31 0 ∧ !x.hasPend .syncTimeout then
          s.pend core place .syncTimeout (BitVec.ofNat 64 (s.gangLine x.gang))
        else s
      | _ => s)

/-- A context's wait at a barx has lasted longer than its channel allows and no absence suspends it (07 R242; 10
R331). -/
def State.barLate (s : State) (x : Ctx) : Option Nat :=
  match x.run with
  | .blocked (.barx ch) since =>
    let t := fld (s.dev.chanWord ch 2) 15 0
    let held := x.barSent.any fun b => b.1 == ch && s.dev.absent (s.dev.chanGroup ch) b.2.1
    if t ≠ 0 ∧ s.cycle - since > 65536 * t ∧ !held ∧ !x.hasPend .barrierTimeout then some ch else none
  | _ => none

/-- BARRIER_TIMEOUT (07 R242). -/
def execBarrierTimeout (core place : Nat) (s : State) : Host.Outcome State Fault Refusal :=
  .next (match (s.ctx? core place).bind s.barLate with
    | some ch => s.pend core place .barrierTimeout (BitVec.ofNat 64 ch)
    | none => s)

/-- A freeze has lasted its bound (10 R325). -/
def State.expired (s : State) (f : Freeze) : Bool := decide (f.since + f.bound ≤ s.cycle)

/-- A context parked silently, its core free; its next turn starts as at a boundary (10 R313, R326, R327, R331). -/
def State.parkSilent (s : State) (c p : Nat) (r : Run) : State :=
  (((s.modCore c fun k => k.unfreeze p).modCtx c p fun x => { x with run := r, turnStart := true }).tellAbsence c p).endTurnOf c p

/-- FREEZE_TIMEOUT becomes pending for a context, once. -/
def State.pendFreeze (s : State) (c p va : Nat) : State :=
  s.modCtx c p fun x => if x.hasPend .freezeTimeout then x else x.pend .freezeTimeout (BitVec.ofNat 64 va)

/-- FREEZE_TIMEOUT_BEFORE_COMMIT: the bundle stays unissued; the context is parked until its page is here, or until its next
turn, at whose start it traps (10 R313, R326). -/
def execFreezeTimeoutBeforeCommit (core place : Nat) (s : State) : Host.Outcome State Fault Refusal :=
  .next (match (s.core core).freeze with
    | none => s
    | some f =>
      if f.place ≠ place ∨ !s.expired f then s
      else
        let quit (va : Nat) : State := (s.pendFreeze core place va).parkSilent core place .ready
        match f.kind with
        | .reply _ => s
        | .xlate va | .read va _ => quit va
        | .migrate va => if s.hostDecides (pageOf va) then quit va else s.parkSilent core place (.migrating (pageOf va)))

/-- FREEZE_TIMEOUT_AT_DUE: a reply is late beyond the watchdog; the context is rolled back, and parked or traps (10
R327). -/
def execFreezeTimeoutAtDue (core place : Nat) (s : State) : Host.Outcome State Fault Refusal :=
  .next (match (s.core core).freeze, s.ctx? core place with
    | some f, some x =>
      if f.place ≠ place ∨ !s.expired f then s
      else
        match f.kind with
        | .reply id =>
          (match x.acc.find? fun a => a.id == id with
            | none => s
            | some a =>
              let s := s.rollback core place
              if a.kind = .atomic then s.parkSilent core place (.awaitAtomic id s.cycle)
              else if !s.pageHere (pageOf a.va) ∧ !s.hostDecides (pageOf a.va) then s.parkSilent core place (.migrating (pageOf a.va))
              else s.pendFreeze core place a.va)
        | _ => s
    | _, _ => s)

/-- The flights that do not wait on a reply. -/
def dropReply (id : Nat) (fs : List Flight) : List Flight :=
  fs.filter fun f => match f.val with
    | .load _ i none => i != id
    | _ => true

/-- The result of an atomic given up, live and in the mark's record (04 R145). -/
def Ctx.dropAtomic (x : Ctx) (id : Nat) : Ctx :=
  { x with acc := x.acc.filter fun a => a.id != id, flights := dropReply id x.flights,
           mark := x.mark.map fun m => { m with flights := dropReply id m.flights } }

/-- MC_DATA or MC_LOGIC with its source and detail (10 R317). -/
def mcInfo (source detail : Nat) : Word := BitVec.ofNat 64 (source % 16 * 2 ^ 60 + detail % 2 ^ 56)

/-- ATOMIC_REPLY_TIMEOUT: 16 × WATCHDOG after the park, MC_DATA (10 R327). -/
def execAtomicReplyTimeout (core place : Nat) (s : State) : Host.Outcome State Fault Refusal :=
  .next (match s.ctx? core place with
    | none => s
    | some x =>
      match x.run with
      | .awaitAtomic id since =>
        if since + 16 * fld (s.core core).watchdog 31 0 ≤ s.cycle then
          let va := ((x.acc.find? fun a => a.id == id).map Access.va).getD 0
          ((s.modCtx core place fun x => x.dropAtomic id).rollback core place).trapEnter core place
            .mcData (mcInfo 9 va) 0
        else s
      | _ => s)

/-- The page of an address marked poisoned, and the host told (10 R322). -/
def State.poisonPage (s : State) (va : Nat) : State :=
  match s.dev.leaf va with
  | none => s
  | some (at', e) =>
    ((s.modDev fun d => d.paPut at' (bytesLE 8 (setFld (d.word at') 63 63 1).toNat)).dropXlate e.va e.size).post 6 0 0
      (BitVec.ofNat 64 va) 0 0

/-- The cause of a lasting error (10 R317, R321): a reply lost on a link whose port has gone down is LINK_DOWN. -/
def State.lastingCause (s : State) (e : DetErr) : Cause × Word :=
  match (if e.source = 8 then e.port.filter fun p => s.dev.portDown p.toNat else none) with
  | some p => (.linkDown, BitVec.ofNat 64 (s.portPeer p.toNat * 65536 + p.toNat))
  | none => (if e.source = 6 ∨ e.source = 7 then .mcLogic else .mcData, mcInfo e.source.toNat e.detail.toNat)

/-- The step of the error of a retry window, in the values of STEP: of the load whose reply was bad the step at which its
result is due, else that of the detecting bundle or of the result due now (10 R321). -/
def Ctx.errorStep (x : Ctx) (e : DetErr) : Nat :=
  let load : Option Flight :=
    if e.source = 4 ∨ e.source = 5 ∨ e.source = 8 then
      x.acc.findSome? fun a =>
        if a.va = e.detail.toNat then x.flights.find? fun f => match f.val with | .load _ i _ => i == a.id | _ => false
        else none
    else none
  match load with
  | some f => x.arch.step.toNat + (if f.lvl = x.arch.lvl then f.due - x.stepNo else f.due)
  | none => x.arch.step.toNat

/-- The trap of a lasting error, the context rolled back: one that is no machine check is held in a handler (10 R312, R321). -/
def State.trapLasting (s : State) (c p : Nat) (cause : Cause) (info : Word) : State :=
  match s.ctx? c p with
  | none => s
  | some x =>
    if x.arch.inHandler ∧ !cause.isMachineCheck then (s.modCtx c p fun x => { x with window := none }).pend c p cause info
    else s.trapEnter c p cause info 0

/-- DETECTED_ERROR: a rollback, with the retry window opened, or the trap of a lasting error, which poisons its page where
memory gave it: a reply from L2, HBM4E or LPDDR6 (10 R321, R322; 04 R145). -/
def execDetectedError (core place : Nat) (e : DetErr) (s : State) : Host.Outcome State Fault Refusal :=
  .next (
    let s := s.settleSplit core place
    match s.ctx? core place with
    | none => s
    | some x =>
      if e.source = 9 then
        let id := ((x.acc.find? fun a => a.kind == .atomic && a.va == e.detail.toNat).map Access.id).getD x.nextId
        ((s.rollback core place).modCtx core place fun x => x.dropAtomic id).trapEnter core place .mcData
          (mcInfo 9 e.detail.toNat) 0
      else if x.window.isSome then
        let s := if e.source = 5 then s.poisonPage e.detail.toNat else s
        let c := s.lastingCause e
        ((s.takeFree 1).rollback core place).trapLasting core place c.1 c.2
      else
        let s := (s.rollback core place).modCtx core place fun y => { y with window := some (x.errorStep e) }
        if x.run = .parked then s else s.tellPresence core place)

/-- Row r of the matrix state filled with the canonical NaN, its updates in flight dropped (06 R207). -/
def MatShadow.nanFill (h : MatShadow) (r : Nat) : MatShadow :=
  { h with
    rows := Tab.set h.rows r nanRow,
    pend := h.pend.filter fun f => match f.op with | .row q _ => q != r | _ => true }

/-- The same in the live state. -/
def MatUnit.nanFill (m : MatUnit) (r : Nat) : MatUnit :=
  { m with
    rows := Tab.set m.rows r nanRow,
    pend := m.pend.filter fun f => match f.op with | .row q _ => q != r | _ => true }

/-- MATRIX_BEAT_RETRY: a beat executed again: counted, or the holder rolled back and trapped (06 R207). The row number in EINFO
is the holder's own, as an instruction names it; the event names the physical row (log entry 63). -/
def execMatrixBeatRetry (core : Nat) (f : BeatFail) (s : State) : Host.Outcome State Fault Refusal :=
  .next (match (s.core core).mat.holder with
    | none => s
    | some p =>
      if f.retryOk then s.countTransient core p
      else
        let s := s.settleSplit core p
        let s :=
          if f.afterMark then s
          else (s.modCore core fun k => { k with mat := k.mat.nanFill f.row.toNat }).modCtx core p fun x =>
            { x with mark := x.mark.map fun m => { m with mat := m.mat.map fun h => h.nanFill f.row.toNat } }
        let base := ((s.ctx? core p).map Ctx.aBase).getD 0
        (s.rollback core p).trapEnter core p (if f.ecc then .mcData else .mcLogic)
          (mcInfo 6 ((f.row.toNat - base) % 256 + if f.afterMark then 0 else 256)) 0)

/-- ACTION_RESUME: a host park ends as an eret does; the mark taken as it began is recorded as the context goes on from it
(10 R318, R337). -/
def execActionResume (core place : Nat) (s : State) : Host.Outcome State Fault Refusal :=
  .next (match s.ctx? core place with
    | none => s
    | some x => if x.hostParked then ((s.trapReturn core place).recordMark core place).tellPresence core place else s)

/-- ACTION_HANDLER: a host park ends in the handler (10 R337). -/
def execActionHandler (core place : Nat) (s : State) : Host.Outcome State Fault Refusal :=
  .next (match s.ctx? core place with
    | none => s
    | some x =>
      if x.hostParked then
        s.enterHandler core place (causeGroup (x.arch.ecause.setWidth 6))
      else s)

end Sys2Proof.Machine
end

