-- ==== Sys2Proof/Machine/Commands.lean ====
section
/-! DEFINITION. Engine commands in their queues (07 R211 to R214, R234), and where the elements of a copy lie (11 R342). -/

namespace Sys2Proof.Machine

/-- The command at the head of an engine's queue among those that have not fired (07 R212). -/
def Core.nextOf (k : Core) (eng : Nat) : Option Cmd := k.cmds.find? fun m => m.eng == eng && m.st == .queued

/-- A store of a command's context from before its bundle has not been performed: it waits for a page (08 R265, R271). -/
def State.cmdBehind (s : State) (m : Cmd) : Bool :=
  ((s.heldOf m.gang m.coreIdx m.field0).any fun h => decide (h.ord < m.accOrd))

/-- The copy engine of a core stands still: a freeze holds it with its core, and so does an offline core, or a clamped one but
for a gang that is being saved (01 R45; 13 R413, R414). -/
def State.copyHeld (s : State) (c gang : Nat) : Bool :=
  s.frozen c || (s.core c).offline ||
    ((s.core c).clamped && !((Tab.find? s.dev.gangs gang).map fun g => g.st == .saving).getD false)

/-- A command may go on: its engine runs. -/
def State.cmdRuns (s : State) (c : Nat) (m : Cmd) : Bool := m.eng != 0 || !s.copyHeld c m.gang

/-- A Cellar command that has entered its queue in this very cycle: another of the cycle may yet come before it in directory order
(11 R353). -/
def State.tooNew (s : State) (m : Cmd) : Bool := m.eng == 2 && decide (s.cycle * 1024 * 2 ^ 64 < m.order)

/-- The command that an engine may fire next: the head of its queue, once what its context stored before is performed (07 R212;
08 R271). -/
def State.nextFor (s : State) (c eng : Nat) : Option Cmd :=
  ((s.core c).nextOf eng).filter fun m => s.cmdRuns c m && !s.cmdBehind m && !s.tooNew m

/-- A command replaced. -/
def State.setCmd (s : State) (c : Nat) (m : Cmd) : State :=
  s.modCore c fun k => { k with cmds := k.cmds.map fun q => if q.id = m.id then m else q }

/-- A command removed: its queue place is free (07 R211), and no update of a sync object is left of it. -/
def State.dropCmd (s : State) (c id : Nat) : State :=
  s.modCore c fun k => { k with cmds := k.cmds.filter fun q => q.id != id, sobj := k.sobj.filter fun u => !u.who.isCmd id }

/-- The ring a command consumes from, and the one it produces into (07 R213). -/
def Cmd.inRing (m : Cmd) : Option Nat := if m.fn = 1 ∨ m.fn = 2 ∨ m.fn = 5 then some m.qa else none
def Cmd.outRing (m : Cmd) : Option Nat :=
  if m.fn = 1 ∨ m.fn = 3 ∨ (m.fn = 0 ∧ (Shape.parse m.shape).cmode = 0) then some m.qb else none

/-- The slots a fired command reserved given back (07 R213, R234). -/
def Core.giveBack (k : Core) (m : Cmd) : Core :=
  let k := match m.inRing with
    | some q => k.setRing q { k.ring q with taken := (k.ring q).taken - (k.ring q).declared }
    | none => k
  match m.outRing with
  | some q => k.setRing q { k.ring q with reserved := (k.ring q).reserved - (k.ring q).declared }
  | none => k

/-- The slots a command needs reserved as it fires (07 R213). -/
def Core.takeSlots (k : Core) (m : Cmd) : Core :=
  let k := match m.inRing with
    | some q => k.setRing q { k.ring q with taken := (k.ring q).taken + (k.ring q).declared }
    | none => k
  match m.outRing with
  | some q => k.setRing q { k.ring q with reserved := (k.ring q).reserved + (k.ring q).declared }
  | none => k

/-- A command's rings let it fire (07 R213). -/
def Core.ringsAdmit (k : Core) (m : Cmd) : Bool :=
  (match m.inRing with
    | some q => decide ((k.ring q).declared ≤ (k.ring q).avail)
    | none => true) &&
  (match m.outRing with
    | some q => decide ((k.ring q).declared ≤ (k.ring q).free)
    | none => true)

/-- A byte range or the bytes of scratchpad that one element of a copy occupies (11 R342). -/
inductive Spot where
  | glob (va : Nat)
  | sp (core : Nat) (offs : List Nat)
  | nvme (key : Nat)
deriving DecidableEq, Repr

/-- Where a byte of a namespace slot is kept (11 R360, R361): by port and namespace. -/
def Dev.nvmeKey (d : Dev) (slot off : Nat) : Nat :=
  let w := Tab.get d.cellarRegs 0 (0x100 + 16 * slot)
  (fld w 62 62 * 2 ^ 32 + fld w 31 0) * 2 ^ 48 + off

/-- The spot of element i, n bytes long, of one side of a copy of core c (07 R225; 11 R342). -/
def State.elemSpot (s : State) (c : Nat) (m : Cmd) (sd : Side) (ds : List (Nat × Int)) (n i : Nat) : Option Spot :=
  let a := sd.addr ds i
  match sd with
  | .glob _ => some (.glob a)
  | .own _ => (viewOffs m.banks a n).map fun o => .sp c o
  | .peer k _ => ((s.gangCores m.gang c)[k]?).map fun q => .sp q ((List.range n).map fun j => a + j)
  | .nvme slot _ => some (.nvme (s.dev.nvmeKey slot a))

/-- What an engine's access to n bytes of a spot meets (07 R222; 08 R254, R256, R263; 11 R343, R347). -/
def State.spotReach (s : State) (d : Nat) (priv : Bool) (u : Use) (n : Nat) (p : Spot) : Reach :=
  match p with
  | .glob a =>
    (match s.migrateNeed d priv u a n with
      | some g => .page g
      | none => match s.engineBar d priv u a n with
        | some f => .bad f.1 (BitVec.ofNat 64 f.2)
        | none => .ok)
  | .sp c offs =>
    let k := s.core c
    (match offs.find? fun o => !k.engineOwns (tileOf o) with
      | some o => .bad .owner (BitVec.ofNat 64 o)
      | none => if (k.unfilledOf offs).isEmpty then .ok else .fills c (k.unfilledOf offs))
  | .nvme _ => .ok

/-- The n bytes of a spot that may be read. -/
def State.spotRead (s : State) (d : Nat) (priv : Bool) (n : Nat) (p : Spot) : List Byte :=
  match p with
  | .glob a => (match s.engineRead d priv a n with | .ok bs => bs | .error _ => [])
  | .sp c offs => offs.map (s.core c).spByte
  | .nvme key => Mem.bytes s.dev.nvme key n

/-- Bytes written to a spot that may be written. -/
def State.spotWrite (s : State) (d : Nat) (p : Spot) (bs : List Byte) : State :=
  match p with
  | .glob a => s.enginePut d a bs
  | .sp c offs => s.modCore c fun k => k.agentPut (offs.zip bs)
  | .nvme key => s.modDev fun v => { v with nvme := Mem.writeBytes v.nvme key bs }

/-- The bytes of a spot left undefined (07 R234). -/
def State.spotUndef (s : State) (d : Nat) (n : Nat) (p : Spot) : State :=
  match p with
  | .glob a => (List.range n).foldl (fun s i => match s.engineEnt d (a + i) with
    | some e => s.undefGl (e.phys (a + i)) 1
    | none => s) s
  | .sp c offs => offs.foldl (fun s o => s.undefSp c o 1) s
  | .nvme key =>
    State.takeFree (s.modDev fun v =>
      { v with nvme := Mem.writeBytes v.nvme key ((List.range n).map fun i => Config.freeByte (freeKey s.free 4) (key + i)) }) 1

/-- A copy: its source and destination, its shape, and how each of its elements is moved (11 R343). -/
structure CopyPlan where
  src : Side
  dst : Side
  shape : Shape
  elems : List ElemPlan

/-- A copy's plan as it stands (11 R340, R343). -/
def State.copyOf (s : State) (c : Nat) (m : Cmd) : Option CopyPlan :=
  let n := (s.gangCores m.gang c).length
  match sideOf n m.sa, sideOf n m.sb with
  | some a, some b =>
    let e := Shape.parse m.shape
    some { src := a, dst := b, shape := e,
           elems := (List.range (extents e.src)).map (s.elemPlan c m.banks m.gang a b e) }
  | _, _ => none

/-- Bytes of a copy on the source and on the destination side. -/
def CopyPlan.srcBytes (q : CopyPlan) : Nat := q.elems.foldl (fun n e => n + e.sn) 0
def CopyPlan.dstBytes (q : CopyPlan) : Nat := q.elems.foldl (fun n e => n + e.dn) 0

/-- Spots of a side for elements of given sizes, in traversal order, each with its size; where one lies nowhere, its address. -/
def State.copySpots (s : State) (c : Nat) (m : Cmd) (sd : Side) (ds : List (Nat × Int)) (ns : List Nat) :
    Except Nat (List (Spot × Nat)) :=
  (ns.zip (List.range ns.length)).mapM fun e => match s.elemSpot c m sd ds e.1 e.2 with
    | some p => .ok (p, e.1)
    | none => .error (sd.addr ds e.2)

/-- The places that a copy reads, and those it writes. -/
def State.copySrc (s : State) (c : Nat) (m : Cmd) (q : CopyPlan) : Except Nat (List (Spot × Nat)) :=
  s.copySpots c m q.src q.shape.src (q.elems.map ElemPlan.sn)
def State.copyDst (s : State) (c : Nat) (m : Cmd) (q : CopyPlan) : Except Nat (List (Spot × Nat)) :=
  s.copySpots c m q.dst q.shape.dst (q.elems.map ElemPlan.dn)

/-- A command has fired: it holds the slots it reserved (07 R213). -/
def Cmd.gone (m : Cmd) : Bool := m.st == .fired || m.st == .storing

/-- The tiles of the slots that a press or a fetch would have filled: those it holds, or, before it fires, those free ones that it
would have been given (07 R213, R234; log entry 101). -/
def Ring.doomed (r : Ring) (gone : Bool) : List Nat :=
  (if gone then r.slotsFrom r.prod r.declared
   else r.slotsFrom (r.prod + r.reserved) (min r.declared r.free)).flatMap r.slot

/-- The destination bytes of a copy, as far as it may write them, left undefined; the slots that a press or a fetch
would have filled likewise, whether or not it has fired (07 R234). -/
def State.scramble (s : State) (c : Nat) (m : Cmd) : State :=
  if m.fn = 0 then
    match s.copyOf c m with
    | none => s
    | some q =>
      (q.elems.zip (List.range q.elems.length)).foldl (fun s e =>
        match s.elemSpot c m q.dst q.shape.dst e.1.dn e.2 with
        | some p => (match s.spotReach (dieOf c) m.priv .write e.1.dn p with
          | .ok => s.spotUndef (dieOf c) e.1.dn p
          | _ => s)
        | none => s) s
  else match m.outRing with
    | some q =>
      (((s.core c).ring q).doomed m.gone).foldl (fun s t => s.undefSp c (0x2000 * t) 0x2000) s
    | none => s

/-- The number of an NVMe transfer of a command (MODEL): side 0 reads, side 1 writes. -/
def nvmeId (c id side : Nat) : Nat := (c * 2 ^ 32 + id) * 2 + side

/-- The NVMe transfers of a command that have not been submitted forgotten; the others are in their queues until their completions
are polled (11 R361). -/
def State.dropNvme (s : State) (c : Nat) (m : Cmd) : State :=
  s.modDev fun d => { d with nvmeOps := d.nvmeOps.filter fun o => o.id / 2 != c * 2 ^ 32 + m.id || o.pair.isSome }

/-- A transfer of a command is under way (11 R361). -/
def State.nvmeBusy (s : State) (c : Nat) (m : Cmd) : Bool := s.dev.nvmeOps.any fun o => o.id / 2 == c * 2 ^ 32 + m.id

/-- A word of the Cellar block for a storage port, and for one of its queue pairs (11 R360). -/
def Dev.nvReg (d : Dev) (port o : Nat) : Word := Tab.get d.cellarRegs 0 (0x200 + 0x400 * port + o)
def Dev.nvPairReg (d : Dev) (port q o : Nat) : Word := d.nvReg port (0x20 + 0x20 * q + o)

/-- A queue pair before its first command: the first completion has phase tag 1 (PRESUMED from NVMe, log entry 68). -/
def NvPair.fresh : NvPair := { tail := 0, head := 0, phase := true }

/-- The state of queue pair q of a port. -/
def Dev.nvPair (d : Dev) (port q : Nat) : NvPair := Tab.get d.nvPairs NvPair.fresh (32 * port + q)
def Dev.setNvPair (d : Dev) (port q : Nat) (p : NvPair) : Dev := { d with nvPairs := Tab.set d.nvPairs (32 * port + q) p }

/-- The transfers of n bytes at an offset of a namespace slot, split at 2^MDTS × 4 KiB (11 R361). -/
def Dev.nvSplit (d : Dev) (id : Nat) (write : Bool) (slot off n : Nat) : List NvOp :=
  let w := Tab.get d.cellarRegs 0 (0x100 + 16 * slot)
  let port := fld w 62 62
  let piece := 2 ^ fld (d.nvReg port 8) 23 16 * 4096
  let lb := d.nvBlock slot
  (List.range ((n + piece - 1) / piece)).map fun i =>
    { id := id, write := write, port := port, nsid := fld w 31 0, lba := (off + i * piece) / lb,
      blocks := (min piece (n - i * piece) + lb - 1) / lb, tries := 0, pair := none }

/-- The queue pair of a port that takes the next command: the first in rotation whose submission queue has room (11 R361). A
queue of n places holds n − 1 commands (PRESUMED from NVMe, log entry 68). -/
def Dev.nvPick (d : Dev) (port : Nat) : Option Nat :=
  let n := fld (d.nvReg port 8) 3 0 + 1
  ((List.range n).map fun i => (Tab.get d.nvTurn 0 port + i) % n).find? fun q =>
    decide ((d.nvmeOps.countP fun o => o.port == port && o.pair == some q) < fld (d.nvPairReg port q 0x10) 31 16)

/-- A doorbell of a queue pair written: side 0 the submission queue's, side 1 the completion queue's (11 R361). -/
def Dev.ringDoorbell (d : Dev) (port q side v : Nat) : Dev :=
  let a := fld (d.nvReg port 0) 63 12 * 4096 + 0x1000 +
    (2 * fld (d.nvPairReg port q 0x18) 15 0 + side) * (4 * 2 ^ fld (d.nvReg port 8) 35 32)
  { d with doorbells := Tab.set d.doorbells a v }

/-- A submission queue entry: opcode 0x01 Write or 0x02 Read, with the blocks it names (11 R361). Its layout is that of NVMe
(PRESUMED, log entry 68); the command identifier and the PRP entries are free values of seed k. -/
def NvOp.entry (o : NvOp) (k : Nat) : List Byte :=
  bytesLE 2 (if o.write then 1 else 2) ++ bytesLE 2 (Config.freeWord k).toNat ++ bytesLE 4 o.nsid ++ bytesLE 16 0 ++
    bytesLE 8 (Config.freeWord (k + 1)).toNat ++ bytesLE 8 (Config.freeWord (k + 2)).toNat ++ bytesLE 8 o.lba ++
    bytesLE 4 (o.blocks - 1) ++ bytesLE 12 0

/-- The transfer at a place of the list submitted to a queue pair (11 R361). -/
def Dev.nvSubmit (d : Dev) (k i : Nat) (o : NvOp) (q : Nat) : Dev :=
  let p := d.nvPair o.port q
  let tail := (p.tail + 1) % (fld (d.nvPairReg o.port q 0x10) 31 16 + 1)
  let d := d.paPut (fld (d.nvPairReg o.port q 0) 55 12 * 4096 + 64 * p.tail) (o.entry k)
  ({ d.setNvPair o.port q { p with tail := tail } with
    nvmeOps := d.nvmeOps.set i { o with pair := some q },
    nvTurn := Tab.set d.nvTurn o.port ((q + 1) % (fld (d.nvReg o.port 8) 3 0 + 1)) }).ringDoorbell o.port q 0 tail

/-- Every transfer that finds room in a queue submitted, in order (11 R361). -/
def State.nvSubmitAll (s : State) : State :=
  (List.range s.dev.nvmeOps.length).foldl (fun s i =>
    match s.dev.nvmeOps[i]? with
    | none => s
    | some o =>
      if o.pair.isSome then s
      else match s.dev.nvPick o.port with
        | some q => (s.modDev fun d => d.nvSubmit (freeKey s.free 16) i o q).takeFree 1
        | none => s) s

/-- The transfers of one side of a command begun (11 R361). -/
def State.nvBegin (s : State) (c id side slot off n : Nat) : State :=
  (s.modDev fun d => { d with nvmeOps := d.nvmeOps ++ d.nvSplit (nvmeId c id side) (side == 1) slot off n }).nvSubmitAll

/-- A command faults: it is removed, its slots given back, what it would have written left
undefined, and its context told (07 R234, R235). -/
def State.cmdFault (s : State) (c : Nat) (m : Cmd) (cause : Cause) (reason detail : Nat) : State :=
  (((s.scramble c m).dropNvme c m).dropCmd c m.id
    |>.modCore c fun k => if m.gone then k.giveBack m else k).pendFor
    m.gang m.coreIdx m.field0 cause (engInfo m.eng m.fn m.ordinal reason detail)

/-- ENGINE_FAULT with a cause as its reason (07 R235). -/
def State.engFault (s : State) (c : Nat) (m : Cmd) (reason : Cause) (detail : Nat) : State :=
  s.cmdFault c m .engineFault reason.code.toNat detail

/-- A command waits: for a page, or for fills (08 R256, R263). -/
def State.cmdWait (s : State) (c : Nat) (m : Cmd) (r : Reach) : State :=
  match r with
  | .page p => (s.beginWait r).setCmd c { m with page := some p, waitTiles := [] }
  | .fills k ts => (s.beginWait r).setCmd c { m with page := none, waitTiles := ts.map fun t => (k, t) }
  | _ => s

/-- Every access published by a command's context before its bundle performed (07 R209; 08 R268). -/
def State.performFor (s : State) (m : Cmd) : State :=
  match s.findCtx m.gang m.coreIdx m.field0 with
  | none => s
  | some q =>
    match s.ctx? q.1 q.2 with
    | none => s
    | some x => (x.acc.filter fun a => decide (a.ord < m.accOrd)).foldl (fun s a => s.performOne q.1 q.2 a.id) s

/-- A command fires: its slots are reserved (07 R213). -/
def State.fireCmd (s : State) (c : Nat) (m : Cmd) : State :=
  (s.setCmd c { m with st := .fired }).modCore c fun k => k.takeSlots m

/-- A command completes: its queue place is free, and the slots it reserved pass on with its rings (07 R211, R213,
R216). -/
def State.finishCmd (s : State) (c : Nat) (m : Cmd) : State :=
  (s.dropCmd c m.id).modCore c fun k =>
    let k := k.giveBack m
    let k := match m.inRing with
      | some q => k.ringConsume q (k.ring q).declared
      | none => k
    match m.outRing with
    | some q => k.ringProduce q (k.ring q).declared
    | none => k

/-- A command of a core by its number. -/
def Core.cmd? (k : Core) (id : Nat) : Option Cmd := k.cmds.find? fun m => m.id == id

end Sys2Proof.Machine
end

