-- ==== Sys2Proof/Machine/MapUnit.lean ====
section
/-! DEFINITION. The map unit: region fills and write-backs (08 R256, R257), migrations and their queue (08 R263 to R265; 11 R367 to R370), invalidations (11 R369). -/

namespace Sys2Proof.Machine

/-- RMAP_FIRE: the mapping was entered as its bundle committed; the command completes (07 R233). -/
def execRmapFire (core : Nat) (s : State) : Host.Outcome State Fault Refusal :=
  .next (match s.nextFor core 4 with
    | some m => if m.fn = 8 then s.dropCmd core m.id else s
    | none => s)

/-- The global address a byte of a region tile stands for, and with whose privilege (08 R256, R257). -/
def Core.wbAddr (k : Core) (off : Nat) : Option (Nat × Bool) :=
  (Tab.find? k.tiles (tileOf off)).map fun r => (r.base + off % 0x2000, r.priv)

/-- What the write-back of one byte meets (08 R257). -/
def State.wbReach (s : State) (c : Nat) (cell : Host.Cell) : XOut :=
  match (s.core c).wbAddr cell.1 with
  | some a => s.engineXlate (dieOf c) a.2 .write a.1
  | none => .fault .pageNotPresent

/-- The first page a write-back has to wait for, those apart that it was refused (08 R257, R263). -/
def State.wbWait (s : State) (c : Nat) (fails : List (Nat × Cause)) (cells : List Host.Cell) : Option Nat :=
  cells.findSome? fun b => match s.wbReach c b with
    | .migrate va => if fails.any (fun f => f.1 == pageOf va) then none else some (pageOf va)
    | _ => none

/-- The global address of a cell of a region tile. -/
def Core.wbVa (k : Core) (b : Host.Cell) : Nat := ((k.wbAddr b.1).map Prod.fst).getD 0

/-- The cells that may be written back written, translation conflicts noted (08 R257; 10 R324). -/
def State.wbPut (s : State) (c : Nat) (cells : List Host.Cell) : State :=
  let s := ((cells.map fun b => pageOf ((s.core c).wbVa b)).eraseDups).foldl (fun s g => s.noteConflict (dieOf c) g 1) s
  cells.foldl (fun s b => match s.wbReach c b with
    | .ok pa => s.modDev fun d => d.paPut pa [b.2]
    | _ => s) s

/-- The cells that may not, with the address and the cause; of a page that was waited for and did not come, the cause for which it
did not: HOST_OWNED or MIGRATION_FAILED (08 R257, R263). -/
def State.wbBad (s : State) (c : Nat) (fails : List (Nat × Cause)) (cells : List Host.Cell) : List (Host.Cell × Nat × Cause) :=
  cells.filterMap fun b =>
    let va := (s.core c).wbVa b
    let why (f : Cause) : Cause := ((fails.find? fun p => p.1 == pageOf va).map Prod.snd).getD f
    match s.wbReach c b with
    | .fault f => some (b, va, why f)
    | .miss => some (b, va, why .pageNotPresent)
    | .migrate _ => some (b, va, why .hostOwned)
    | .ok _ => none

/-- The stores that wait for the fill of a tile leave their bytes dirty again (08 R257). -/
def Core.unflush (k : Core) (tile : Nat) : Core :=
  { k with tiles := k.tiles.map fun q => if q.1 = tile then (q.1, { q.2 with flushed := 0 }) else q }

/-- Bytes made dirty again (08 R257). -/
def Core.redirty (k : Core) (cells : List Host.Cell) : Core :=
  cells.foldl (fun k b => (k.setDirty b.1).unflush (tileOf b.1)) k

/-- RFLUSH_FIRE: the dirty bytes captured at commit are written back; bytes that cannot be, on a page refused or failed while
it was waited for among them, stay dirty and the command faults once the others are written; a host-owned page is waited for (07
R233; 08 R257). -/
def execRflushFire (core : Nat) (s : State) : Host.Outcome State Fault Refusal :=
  .next (match s.nextFor core 4 with
    | none => s
    | some m =>
      if m.fn ≠ 9 then s
      else match s.wbWait core [] m.cells with
        | some p => (s.requestPage p).setCmd core { m with page := some p }
        | none =>
          let bad := s.wbBad core [] m.cells
          let s := (s.wbPut core m.cells).modCore core fun k => k.redirty (bad.map Prod.fst)
          match m.bad, bad with
          | none, [] => s.dropCmd core m.id
          | some b, _ => s.engFault core m b.1 b.2
          | none, b :: _ => s.engFault core m b.2.2 b.2.1)

/-- A region with the tiles of a range taken out of it: what is left before and after them. A table of 8 entries may come to hold
more so; rmap then faults until fewer than 8 are left (log entry 64). -/
def Region.without (r : Region) (first count : Nat) : List Region :=
  let lo := max r.first first
  let hi := min (r.first + r.count) (first + count)
  if hi ≤ lo then [r]
  else
    ([⟨r.first, lo - r.first, r.base, r.vint⟩, ⟨hi, r.first + r.count - hi, r.base + 0x2000 * (hi - r.first), r.vint⟩] :
      List Region).filter fun t => t.count != 0

/-- RINV_FIRE: the range unmapped, its dirty bytes discarded, its contents undefined (07 R233). -/
def execRinvFire (core : Nat) (s : State) : Host.Outcome State Fault Refusal :=
  .next (match s.nextFor core 4 with
    | none => s
    | some m =>
      if m.fn ≠ 10 then s
      else
        let s := s.modCore core fun k => { k with tiles := k.tiles.filter fun q => !m.range.contains q.1 }
        let s := m.range.foldl (fun s t => s.undefSp core (0x2000 * t) 0x2000) s
        let s := match s.findCtx m.gang m.coreIdx m.field0 with
          | some q => s.modCtx q.1 q.2 fun x =>
            { x with regions := x.regions.flatMap fun (r : Region) => r.without (fld m.sa 8 0) (fld m.sa 17 9 + 1) }
          | none => s
        s.dropCmd core m.id)

/-- Commands that wait on a tile of a core fault with a cause (08 R256). -/
def State.failTileCmds (s : State) (core tile : Nat) (c : Cause) (va : Nat) : State :=
  (s.cores.flatMap fun q => (q.2.cmds.filter fun m => m.waitTiles.contains (core, tile)).map fun m => (q.1, m)).foldl
    (fun s q => s.engFault q.1 q.2 c va) s

/-- Fired operations that have not started and whose read meets a wait fault with a cause (12 R386; 08 R256). -/
def State.failOps (s : State) (pick : Reach → Bool) (c : Cause) (va : Nat) : State :=
  [0, 1].foldl (fun s d =>
    ((s.die d).fired.filter fun o => !o.started && (match fabSide (o.words.getD 4 0) (fld (o.words.getD 6 0) 39 0) with
      | some sd => pick (s.fabReach d .read sd (fld (o.words.getD 6 0) 39 0))
      | none => false)).foldl (fun s o => (s.trellisFault d o .engineFault c.code.toNat va).dropOp d o.id) s) s

/-- A reach that waits on a tile of a core. -/
def Reach.onTile (core tile : Nat) : Reach → Bool
  | .fills c ts => c == core && ts.contains tile
  | _ => false

/-- A reach that waits on a page. -/
def Reach.onPage (page : Nat) : Reach → Bool
  | .page p => p == page
  | _ => false

/-- A context blocked on the fill of a tile learns that it faulted (08 R256). -/
def Ctx.fillFails (tile : Nat) (c : Cause) (va : Nat) (x : Ctx) : Ctx :=
  match x.run with
  | .blocked (.fill ts) _ =>
    if ts.contains tile then { x with fillBad := x.fillBad ++ [(tile, c, va)], run := .ready } else x
  | _ => x

/-- A fill faults: the tile stays unfilled and every accessor that waits on it is told (08 R256). -/
def State.fillFault (s : State) (core tile : Nat) (c : Cause) (va : Nat) : State :=
  let s := s.failMsgs (Reach.onTile core tile) c (BitVec.ofNat 64 va)
  let s := s.failOps (Reach.onTile core tile) c va
  let s := s.failTileCmds core tile c va
  s.modCore core fun k =>
    { k with
      tiles := k.tiles.map fun q => if q.1 = tile then (q.1, { q.2 with filling := false }) else q,
      ctxs := k.ctxs.map fun q => (q.1, q.2.fillFails tile c va) }

/-- The bytes of a fill with stores to its tile over them. -/
def overFill (held : List SpStore) (bs : List Byte) : List Byte :=
  (bs.zip (List.range bs.length)).map fun q => held.foldl (fun b h => if h.off = q.2 then mergeByte b h.byte h.mask else b) q.1

/-- A tile filled from global memory, with the stores that were made to it meanwhile over it, their bytes dirty but for those that
an rflush has captured (08 R256, R257; 07 R233). -/
def State.fillTile (s : State) (core tile : Nat) (bs : List Byte) : State :=
  s.modCore core fun k =>
    let q := Tab.find? k.tiles tile
    let held := (q.map TileSt.held).getD []
    let n := (q.map TileSt.flushed).getD 0
    (held.drop n).foldl (fun k b => k.storePut { b with off := 0x2000 * tile + b.off }) { k with
      sp := Mem.writeBytes k.sp (0x2000 * tile) (overFill (held.take n) bs),
      undef := (List.range 0x2000).foldl (fun us i => undefDrop us (0x2000 * tile + i)) k.undef,
      tiles := k.tiles.map fun q =>
        if q.1 = tile then (q.1, { q.2 with filled := true, filling := false, dirty := 0, held := [], flushed := 0 }) else q,
      ctxs := k.ctxs.map fun q => (q.1, { q.2 with views := q.2.views.filter fun v => tileOf v.off != tile }) }

/-- REGION_FILL_COMPLETE: the tile is read and filled, or its fill faults; bad is the offset of the first byte whose read met an
uncorrectable error twice (08 R256; 10 R322). -/
def execRegionFillComplete (core tile : Nat) (bad : Option Nat) (s : State) : Host.Outcome State Fault Refusal :=
  .next (match Tab.find? (s.core core).tiles tile with
    | none => s
    | some r =>
      if !r.filling then s
      else
        let d := dieOf core
        match s.migrateNeed d r.priv .read r.base 0x2000 with
        | some p => s.requestPage p
        | none =>
          let s := s.noteConflict d r.base 0x2000
          match s.engineRead d r.priv r.base 0x2000 with
          | .error e => s.fillFault core tile e.1 e.2
          | .ok bs =>
            match bad with
            | none => s.fillTile core tile bs
            | some o => (s.poisonPage (r.base + o % 0x2000)).fillFault core tile .poison (r.base + o % 0x2000))

/-- HOWN of a page's entry written by the map unit, its translations invalidated (11 R365, R366). -/
def State.flipOwner (s : State) (page : Nat) (hown : Bool) : State :=
  match s.dev.leaf page with
  | none => s
  | some (at', e) =>
    (s.modDev fun d => d.paPut at' (bytesLE 8 (setFld (d.word at') 61 61 hown.toNat).toNat)).dropXlate e.va e.size

/-- A context that waits for a page learns that it will not come (08 R263; 11 R370). -/
def Ctx.pageFails (page : Nat) (c : Cause) (x : Ctx) : Ctx :=
  { x with walks := (x.walks.filter fun w => w.1 != page / 0x10000) ++ [(page / 0x10000, .fault c)] }

/-- A saved context that was parked silently for a page is ready when it resumes (09 R293; 10 R326, R327). -/
def Ctx.wake (page : Nat) (x : Ctx) : Ctx := if x.run = .migrating page then { x with run := .ready } else x

/-- Whether a context waits for a page: frozen, or parked silently (08 R263; 10 R326). -/
def State.awaits (s : State) (c p : Nat) (x : Ctx) (page : Nat) : Bool :=
  x.run == .migrating page || (match (s.core c).freeze with
    | some f => f.place == p && (match f.kind with | .migrate va => pageOf va == page | _ => false)
    | none => false)

/-- An rflush that waits for a page goes on without it: its bytes there stay dirty, and it will fault with the cause (08 R257,
R263). -/
def State.flushSkips (s : State) (c : Nat) (m : Cmd) (page : Nat) (cause : Cause) : State :=
  let gone := m.cells.filter fun b => pageOf ((s.core c).wbVa b) == page
  (s.modCore c fun k => k.redirty gone).setCmd c
    { m with
      cells := m.cells.filter fun b => pageOf ((s.core c).wbVa b) != page, page := none,
      bad := m.bad.orElse fun _ => some (cause, ((gone.map (s.core c).wbVa).head?).getD page) }

/-- A page that the write-backs of a group wait for will not come (08 R257, R263). -/
def Core.wbRefused (page : Nat) (c : Cause) (k : Core) : Core :=
  if k.wbWaits.contains page then { k with wbWaits := k.wbWaits.filter fun g => g != page, wbFails := (page, c) :: k.wbFails }
  else k

/-- Everything that waits for a page faults with a cause: contexts, commands, messages, operations, fills and write-backs (08
R257, R263; 11 R370). A fill that an earlier byte of its tile bars does not wait for it (08 R256). -/
def State.pageFails (s : State) (page : Nat) (c : Cause) : State :=
  let s := s.allCtxs.foldl (fun s q =>
    if s.awaits q.1 q.2.1 q.2.2 page then
      let s := s.modCtx q.1 q.2.1 (Ctx.pageFails page c)
      if q.2.2.run = .migrating page then s.unpark q.1 q.2.1 else s
    else s) s
  let cmds : List (Nat × Cmd) := s.cores.flatMap fun q => (q.2.cmds.filter fun m => m.page == some page).map fun m => (q.1, m)
  let s := cmds.foldl (fun s q => if q.2.fn = 9 then s.flushSkips q.1 q.2 page c else s.engFault q.1 q.2 c page) s
  let s := ({ s with cores := s.cores.map fun q => (q.1, q.2.wbRefused page c) } : State)
  let s := s.mapSaved fun x => if x.run = .migrating page then Ctx.wake page (Ctx.pageFails page c x) else x
  let s := s.failMsgs (Reach.onPage page) c (BitVec.ofNat 64 page)
  let s := s.failOps (Reach.onPage page) c page
  (s.cores.flatMap fun q => (q.2.tiles.filter fun t => t.2.filling && decide (pageOf t.2.base ≤ page) &&
      decide (page < t.2.base + 0x2000) &&
      (s.engineBar (dieOf q.1) t.2.priv .read t.2.base (page - t.2.base)).isNone).map fun t =>
        (q.1, t.1, max page t.2.base)).foldl
    (fun s t => s.fillFault t.1 t.2.1 c t.2.2) s

/-- A page's entry leaves the fault queue, with the stores held for it (11 R367). -/
def State.takeQueued (s : State) (page : Nat) : State × List HeldStore :=
  [0, 1].foldl (fun r d =>
    let es := (r.1.die d).faultq
    (r.1.modDie d fun v => { v with faultq := es.filter fun e => e.page != page },
     r.2 ++ (es.filter fun e => e.page == page).flatMap FqEnt.held)) (s, [])

/-- An access placed among others in the order of its context. -/
def insAcc (a : Access) : List Access → List Access
  | [] => [a]
  | b :: bs => if a.ord < b.ord then a :: b :: bs else b :: insAcc a bs

/-- A held store among the accesses of its context again, its page being here at a physical address (08 R265). -/
def Ctx.retake (h : HeldStore) (pa : Nat) (x : Ctx) : Ctx :=
  if h.isOf x.gang x.coreIdx x.field0 then { x with acc := insAcc (storeAcc h.ord h.va pa h.bytes h.rel false) x.acc } else x

/-- Held stores, the page being here, performed in the order of their contexts (08 R265, R269). -/
def State.performHeld (s : State) (held : List HeldStore) : State :=
  (held.foldl (fun s h => match s.dev.walk h.va with
    | some e => s.mapCtxs (Ctx.retake h (e.phys h.va))
    | none => s) s).performEvery

/-- Held stores discarded, the host told (08 R265). -/
def State.discardHeld (s : State) (page : Nat) (held : List HeldStore) : State :=
  if held.isEmpty then s else s.post 5 0 0 (BitVec.ofNat 64 page) 0 0

/-- Contexts parked silently for a page ready again (10 R326, R327). -/
def State.wakePage (s : State) (page : Nat) : State :=
  (s.allCtxs.foldl (fun s q => if q.2.2.run = .migrating page then s.unpark q.1 q.2.1 else s) s).mapSaved (Ctx.wake page)

/-- What contexts kept of a walk of a page dropped. -/
def State.forgetWalks (s : State) (lo len : Nat) : State :=
  s.mapCtxs fun x => { x with walks := x.walks.filter fun w =>
    !(decide (w.1 * 0x10000 < lo + len) && decide (lo < w.1 * 0x10000 + 0x10000)) }

/-- What the fetch of a task sees of a page that moves to the device: the host's bytes as they were when it started (04 R134). -/
def CodeView.bring (q : CodeView) (page pa : Nat) : CodeView :=
  { q with mem := Mem.writeBytes q.mem pa (Mem.bytes q.host page 0x10000), undef := undefCut q.undef pa 0x10000 }

/-- And of a page that moves to the host: the device's bytes as they were then. -/
def CodeView.send (q : CodeView) (page pa : Nat) : CodeView :=
  { q with host := Mem.writeBytes q.host page ((List.range 0x10000).map fun i => byteAt q.mem q.undef (pa + i)) }

/-- The 64 KiB of a page copied to the device, and its ownership flipped (08 R265); what running tasks fetch moves with it, and no
store since they started shows (04 R134). -/
def State.bringPage (s : State) (page : Nat) : State :=
  match s.dev.walk page with
  | none => s
  | some e =>
    let bs := (List.range 0x10000).map fun i => Mem.read s.dev.hostMem (page + i)
    let s := (s.modDev fun d => d.paPut (e.phys page) bs).mapCtxs fun x =>
      { x with code := x.code.map fun q => q.bring page (e.phys page) }
    ((s.flipOwner page false).forgetWalks page 0x10000)

/-- A context has an access to a page that it has published and that is not performed. -/
def Ctx.usesPage (page : Nat) (x : Ctx) : Bool := x.acc.any fun a => a.pending && !a.win && pageOf a.va == page

/-- Some access to a page, of a context placed or saved, is published and not performed (08 R265 step 2). -/
def State.pageUsed (s : State) (page : Nat) : Bool :=
  (s.allCtxs.any fun q => q.2.2.usesPage page) || s.savedCtxs.any (Ctx.usesPage page)

/-- The 64 KiB of a page copied to the host (08 R265). -/
def State.sendPage (s : State) (page : Nat) : State :=
  match s.dev.walk page with
  | none => s
  | some e =>
    let s := (s.modDev fun d =>
      { d with hostMem := Mem.writeBytes d.hostMem page (d.paBytes (e.phys page) 0x10000) }).mapCtxs fun x =>
        { x with code := x.code.map fun q => q.send page (e.phys page) }
    ((s.flipOwner page true).forgetWalks page 0x10000)

/-- A migration that failed twice: the page stays with its owner and is poisoned (08 R263; 11 R368). What asked for the page while
it was leaving goes on with it here, the stores held for it first (08 R265). -/
def State.migrationFails (s : State) (g : Migration) : State :=
  let s := s.modDev fun d => { d with migFail := true }
  let r := s.takeQueued g.page
  if g.toHost then ((r.1.performHeld r.2).poisonPage g.page).wakePage g.page
  else
    ((r.1.discardHeld g.page r.2).pageFails g.page .migrationFailed).poisonPage g.page

/-- MIGRATION_COMPLETE: the page copied and its ownership flipped, or the migration failed, once every access to a page that leaves
has been performed (08 R265; 11 R368). -/
def execMigrationComplete (page : Nat) (copyOk : Bool) (s : State) : Host.Outcome State Fault Refusal :=
  .next (match s.dev.migs.find? fun g => g.page == page with
    | none => s
    | some g =>
      let s := if g.toHost then s.performEvery else s
      if g.toHost && s.pageUsed page then s
      else
      let s := s.modDev fun d => { d with migs := d.migs.filter fun h => h.page != page }
      if !copyOk then s.migrationFails g
      else
        let s := s.modDev fun d => { d with migFail := false }
        if g.toHost then s.sendPage page
        else
          let r := (s.bringPage page).takeQueued page
          (r.1.performHeld r.2).wakePage page)

/-- A migration begun: the old owner's translations are revoked (08 R265 step 1). -/
def State.beginMigration (s : State) (page : Nat) (toHost : Bool) : State :=
  if s.dev.migs.any fun g => g.page == page then s
  else (s.modDev fun d => { d with migs := d.migs ++ [⟨page, toHost⟩] }).dropXlate page 0x10000

/-- A page is the host's (08 R262). -/
def State.hostOwned (s : State) (page : Nat) : Bool := ((s.dev.walk page).map fun e => e.hv && e.hown).getD false

/-- Migrations of a die under way (11 R368). -/
def State.migsOf (s : State) (d : Nat) : Nat := (s.dev.migs.filter fun g => s.pageDie g.page == d).length

/-- The first page of a fault queue that the map unit may begin to bring in: it migrates by itself, a copy is free, and
the page is the host's and not on its way (08 R263, R265; 11 R367, R368): by the
mode in which the page's decision began (01 R38). -/
def State.nextMigration (s : State) : Option Nat :=
  [0, 1].findSome? fun d =>
    if s.migsOf d < 16 then
      ((s.die d).faultq.find? fun e => e.queued && !e.host && !(s.dev.migs.any fun g => g.page == e.page) && s.hostOwned e.page).map
        FqEnt.page
    else none

/-- The page of MIGCMD and of INVAL (11 R368). -/
def cmdPage (w : Word) : Nat := fld w 55 16 * 0x10000

/-- A page a migration may move: host-visible, owned by the side it leaves, and, to the device, not pinned (08 R262 to R265; 11
R364). -/
def State.movable (s : State) (page : Nat) (toHost : Bool) : Bool :=
  match s.dev.walk page with
  | some e => e.hv && e.hown == !toHost && (toHost || !e.pin)
  | none => false

/-- MIGRATE_TO_DEVICE: MIGCMD with DIR 0 (11 R368, R370). -/
def execMigrateToDevice (w : Word) (s : State) : Host.Outcome State Fault Refusal :=
  .next (if s.dev.migs.isEmpty ∧ s.movable (cmdPage w) false then s.beginMigration (cmdPage w) false else s)

/-- MIGRATE_TO_HOST: MIGCMD with DIR 1 (08 R264; 11 R368, R370). -/
def execMigrateToHost (w : Word) (s : State) : Host.Outcome State Fault Refusal :=
  .next (if s.dev.migs.isEmpty ∧ s.movable (cmdPage w) true then s.beginMigration (cmdPage w) true else s)

/-- MIGRATION_REFUSE: every requester of the page faults HOST_OWNED (11 R370). -/
def execMigrationRefuse (w : Word) (s : State) : Host.Outcome State Fault Refusal :=
  .next
    (if s.dev.migs.isEmpty then
       let r := s.takeQueued (cmdPage w)
       (r.1.discardHeld (cmdPage w) r.2).pageFails (cmdPage w) .hostOwned
     else s)

/-- FAULT_QUEUE_RETRY: the oldest refused request takes a place that has come free; any other waits on (11 R367). -/
def execFaultQueueRetry (page : Nat) (s : State) : Host.Outcome State Fault Refusal :=
  .next ([0, 1].foldl (fun s d =>
    let q := (s.die d).faultq
    let room := decide ((q.filter FqEnt.queued).length < 256)
    let first := (q.find? fun e => !e.queued).map FqEnt.page
    s.modDie d fun v => { v with faultq := q.map fun e =>
      if e.page = page ∧ !e.queued then
        (if room && first == some page then { e with queued := true } else { e with refusedAt := s.cycle })
      else e }) s)

/-- INVAL: an invalidation starts, unless one runs (11 R368, R369). -/
def execInval (w : Word) (s : State) : Host.Outcome State Fault Refusal :=
  .next (if s.dev.invBusy.isSome then s else s.modDev fun d => { d with invBusy := some w })

/-- Bytes of the page that INVAL names; SIZE 3 names none. -/
def invSize (w : Word) : Nat :=
  match fld w 57 56 with
  | 0 => 0x10000
  | 1 => 0x200000
  | 2 => 0x40000000
  | _ => 0

/-- The range that INVAL names (11 R368). -/
def invRange (w : Word) : Nat × Nat :=
  if bit w 63 then (0, 2 ^ 56)
  else if invSize w = 0 then (0, 0) else (cmdPage w / invSize w * invSize w, invSize w)

/-- A context has an access that an entry of a range translated and that is not performed: a committed store still gated, or a
published access (11 R369). -/
def Ctx.usesRange (lo len : Nat) (x : Ctx) : Bool :=
  (x.gate.any fun e => match e with
    | .gl va _ _ _ _ => decide (lo ≤ va) && decide (va < lo + len)
    | _ => false) || x.acc.any fun a => a.pending && decide (lo ≤ a.va) && decide (a.va < lo + len)

/-- INVALIDATION_COMPLETE: no buffer holds an entry for the range, what the entries translated is performed, gated stores of
placed and of saved contexts among it, and after ALL = 1 a PTROOT written before takes effect (11 R369). -/
def execInvalidationComplete (s : State) : Host.Outcome State Fault Refusal :=
  .next (match s.dev.invBusy with
    | none => s
    | some w =>
      let s := s.performEvery
      let uses := Ctx.usesRange (invRange w).1 (invRange w).2
      if (s.allCtxs.any fun q => uses q.2.2) || s.savedCtxs.any uses then s
      else
      let s := s.modDev fun d => { d with invBusy := none }
      if bit w 63 then
        ((s.dropXlate 0 (2 ^ 56)).forgetWalks 0 (2 ^ 56)).modDev fun d => { d with ptroot := d.ptrootNew }
      else
        let lo := if invSize w = 0 then 0 else cmdPage w / invSize w * invSize w
        (s.dropXlate lo (invSize w)).forgetWalks lo (invSize w))

end Sys2Proof.Machine
end

