-- ==== Sys2Proof/Machine/Engines.lean ====
section
/-! DEFINITION. The copy engine (11 R338 to R347) and the network engine's commands (07 R231, R232; 12 R379, R383). -/

namespace Sys2Proof.Machine

/-- SHAPE_LOAD_COMPLETE: the copy engine has read the records of a shape load, what its context published before being performed;
its bundle comes to issue again (01 R45; 07 R209; 11 R341). Records that cannot be read are looked at anew as it does. -/
def execShapeLoadComplete (core place : Nat) (s : State) : Host.Outcome State Fault Refusal :=
  .next (match s.ctx? core place with
    | none => s
    | some x =>
      match x.run with
      | .blocked (.shapes glob a n) _ =>
        let s := s.performAll core place
        if s.copyHeld core x.gang || !(s.heldBy x).isEmpty then s
        else
        let bytes : Option (List Byte) :=
          if glob then (List.range n).mapM fun i => match s.translate core x .read (a + i) with
            | .ok pa => some (byteAt s.dev.mem s.dev.memUndef pa)
            | _ => none
          else (viewOffs x.banks a n).bind fun os =>
            if ((s.core core).coreOwnedAt os).isNone then some (os.map (s.core core).spByte) else none
        match bytes with
        | none => s.modCtx core place fun x => { x with run := .ready }
        | some bs =>
          let ws : List Word := (pieces 8 n bs).map fun b => BitVec.ofNat 64 (numLE b)
          s.modCtx core place fun x => { x with run := .ready, loaded := x.loaded ++ [((glob, a, n), ws)] }
      | _ => s)

/-- The bytes a spot occupies, named over the device: scratchpad by core and physical offset, global memory by virtual
address (11 R346). -/
def Spot.keys (n : Nat) : Spot → List Nat
  | .glob a => (List.range n).map fun i => a + i
  | .sp c offs => offs.map fun o => (c + 1) * 2 ^ 96 + o
  | .nvme k => (List.range n).map fun i => 1000 * 2 ^ 96 + k + i

/-- COPY_FIRE: the head of the copy queue fires once its ring has room (07 R213; 11 R342); transfers with NVMe
namespaces begin (11 R361). -/
def execCopyFire (core : Nat) (s : State) : Host.Outcome State Fault Refusal :=
  .next (match s.nextFor core 0 with
    | none => s
    | some m =>
      if !(s.core core).ringsAdmit m then s
      else
        let s := (s.performFor m).fireCmd core m
        match s.copyOf core m with
        | none => s
        | some q =>
          let s := match q.src with
            | .nvme slot off => s.nvBegin core m.id 0 slot off q.srcBytes
            | _ => s
          match q.dst with
          | .nvme slot off => s.nvBegin core m.id 1 slot off q.dstBytes
          | _ => s)

/-- The first element of a copy that its banks' formats do not let move, by its address: one that is converted and stands at no
multiple of its size, so that it would not lie in one bank either, or one whose formats differ where one is grouped (11 R343). -/
def CopyPlan.badElem (q : CopyPlan) : Option Nat :=
  (q.elems.zip (List.range q.elems.length)).findSome? fun e =>
    let a := q.src.addr q.shape.src e.2
    let b := q.dst.addr q.shape.dst e.2
    if e.1.kind = .bad then some b
    else if e.1.converts then (if a % e.1.sn ≠ 0 then some a else if b % e.1.dn ≠ 0 then some b else none)
    else none

/-- The bytes of the elements of a copy as read. A byte that the copy also writes reads as a free value (11 R345). -/
def State.copyRead (s : State) (d : Nat) (m : Cmd) (q : CopyPlan) (src dst : List (Spot × Nat)) : List (List Byte) :=
  let own := if q.src == q.dst || (match q.src, q.dst with
      | .glob _, .glob _ => true
      | .nvme _ _, .nvme _ _ => true
      | .own _, .own _ | .own _, .peer _ _ | .peer _ _, .own _ | .peer _ _, .peer _ _ => true
      | _, _ => false) then dst.flatMap fun p => p.1.keys p.2 else []
  src.map fun p =>
    let bs := s.spotRead d m.priv p.2 p.1
    if own.isEmpty then bs
    else (bs.zip (p.1.keys p.2)).map fun b => if own.contains b.2 then Config.freeByte (freeKey s.free 5) b.2 else b.1

/-- One element of a copy as it is written (11 R342, R343). -/
def CopyPlan.convert (q : CopyPlan) (m : Cmd) (i : Nat) (bs : List Byte) : List Byte :=
  match (q.elems[i]?).map ElemPlan.kind with
  | some (.convert x y) => bytesLE (EType.width y) (convE y x (RMode.ofCode m.md) (OvPol.ofCode q.shape.pol) false (srLane m.sr i) (numLE bs)).bits
  | _ => bs

/-- A byte that an unordered copy has written while this one was in flight stays as that one left it, by a free choice
for each granule (11 R346); m.range lists such bytes. -/
def Cmd.yields (m : Cmd) (free key : Nat) : Bool :=
  m.range.contains key && Config.freeBit (freeKey free 6 + 2 ^ 128 * (key / 32 + 1))

/-- One byte of a spot. -/
def Spot.byte : Spot → Nat → Spot
  | .glob a, i => .glob (a + i)
  | .sp c offs, i => .sp c ((offs.drop i).take 1)
  | .nvme k, i => .nvme (k + i)

/-- The bytes of an element written, but for those that yield (11 R346). -/
def State.elemWrite (s : State) (d : Nat) (m : Cmd) (n : Nat) (p : Spot) (bs : List Byte) : State :=
  if m.range.isEmpty then s.spotWrite d p bs
  else ((bs.zip (p.keys n)).zip (List.range n)).foldl (fun s b =>
    if m.yields s.free b.1.2 then s else s.spotWrite d (p.byte b.2) [b.1.1]) s

/-- Elements written in traversal order (11 R345). -/
def State.copyWrite (s : State) (d : Nat) (m : Cmd) (es : List ((Spot × Nat) × List Byte)) : State :=
  es.foldl (fun s e => s.elemWrite d m e.1.2 e.1.1 e.2) s

/-- The copies still in flight learn which of the bytes they write another has written meanwhile (11 R346). -/
def State.tellRivals (s : State) (keys : List Nat) : State :=
  { s with cores := s.cores.map fun k =>
      (k.1, { k.2 with cmds := k.2.cmds.map fun m =>
        if m.fn = 0 ∧ m.st = .fired then { m with range := (m.range ++ keys).eraseDups } else m }) }

/-- What follows for an agent whose update of a sync object was taken, or discarded (07 R239; 11 R344). -/
def State.sobjTold (s : State) (c : Nat) (done : Bool) (u : SobjUpd) : State :=
  match u.who with
  | .context g i f _ sa => if done then s else s.pendFor g i f .ringState sa
  | .command id o =>
    match (s.core c).cmd? id with
    | none => s
    | some m => if done then s.finishCmd c m else s.cmdFault c m .engineFault 0 o

/-- Every access that a context, placed or saved, published before a place in its order is performed: none of them is pending, and
none is a store held for a page (08 R265, R266). -/
def State.performedTo (s : State) (g i f ord : Nat) : Bool :=
  ((s.heldOf g i f).all fun h => decide (ord ≤ h.ord)) &&
    ((s.allCtxs.map fun q => q.2.2) ++ s.savedCtxs).all fun x =>
      !x.isThe g i f || x.acc.all fun a => !a.pending || decide (ord ≤ a.ord)

/-- An update may reach its sync object: the accesses that its context published before are performed (07 R238; 08 R265,
R269). -/
def State.sobjReady (s : State) (u : SobjUpd) : Bool :=
  match u.who with
  | .context g i f ord _ => s.performedTo g i f ord
  | .command _ _ => true

/-- The copies that signal at a sync object wait for the fill of its tile (08 R256; 11 R344). -/
def State.sobjFill (s : State) (c off : Nat) : State :=
  let k := s.core c
  let ids := (k.sobj.filter fun u => u.off == off).filterMap fun u => match u.who with
    | .command id _ => some id
    | _ => none
  s.setCore c { k.startFills [tileOf off] with
    cmds := k.cmds.map fun m => if ids.contains m.id then { m with waitTiles := [(c, tileOf off)] } else m }

/-- The bank controller applies the updates of this cycle to one sync object together, once the region tile it lies in is filled
(07 R237; 08 R256). -/
def State.sobjCycle (s : State) (c off : Nat) : State :=
  let k := s.core c
  if k.unfilled (tileOf off) then s.sobjFill c off
  else
    let us := k.sobj.filter fun u => u.off == off && s.sobjReady u
    let r := k.syncPut off (us.foldl (fun n u => n + u.arr) 0) (us.foldl (fun n u => n + u.bytes) 0)
    us.foldl (fun s u => s.sobjTold c r.2 u) (s.setCore c { r.1 with sobj := r.1.sobj.filter fun u => u.off != off || !s.sobjReady u })

/-- The sync objects that have updates of this cycle, as it ends (07 R237). -/
def State.sobjEnd (s : State) : State :=
  ((s.cores.flatMap fun q => q.2.sobj.map fun u => (q.1, u.off)).eraseDups).foldl (fun s e => s.sobjCycle e.1 e.2) s

/-- A copy whose bytes have moved signals its completion; a sync object is decremented as the cycle ends (11 R344; 07
R237, R239). -/
def State.copySignal (s : State) (c : Nat) (m : Cmd) (e : Shape) (bytes : Nat) : State :=
  match e.cmode with
  | 1 => (s.finishCmd c m).raise (dieOf c) e.ctr 1
  | 2 =>
    (match viewOffs m.banks e.sobj 16 with
      | none => s.finishCmd c m
      | some os =>
        (s.setCmd c { m with st := .storing, page := none, waitTiles := [] }).modCore c
          fun k => k.syncAdd ⟨os.headD 0, 0, bytes, .command m.id e.sobj⟩)
  | _ => s.finishCmd c m

/-- Translation conflicts on the pages of some spots, of so many bytes each, told to the host (10 R324). -/
def State.spotConflicts (s : State) (d : Nat) (ps : List (Spot × Nat)) : State :=
  ((ps.flatMap fun p => match p.1 with
    | .glob a => (List.range ((a % 0x10000 + p.2 + 0xFFFF) / 0x10000)).map fun i => pageOf a + i * 0x10000
    | _ => []).eraseDups).foldl (fun s a => s.noteConflict d a 1) s

/-- The first spot whose access does not go on, with what it meets. -/
def State.firstReach (s : State) (d : Nat) (priv : Bool) (u : Use) (ps : List (Spot × Nat)) : Reach :=
  (ps.findSome? fun p => match s.spotReach d priv u p.2 p.1 with
    | .ok => none
    | r => some r).getD .ok

/-- A copy that has fired moves its elements (11 R342 to R347): it waits, faults, or writes and signals. -/
def State.runCopy (s : State) (c : Nat) (m : Cmd) (q : CopyPlan) (src dst : List (Spot × Nat)) : State :=
  let d := dieOf c
  let s := s.spotConflicts d (src ++ dst)
  match s.firstReach d m.priv .read src, s.firstReach d m.priv .write dst with
  | .bad f a, _ => s.engFault c m f a.toNat
  | .ok, .bad f a => s.engFault c m f a.toNat
  | .ok, .ok =>
    let data := (s.copyRead d m q src dst).zip (List.range src.length)
    let s := (s.copyWrite d m (dst.zip (data.map fun e => q.convert m e.2 e.1))).takeFree 1
    let s := s.tellRivals (dst.flatMap fun p => p.1.keys p.2)
    s.copySignal c m q.shape q.dstBytes
  | .ok, r => s.cmdWait c m r
  | r, _ => s.cmdWait c m r

/-- COPY_COMPLETE: the elements are moved and the completion signalled; bad names an element whose read failed twice (11
R344, R347). -/
def execCopyComplete (core id : Nat) (bad : Option Nat) (s : State) : Host.Outcome State Fault Refusal :=
  .next (match (s.core core).cmd? id with
    | none => s
    | some m =>
      if m.fn ≠ 0 ∨ m.st ≠ .fired ∨ s.nvmeBusy core m ∨ s.copyHeld core m.gang then s
      else match s.copyOf core m with
        | none => s
        | some q =>
          match q.badElem with
          | some a => s.engFault core m .bankFormat a
          | none =>
            match s.copySrc core m q, s.copyDst core m q with
            | .ok src, .ok dst =>
              (match bad.bind fun i => src[i]? with
                | some (.glob a, _) => (s.poisonPage a).engFault core m .poison a
                | some (.sp _ offs, _) => s.engFault core m .poison (offs.headD 0)
                | _ => s.runCopy core m q src dst)
            | .error a, _ => s.engFault core m .spRange a
            | .ok _, .error a => s.engFault core m .spRange a)

/-- The words of a record of 64 bytes. -/
def recWords (bs : List Byte) : List Word := (pieces 8 8 bs).map fun b => BitVec.ofNat 64 (numLE b)

/-- A record breaks a rule that is checked as it is armed (12 R383). -/
def armBad (w : List Word) : Bool :=
  let k := fld (w.getD 0 0) 62 60
  decide (k > 5) || decide (fld (w.getD 0 0) 59 57 > 4) || (decide (k < 3) && fld (w.getD 6 0) 39 0 == 0)

/-- A record copied into an entry, which is armed; it fires in the next cycle if it is met (12 R383, R384). -/
def Die.armEntry (v : Die) (e : Nat) (ws : List Word) (armer ord : Nat) : Die :=
  let t := (List.range 8).foldl (fun t i => Tab.set t (8 * e + i) (ws.getD i 0 &&& trellisMask i)) v.trellis
  let v := { v with
    trellis := Tab.set (Tab.set t (8 * e) (setFld (Tab.get t 0 (8 * e)) 63 63 1)) (8 * e + 6)
      (setFld (Tab.get t 0 (8 * e + 6)) 50 40 armer),
    armOrd := Tab.set v.armOrd e ord }
  v.rearmed e

/-- ARM_FIRE: the record is copied into its entry, or the arm faults (07 R232; 12 R383). -/
def execArmFire (core : Nat) (s : State) : Host.Outcome State Fault Refusal :=
  .next (match s.nextFor core 3 with
    | none => s
    | some m =>
      if m.fn ≠ 6 then s
      else
        let s := s.performFor m
        let e := m.sb.toNat % 4096
        let ws := recWords m.data
        if bit ((s.die (dieOf core)).word e 0) 63 || armBad ws then s.cmdFault core m .triggerTable 0 e
        else (s.dropCmd core m.id).modDie (dieOf core) fun v =>
          v.armEntry e ws (core * 4 + m.place % 4) (packArmer m.ordinal m.field0 m.coreIdx m.gang))

/-- CTRADD_FIRE: the counter is raised once the published stores are performed (07 R232; 08 R272). -/
def execCtraddFire (core : Nat) (s : State) : Host.Outcome State Fault Refusal :=
  .next (match s.nextFor core 3 with
    | none => s
    | some m =>
      if m.fn ≠ 7 then s
      else ((s.performFor m).dropCmd core m.id).raise (dieOf core) (m.sa.toNat % 1024) m.sb)

/-- The source slots that a command takes next from its input ring (07 R213, R215). -/
def Core.inSlots (k : Core) (q : Nat) : List (List Nat) :=
  let r := k.ring q
  (r.slotsFrom (r.cons + r.taken) r.declared).map r.slot

/-- What an engine's read of the first n bytes of some slots meets (07 R222; 08 R254, R256). -/
def Core.slotsReach (c : Nat) (k : Core) (slots : List (List Nat)) (n : Nat) : Reach :=
  let ts := slots.flatMap fun t => slotTilesFor t n
  match ts.find? fun t => !k.engineOwns t with
  | some t => .bad .owner (BitVec.ofNat 64 (0x2000 * t))
  | none => if (ts.filter k.unfilled).isEmpty then .ok else .fills c (ts.filter k.unfilled)

/-- The first n bytes of a slot. -/
def Core.slotBytes (k : Core) (tiles : List Nat) (n : Nat) : List Byte :=
  (List.range n).map fun i => k.spByte (0x2000 * tiles.getD (i / 0x2000) 0 + i % 0x2000)

/-- A send's message (12 R379); op names its command, by core and number. -/
def State.sendMsg (s : State) (c : Nat) (m : Cmd) : Msg :=
  let d := s.dev
  let k := s.core c
  let slots := k.inSlots m.qa
  { d.toPeer m.aux 0 with
    seq := BitVec.ofNat 16 (fld (d.chanWord m.aux 4) 15 0), tag := m.mbt.setWidth 16, slots := slots.length,
    op := c * 2 ^ 32 + m.id, sbytes := d.slotBytes m.aux, format := BitVec.ofNat 4 (fld (d.chanWord m.aux 0) 35 32),
    data := slots.flatMap fun t => k.slotBytes t (d.slotBytes m.aux) }

/-- The last flit of a message has left the device: a send that emitted it may complete (12 R379). A message that a retrain
discards, or that finds no port, never leaves (12 R374, R375). -/
def State.leftDevice (s : State) (m : Msg) : State :=
  if m.kind = 0 ∧ m.src = s.dev.id then
    s.modCore (m.op / 2 ^ 32) fun k =>
      { k with cmds := k.cmds.map fun q =>
          if q.id = m.op % 2 ^ 32 ∧ q.fn = 5 ∧ q.st = .fired then { q with st := .storing } else q }
  else s

/-- SEND_FIRE: credit and a sequence number are taken and the message leaves, or the send faults (12 R375, R379). -/
def execSendFire (core : Nat) (s : State) : Host.Outcome State Fault Refusal :=
  .next (match s.nextFor core 3 with
    | none => s
    | some m =>
      let k := s.core core
      let r := k.ring m.qa
      let ch := m.aux
      if m.fn ≠ 5 ∨ !k.ringsAdmit m then s
      else if !s.dev.chanOk ch then s.cmdFault core m .channelMismatch 0 ch
      else if fld (s.dev.chanWord ch 2) 38 32 < r.declared then s
      else if s.dev.slotBytes ch > 0x2000 * r.slotTiles ∨ !s.dev.names (s.dev.toPeer ch 0).dst then
        s.cmdFault core m .channelMismatch 0 ch
      else match Core.slotsReach core k (k.inSlots m.qa) (s.dev.slotBytes ch) with
        | .bad f a => s.engFault core m f a.toNat
        | .ok =>
          let s := s.performFor m
          let msg := s.sendMsg core m
          let s := s.fireCmd core { m with md := msg.seq.toNat }
          let s := s.chanFld ch 2 38 32 (fld (s.dev.chanWord ch 2) 38 32 - r.declared)
          let s := (s.chanFld ch 4 15 0 ((msg.seq.toNat + 1) % 65536)).emit msg
          if msg.route.toNat = 0 ∧ msg.dst = s.dev.id then s.leftDevice { msg with src := s.dev.id } else s
        | w => s.cmdWait core m w)

/-- SEND_COMPLETE: the last flit has left, the source ring advances (07 R213; 12 R379). -/
def execSendComplete (core id : Nat) (s : State) : Host.Outcome State Fault Refusal :=
  .next (match (s.core core).cmd? id with
    | none => s
    | some m => if m.fn = 5 ∧ m.st = .storing then s.finishCmd core m else s)

end Sys2Proof.Machine
end

