-- ==== Sys2Proof/Machine/Press.lean ====
section
/-! DEFINITION. The Press: floating tiles turned into block-scaled formats (07 R226; 11 R348 to R352). -/

namespace Sys2Proof.Machine

/-- A block of 32 elements quantised: its scale code, its elements' bits, the flags of 11 R351 it sets, and its fault
under the trapping policy. -/
structure PressBlock where
  code : Nat
  ys : List Nat
  fl : Nat
  trap : Option Cause
deriving DecidableEq, Repr

/-- The parameters of a press (07 R226). -/
structure PressPar where
  planes : Nat
  out : Nat
  bf16 : Bool
  md : RMode
  pol : Nat
  sr : Word
deriving DecidableEq, Repr

/-- The parameters of a command (07 R226). -/
def Cmd.pressPar (m : Cmd) : PressPar :=
  { planes := fld m.sa 15 12, out := fld m.sa 11 8, bf16 := bit m.sa 7, md := RMode.ofCode m.md, pol := fld m.sa 3 2,
    sr := m.sr }

/-- The source format, and bytes of an element (07 R226). -/
def PressPar.fmt (p : PressPar) : Fmt := if p.bf16 then .bf16 else .f32
def PressPar.width (p : PressPar) : Nat := if p.bf16 then 2 else 4

/-- Bytes of an output group (11 R348). -/
def PressPar.group (p : PressPar) : Nat := if p.out = 0 then 64 + 256 * p.planes else 2112

/-- An element's exponent field (11 R349). -/
def expField (f : Fmt) (x : Nat) : Nat := x / 2 ^ f.mbits % 2 ^ f.ebits

/-- Press status flags (11 R351). -/
def pfINVALID : Nat := 1
def pfUNDERFLOW : Nat := 2
def pfOVERFLOW : Nat := 4
def pfINEXACT : Nat := 8

/-- x × 2^(133 − f) rounded to i8, 128 clipped (11 R349). -/
def pressPni (p : PressPar) (f i x : Nat) : Nat × Nat :=
  match unpackF p.fmt false x with
  | .num neg m e =>
    let r := roundMag p.md neg (srLane p.sr i) m (e + 133 - f) 0 false
    let nx := if r.2 then pfINEXACT else 0
    if !neg ∧ r.1 > 127 then (127, nx ||| pfOVERFLOW) else (wrapI 8 (if neg then -(r.1 : Int) else r.1), nx)
  | _ => (0, 0)

/-- x × 2^(127 − code) rounded to an 8-bit floating format (11 R349). -/
def pressFloat (p : PressPar) (g : Fmt) (code i x : Nat) : Nat × Nat :=
  match unpackF p.fmt false x with
  | .num neg m e =>
    let pol := if p.pol = 3 then OvPol.sat else OvPol.ofCode p.pol
    let r := roundF g p.md pol false (srLane p.sr i) neg m (e + 127 - code)
    (r.bits, (if r.fl &&& flNX = 0 then 0 else pfINEXACT) ||| if r.fl &&& flOF = 0 then 0 else pfOVERFLOW)
  | _ => (0, 0)

/-- One block quantised; first is the index of its first element in the command (11 R349, R350). -/
def pressBlock (p : PressPar) (first : Nat) (xs : List Nat) : PressBlock :=
  let finite (x : Nat) : Bool := match unpackF p.fmt false x with | .num _ _ _ => true | _ => false
  let zero (x : Nat) : Bool := match unpackF p.fmt false x with | .num _ 0 _ => true | _ => false
  let zeros := xs.map fun _ => 0
  let each (f : Nat → Nat → Nat × Nat) : List (Nat × Nat) := (xs.zip (List.range xs.length)).map fun q => f (first + q.2) q.1
  let done (code fl : Nat) (trap : Option Cause) (rs : List (Nat × Nat)) : PressBlock :=
    ⟨code, rs.map Prod.fst, rs.foldl (fun n r => n ||| r.2) fl, trap⟩
  if xs.any fun x => !finite x then ⟨255, zeros, pfINVALID, if p.pol = 3 then some .scaleInvalid else none⟩
  else if xs.all zero then ⟨0, zeros, 0, none⟩
  else
    let f := xs.foldl (fun n x => max n (expField p.fmt x)) 0
    if p.out = 0 then done f 0 none (each (pressPni p f))
    else
      let g : Fmt := if p.out = 1 then .e4m3 else .e5m2
      let emax := if p.out = 1 then 8 else 15
      done (f - emax) (if f < emax then pfUNDERFLOW else 0)
        (if f < emax ∧ p.pol = 3 then some .scaleUnderflow else none) (each (pressFloat p g (f - emax)))

/-- A group's bytes: the scales, then the planes or the elements (02 R56; 05 R181; 11 R348). -/
def pressGroup (p : PressPar) (bs : List PressBlock) : List Byte :=
  let ys := bs.flatMap PressBlock.ys
  (bs.map fun b => BitVec.ofNat 8 b.code) ++
    (if p.out = 0 then (List.range p.planes).flatMap fun j => planeBytes (7 - j) ys else ys.map fun y => BitVec.ofNat 8 y)

/-- The blocks of a command's input (11 R348). -/
def pressBlocks (p : PressPar) (data : List Byte) : List PressBlock :=
  let bl := pieces (32 * p.width) data.length data
  (bl.zip (List.range bl.length)).map fun q => pressBlock p (32 * q.2) ((pieces p.width 32 q.1).map numLE)

/-- The output of a command's blocks. -/
def pressBytes (p : PressPar) (bs : List PressBlock) : List Byte := (pieces 64 bs.length bs).flatMap (pressGroup p)

/-- PRESS_FIRE: the head of the press queue fires and reads its input slots (07 R213; 11 R348). -/
def execPressFire (core : Nat) (s : State) : Host.Outcome State Fault Refusal :=
  .next (match s.nextFor core 1 with
    | none => s
    | some m =>
      let k := s.core core
      if !k.ringsAdmit m then s
      else
        let slots := k.inSlots m.qa
        let n := 0x2000 * (k.ring m.qa).slotTiles
        match Core.slotsReach core k slots n with
        | .bad f a => s.engFault core m f a.toNat
        | .ok => (s.performFor m).fireCmd core { m with data := slots.flatMap fun t => k.slotBytes t n, waitTiles := [] }
        | w => s.cmdWait core m w)

/-- The output slots that a completing command fills: those the producer fills next (07 R215). -/
def Core.outSlots (k : Core) (q : Nat) : List (List Nat) :=
  let r := k.ring q
  (r.slotsFrom r.prod r.declared).map r.slot

/-- Bytes written over the slots a command fills, then its rings advanced; it waits for fills, or faults, where a tile
asks for it (07 R213, R222; 08 R256). -/
def State.fillSlots (s : State) (c : Nat) (m : Cmd) (q : Nat) (bs : List Byte) (f : State → State) : State :=
  let k := s.core c
  let slots := k.outSlots q
  match Core.slotsReach c k slots (0x2000 * (k.ring q).slotTiles) with
  | .bad e a => s.engFault c m e a.toNat
  | .ok => f ((s.setCore c (k.agentPut (slotCells slots.flatten bs))).finishCmd c m)
  | w => s.cmdWait c m w

/-- A press that has fired completes: output written, flags ORed, rings advanced, or a fault (11 R348 to R351). The manual
states no DETAIL for output that does not fit: a free value. -/
def State.runPress (s : State) (c : Nat) (m : Cmd) : State :=
  let p := m.pressPar
  let room := ((s.core c).outSlots m.qb).length * (0x2000 * ((s.core c).ring m.qb).slotTiles)
  let bs := pressBlocks p m.data
  let out := pressBytes p bs
  if (bs.length / 64) * p.group > room then
    (s.takeFree 1).engFault c m .bankFormat (Config.freeWord (freeKey s.free 7)).toNat
  else match (bs.zip (List.range bs.length)).findSome? fun b => b.1.trap.map fun t => (t, 32 * b.2) with
    | some (t, i) => s.cmdFault c m t 0 i
    | none =>
      s.fillSlots c m m.qb (out ++ List.replicate (room - out.length) 0) fun s =>
        s.modCore c fun k => { k with press := bs.foldl (fun w b => w ||| BitVec.ofNat 64 b.fl) k.press }

/-- PRESS_COMPLETE: the commands of a core complete in the order in which they fired (11 R351, R352). -/
def execPressComplete (core id : Nat) (s : State) : Host.Outcome State Fault Refusal :=
  .next (match (s.core core).cmds.find? fun m => m.fn == 1 && m.st == .fired with
    | none => s
    | some m => if m.id = id then s.runPress core m else s)

end Sys2Proof.Machine
end

