-- ==== Sys2Proof/Machine/Cellar.lean ====
section
/-! DEFINITION. The Cellar (07 R227 to R230; 11 R353 to R360) and its transfers with NVMe controllers (11 R361, R362). -/

namespace Sys2Proof.Machine

/-- The key of a Cellar command: slot and tag (07 R227). -/
def Cmd.key (m : Cmd) : Nat := fld m.sa 23 0

/-- The key word as DETAIL (07 R235). -/
def Cmd.keyDetail (m : Cmd) : Nat := fld m.sa 31 0

/-- The tag of a key (07 R227). -/
def keyTag (key : Nat) : Nat := key % 65536

/-- Bytes that a command's declared slots hold (11 R354). -/
def Core.slotsLen (k : Core) (q : Nat) : Nat := (k.ring q).declared * ((k.ring q).slotTiles * 0x2000)

/-- Units of a tier, in bytes, that a stored form takes (11 R357). -/
def tierUnits (tier size : Nat) : Nat := let u := if tier = 3 then 4096 else 256; (size + u - 1) / u * u

/-- The bytes of a tier (11 R357, R360). -/
def Dev.tierSize (d : Dev) (tier : Nat) : Nat :=
  let r (o : Nat) : Word := Tab.get d.cellarRegs 0 o
  match tier with
  | 1 => fld (r 0x008) 55 16 * 65536
  | 2 => fld (r 0x018) 55 16 * 65536
  | 3 => fld (r 0x030) 39 0 * 4096
  | _ => 0

/-- Every command of the Cellar's queues, fired or not, placed or saved, with its core. -/
def State.cellarCmds (s : State) : List (Nat × Cmd) :=
  (s.cores.flatMap fun q => (q.2.cmds.filter fun m => m.eng == 2).map fun m => (q.1, m)) ++
    s.dev.gangs.flatMap fun g => g.2.groups.flatMap fun h => (h.cmds.filter fun m => m.eng == 2).map fun m => (h.coreIdx, m)

/-- The bytes of a unit of a tier (11 R357). -/
def tierUnit (tier : Nat) : Nat := if tier = 3 then 4096 else 256

/-- Where a unit of a tier stands: in device memory by physical address, or in the namespace of the NVMe region (11 R357,
R360). -/
def Dev.unitAt (d : Dev) (tier u : Nat) : Nat :=
  let r (o : Nat) : Word := Tab.get d.cellarRegs 0 o
  match tier with
  | 1 => fld (r 0x000) 55 16 * 65536 + 256 * u
  | 2 => fld (r 0x010) 55 16 * 65536 + 256 * u
  | _ => d.nvmeKey (fld (r 0x020) 3 0) ((fld (r 0x028) 47 0 + u) * 4096)

/-- The offset of a unit of the NVMe region in its namespace. -/
def Dev.regionOff (d : Dev) (u : Nat) : Nat := (fld (Tab.get d.cellarRegs 0 0x028) 47 0 + u) * 4096

/-- A stored form written to units of a tier (11 R357). -/
def Dev.tierPut (d : Dev) (tier : Nat) (units : List Nat) (bs : List Byte) : Dev :=
  (units.zip (pieces (tierUnit tier) units.length bs)).foldl (fun d q =>
    if tier = 3 then { d with nvme := Mem.writeBytes d.nvme (d.unitAt tier q.1) q.2 } else d.paPut (d.unitAt tier q.1) q.2) d

/-- The first n bytes that units of a tier hold. -/
def Dev.tierGet (d : Dev) (tier : Nat) (units : List Nat) (n : Nat) : List Byte :=
  (units.flatMap fun u =>
    if tier = 3 then Mem.bytes d.nvme (d.unitAt tier u) 4096 else d.paBytes (d.unitAt tier u) 256).take n

/-- A past of a key that a fetch may still find: one that has not fired has a place before its end (11 R359). -/
def State.pastLive (s : State) (g : KeyPast) : Bool :=
  s.cellarCmds.any fun q => q.2.fn == 3 && (q.2.st == .queued || q.2.st == .aside) && q.2.key == g.key && decide (q.2.order < g.hi)

/-- The entries that hold units: those of the directory, and those that a fetch may still find (11 R357, R359). -/
def State.heldEntries (s : State) : List CEntry :=
  ((s.dev.cellar.map Prod.snd) ++ (s.dev.keyPast.filter s.pastLive).filterMap KeyPast.ent).filter CEntry.stashed

/-- The units of a tier in use: those of entries, of stashes being written there, of entries that a fired fetch still reads, and of
prefetch moves (11 R357, R359, R360). The range of such a command holds the tier and the units. -/
def State.unitsUsed (s : State) (tier : Nat) : List Nat :=
  ((s.heldEntries.filter fun e => e.tier == tier).flatMap (fun e => e.units) ++
    (if tier = 1 then s.dev.prefs.flatMap PrefMove.units else []) ++
    ((s.cellarCmds.map Prod.snd).filter fun m => (m.st == .fired || m.st == .storing) && m.range.head? == some tier).flatMap
      fun m => m.range.drop 1).eraseDups

/-- Units in runs of consecutive numbers, each with its length. -/
def unitRuns : List Nat → List (Nat × Nat)
  | [] => []
  | u :: us =>
    match unitRuns us with
    | (v, n) :: rs => if u + 1 = v then (u, n + 1) :: rs else (u, 1) :: (v, n) :: rs
    | [] => [(u, 1)]

/-- A tier has room for some bytes beside those kept free (11 R357). -/
def State.tierRoom (s : State) (tier size keep : Nat) : Bool :=
  decide ((s.unitsUsed tier).length * tierUnit tier + tierUnits tier size + keep ≤ s.dev.tierSize tier)

/-- The units that a stored form is given: the lowest that are free (DESIGN CHOICE, log entry 69). -/
def State.freeUnits (s : State) (tier size : Nat) : List Nat :=
  let n := tierUnits tier size / tierUnit tier
  let used := s.unitsUsed tier
  ((List.range (n + used.length)).filter fun u => !used.contains u).take n

/-- The tier that a stash goes to: the one named, or the first with room (11 R357). -/
def State.pickTier (s : State) (tier size : Nat) : Option Nat :=
  if tier = 0 then
    let keep := fld (Tab.get s.dev.cellarRegs 0 0x038) 55 16 * 65536
    if s.tierRoom 1 size keep then some 1
    else if s.tierRoom 2 size 0 then some 2
    else if s.tierRoom 3 size 0 then some 3 else none
  else if s.tierRoom tier size 0 then some tier else none

/-- The key was last acted on by a command later in directory order (11 R353). -/
def Dev.laterKey (d : Dev) (key order : Nat) : Bool :=
  match Tab.find? d.keyOrd key with
  | some o => decide (order < o)
  | none => false

/-- What a key is for a command at a place of directory order, then what it became, in their order, each with the place of the
command that made it so (11 R353, R359). -/
def State.versions (s : State) (key order : Nat) : List (Nat × Option CEntry) :=
  ((s.dev.keyPast.filter fun g => g.key == key && decide (order < g.hi)).map fun g => (g.lo, g.ent)) ++
    [(Tab.get s.dev.keyOrd 0 key, Tab.find? s.dev.cellar key)]

/-- A stash of a key before a place in directory order that has not stored, and after the command that made what stands there: the
latest one before that place (07 R228; 11 R359). -/
def State.stashBefore (s : State) (key order : Nat) : Bool :=
  let since := ((s.versions key order).head?.map Prod.fst).getD 0
  s.cellarCmds.any fun q => q.2.fn == 2 && q.2.key == key && decide (q.2.order < order) &&
    decide (order ≤ since ∨ since < q.2.order)

/-- The directory has a place for a key, those that stashes being written will take counted (11 R353). -/
def State.dirRoom (s : State) (key : Nat) : Bool :=
  let keys := (s.dev.cellar.map Prod.fst ++
    ((s.cellarCmds.filter fun q => q.2.fn == 2 && q.2.st == .storing).map fun q => q.2.key)).eraseDups
  keys.contains key || decide (keys.length < 65536)

/-- A prefetch move of a key is abandoned (11 R360). -/
def Dev.dropPref (d : Dev) (key : Nat) : Dev := { d with prefs := d.prefs.filter fun p => p.key != key }

/-- A past of a key parted where a command acts in it. -/
def KeyPast.part (key order : Nat) (v : Option CEntry) (g : KeyPast) : List KeyPast :=
  if g.key = key ∧ g.lo < order ∧ order < g.hi then [{ g with hi := order }, { g with lo := order, ent := v }] else [g]

/-- A command makes of a key what v says: for the commands after it in directory order. What it was stays for a fetch before it, and
what a later command has made of it stays (11 R353, R359). -/
def State.actKey (s : State) (key order : Nat) (v : Option CEntry) : State :=
  if s.dev.laterKey key order then
    s.modDev fun d => { d with keyPast := d.keyPast.flatMap (KeyPast.part key order v) }
  else
    let g : KeyPast := { key := key, lo := Tab.get s.dev.keyOrd 0 key, hi := order, ent := Tab.find? s.dev.cellar key }
    s.modDev fun d =>
      { d.dropPref key with
        keyPast := (d.keyPast ++ [g]).filter s.pastLive,
        keyOrd := Tab.set d.keyOrd key order,
        cellar := match v with
          | some e => Tab.set d.cellar key e
          | none => Tab.del d.cellar key }

/-- A key freed. -/
def State.freeEntry (s : State) (key order : Nat) : State := s.actKey key order none

/-- The entry of a key dropped for recomputation. -/
def CEntry.dropped : CEntry := { stashed := false, tier := 0, units := [], size := 0, bytes := 0 }

/-- A key marked dropped for recomputation, and the Sheepdog told (07 R230; 09 R297). -/
def State.dropKey (s : State) (m : Cmd) : State :=
  (s.actKey m.key m.order (some CEntry.dropped)).modDev fun d => d.arrive 3 ⟨keyTag m.key, m.stage.toNat % 65536⟩

/-- FUNCMODE.CELPOL (11 R358). -/
def State.celpol (s : State) : Bool := bit s.funcMode 2

/-- CELLAR_CAPACITY: the key becomes free (11 R357, R358, R362). -/
def State.stashFails (s : State) (c : Nat) (m : Cmd) : State :=
  (s.cmdFault c m .cellarCapacity 0 m.keyDetail).freeEntry m.key m.order

/-- A stash fires: its slots are read (07 R213; 11 R354). -/
def State.fireStash (s : State) (c : Nat) (m : Cmd) : State :=
  let k := s.core c
  let slots := k.inSlots m.qa
  let n := 0x2000 * (k.ring m.qa).slotTiles
  match Core.slotsReach c k slots n with
  | .bad f a => s.engFault c m f a.toNat
  | .ok => (s.performFor m).fireCmd c { m with data := slots.flatMap fun t => k.slotBytes t n, waitTiles := [] }
  | w => s.cmdWait c m w

/-- STASH_FIRE: the head stash fires, or is put before the host (11 R354, R358). Aux 1 says that the host was asked; 2 and
more that it chose tier aux − 2. -/
def execStashFire (core : Nat) (s : State) : Host.Outcome State Fault Refusal :=
  .next (match s.nextFor core 2 with
    | none => s
    | some m =>
      let k := s.core core
      if m.fn ≠ 2 ∨ !k.ringsAdmit m ∨ m.aux = 1 then s
      else if m.aux = 0 ∧ fld m.sb 1 0 = 0 ∧ s.celpol then
        (s.setCmd core { m with aux := 1 }).post 4 core m.place m.sa (BitVec.ofNat 64 (k.slotsLen m.qa)) 0
      else s.fireStash core m)

/-- The stored form of what a stash has read (11 R354). -/
def Cmd.stored (m : Cmd) : List Byte := storedBytes (storeBlocks (bit m.sb 3) m.data)

/-- The entry of a stash made, its stored form written to its units (07 R228; 11 R357). -/
def State.makeEntry (s : State) (m : Cmd) (tier : Nat) (units : List Nat) : State :=
  (s.modDev fun d => d.tierPut tier units m.stored).actKey m.key m.order
    (some { stashed := true, tier := tier, units := units, size := m.stored.length, bytes := m.data.length })

/-- A command completes by dropping its key for recomputation, or faults where the directory has no place for it (11 R353, R357,
R358). -/
def State.dropStash (s : State) (c : Nat) (m : Cmd) : State :=
  if s.dirRoom m.key then (s.finishCmd c m).dropKey m else s.stashFails c m

/-- Transfers with the NVMe region: one for each of the units that do not follow one another, as they lie (11 R357, R361). -/
def State.nvRegion (s : State) (c id side : Nat) (units : List Nat) : State :=
  let slot := fld (Tab.get s.dev.cellarRegs 0 0x020) 3 0
  (unitRuns units).foldl (fun s r => s.nvBegin c id side slot (s.dev.regionOff r.1) (4096 * r.2)) s

/-- A stash that has fired finds its tier: it is stored, its transfer to NVMe begins, its key is dropped, or it faults (11
R357, R361). -/
def State.placeStash (s : State) (c : Nat) (m : Cmd) : State :=
  let size := m.stored.length
  let tier := if m.aux ≥ 2 then m.aux - 2 else fld m.sb 1 0
  if !s.dirRoom m.key then s.stashFails c m
  else match s.pickTier tier size with
    | none => if bit m.sb 2 then s.dropStash c m else s.stashFails c m
    | some 3 =>
      let units := s.freeUnits 3 size
      (s.setCmd c { m with st := .storing, range := 3 :: units }).nvRegion c m.id 1 units
    | some t => (s.makeEntry m t (s.freeUnits t size)).finishCmd c m

/-- STASH_STORED (11 R357). -/
def execStashStored (core id : Nat) (s : State) : Host.Outcome State Fault Refusal :=
  .next (match (s.core core).cmd? id with
    | none => s
    | some m =>
      if m.fn ≠ 2 ∨ s.nvmeBusy core m then s
      else if m.st = .fired then s.placeStash core m
      else if m.st = .storing then (s.makeEntry m 3 (m.range.drop 1)).finishCmd core m
      else s)

/-- The stash that waits for the host's decision on a key, the first in directory order (11 R358). -/
def State.celdecFor (s : State) (w : Word) : Option (Nat × Cmd) :=
  let ws := (s.cores.flatMap fun q => q.2.cmds.map fun m => (q.1, m)).filter fun q =>
    q.2.fn == 2 && q.2.st == .queued && q.2.aux == 1 && q.2.key == fld w 23 0
  ws.find? fun q => ws.all fun r => decide (q.2.order ≤ r.2.order)

/-- CELDEC_PLACE: the stash goes on, as if it named the tier (11 R358). TIER 0 names none. -/
def execCeldecPlace (w : Word) (s : State) : Host.Outcome State Fault Refusal :=
  .next (match s.celdecFor w with
    | some (c, m) => if fld w 57 56 = 0 then s else s.setCmd c { m with aux := 2 + fld w 57 56 }
    | none => s)

/-- CELDEC_DROP: the key is dropped for recomputation, the stash completes (11 R358). -/
def execCeldecDrop (w : Word) (s : State) : Host.Outcome State Fault Refusal :=
  .next (match s.celdecFor w with
    | some (c, m) => (s.fireCmd c m).dropStash c { m with st := .fired }
    | none => s)

/-- CELDEC_REFUSE: the stash faults CELLAR_CAPACITY (11 R358). -/
def execCeldecRefuse (w : Word) (s : State) : Host.Outcome State Fault Refusal :=
  .next (match s.celdecFor w with
    | some (c, m) => s.stashFails c m
    | none => s)

/-- A fetch reads an entry: what its context published before is performed, its slots are reserved, the bytes are read, a transfer
from NVMe begins where the entry lies there (07 R229; 08 R271; 11 R354, R359). -/
def State.fireFetch (s : State) (c : Nat) (m : Cmd) (e : CEntry) : State :=
  let s := s.performFor m
  if (s.core c).slotsLen m.qb ≠ e.bytes then s.cmdFault c m .engineFault 0 m.keyDetail
  else match readStored (e.bytes / 4096) (s.dev.tierGet e.tier e.units e.size) with
    | none => s.cmdFault c m .engineFault Cause.poison.code.toNat m.keyDetail
    | some bs =>
      let s := (s.fireCmd c { m with data := bs, range := e.tier :: e.units }).modDev fun d => d.dropPref m.key
      if e.tier = 3 then s.nvRegion c m.id 0 e.units else s

/-- What a fetch finds of its key: what stands at its place in directory order, or, where that is a key dropped for recomputation,
what the key became after it (07 R229; 11 R353, R359). -/
def State.found (s : State) (m : Cmd) : Option CEntry :=
  match (s.versions m.key m.order).find? fun v => !(v.2.any fun e => !e.stashed) with
  | some v => v.2
  | none => some CEntry.dropped

/-- A fetch acts on its key: it fires, waits aside, or misses (07 R212, R229; 11 R359). -/
def State.tryFetch (s : State) (c : Nat) (m : Cmd) : State :=
  let aside : State := if m.st = .queued then s.setCmd c { m with st := .aside } else s
  if s.stashBefore m.key m.order then aside
  else match s.found m with
    | none => s.cmdFault c m .cellarMiss 0 m.keyDetail
    | some e =>
      if !e.stashed then aside else if (s.core c).ringsAdmit m then s.fireFetch c m e else s

/-- FETCH_FIRE: the head of the queue, or a fetch that waits aside (07 R212, R229). -/
def execFetchFire (core id : Nat) (s : State) : Host.Outcome State Fault Refusal :=
  .next (match (s.core core).cmd? id with
    | none => s
    | some m =>
      if m.fn = 3 ∧ (m.st = .aside ∨ (s.nextFor core 2).map Cmd.id = some id) then s.tryFetch core m else s)

/-- FETCH_COMPLETE: the bytes are written and the ring advances (07 R213; 11 R354). -/
def execFetchComplete (core id : Nat) (s : State) : Host.Outcome State Fault Refusal :=
  .next (match (s.core core).cmd? id with
    | none => s
    | some m => if m.fn = 3 ∧ m.st = .fired ∧ !s.nvmeBusy core m then s.fillSlots core m m.qb m.data (fun s => s) else s)

/-- A drop takes effect on its key (07 R230). One with FORGET = 1 of a key dropped for recomputation frees it, as 11 R359 has it:
07 R230 gives a drop of a key that is not stashed no effect there (log entry 70). A fetch that waits aside on the key then finds it
free. -/
def State.doDrop (s : State) (c : Nat) (m : Cmd) : State :=
  if bit m.sa 24 then (s.dropCmd c m.id).freeEntry m.key m.order
  else if s.dirRoom m.key then (s.dropCmd c m.id).dropKey m
  else s.cmdFault c m .cellarCapacity 0 m.keyDetail

/-- A drop that has fired and that no stash before it holds (07 R228). -/
def State.readyDrop (s : State) (c : Nat) : Option Cmd :=
  (s.core c).cmds.find? fun m => m.fn == 4 && m.st == .fired && !s.stashBefore m.key m.order

/-- DROP_FIRE: a drop fires at once, and takes effect once the stashes before it have stored (07 R213, R228, R230). -/
def execDropFire (core : Nat) (s : State) : Host.Outcome State Fault Refusal :=
  .next (match s.readyDrop core with
    | some m => s.doDrop core m
    | none => match s.nextFor core 2 with
      | none => s
      | some m =>
        if m.fn ≠ 4 then s
        else if s.stashBefore m.key m.order then s.setCmd core { m with st := .fired } else s.doDrop core m)

/-- The number of a prefetch move's reads of the NVMe region: of no core's command (MODEL). -/
def PrefMove.reader : Nat := 1024

/-- A prefetch move of a key begun, where the pool has room for it: its units are taken, and an entry of the NVMe region is read (11
R360, R361). -/
def State.beginPref (s : State) (key : Nat) : State :=
  match Tab.find? s.dev.cellar key with
  | none => s
  | some e =>
    if e.stashed ∧ e.tier ≠ 1 ∧ !s.dev.prefs.any (fun p => p.key == key) ∧ s.tierRoom 1 e.size 0 then
      let n := s.dev.prefSeq
      let p : PrefMove := { key := key, units := s.freeUnits 1 e.size, seq := n }
      let s := s.modDev fun d => { d with prefs := d.prefs ++ [p], prefSeq := n + 1 }
      if e.tier = 3 then s.nvRegion PrefMove.reader n 0 e.units else s
    else s

/-- A prefetch hint: the entries of its tags, in its order, are to move into the HBM4E pool; a move for which the pool has no room
now is not made (11 R360; 09 R302). -/
def State.prefetch (s : State) (tags : List Nat) : State :=
  (tags.flatMap fun t => (s.dev.cellar.map Prod.fst).filter fun k => keyTag k == t).foldl State.beginPref s

/-- CELLAR_PREFETCH_MOVE: an entry that a hint named moves into the HBM4E pool, once it has been read (11 R360). -/
def execCellarPrefetchMove (key : BitVec 24) (s : State) : Host.Outcome State Fault Refusal :=
  .next (match s.dev.prefs.find? fun p => p.key == key.toNat, Tab.find? s.dev.cellar key.toNat with
    | some p, some e =>
      if s.dev.nvmeOps.any fun o => o.id == nvmeId PrefMove.reader p.seq 0 then s
      else s.modDev fun d =>
        { (d.tierPut 1 p.units (d.tierGet e.tier e.units e.size)).dropPref key.toNat with
          cellar := Tab.set d.cellar key.toNat { e with tier := 1, units := p.units } }
    | _, _ => s)

/-- A transfer that failed twice (11 R359, R362). -/
def State.nvmeFails (s : State) (c : Nat) (m : Cmd) (side : Nat) : State :=
  if m.fn = 0 then s.engFault c m .poison (if side = 0 then m.sa else m.sb).toNat
  else if m.fn = 2 then s.stashFails c m
  else s.engFault c m .poison m.keyDetail

/-- The completion queue entry of a transfer as its controller writes it, with the phase tag and, where the command succeeded,
status zero (11 R361, R362); the rest is free values of seed k. Its layout is that of NVMe (PRESUMED, log entry 68). -/
def nvEntry (phase ok : Bool) (k : Nat) : List Byte :=
  let w := setFld (Config.freeWord (k + 4)) 48 48 phase.toNat
  bytesLE 8 (Config.freeWord (k + 3)).toNat ++ bytesLE 8 (setFld w 63 49 (if ok then 0 else max 1 (fld w 63 49))).toNat

/-- The completion of a command of a queue pair taken from its queue: the phase tag polled, the doorbell written (11 R361). -/
def Dev.nvComplete (d : Dev) (port q : Nat) (ok : Bool) (k : Nat) : Dev :=
  let p := d.nvPair port q
  let head := (p.head + 1) % (fld (d.nvPairReg port q 0x10) 15 0 + 1)
  let d := d.paPut (fld (d.nvPairReg port q 8) 55 12 * 4096 + 16 * p.head) (nvEntry p.phase ok k)
  (d.setNvPair port q { p with head := head, phase := p.phase != (head == 0) }).ringDoorbell port q 1 head

/-- A transfer is still wanted: its command is there, or its prefetch move (11 R359 to R361). -/
def State.nvWanted (s : State) (id : Nat) : Bool :=
  ((s.core (id / 2 / 2 ^ 32)).cmd? (id / 2 % 2 ^ 32)).isSome || s.dev.prefs.any fun p => nvmeId PrefMove.reader p.seq 0 == id

/-- NVME_COMPLETION: the first submitted transfer of a number ends, is reissued once, or fails; one that nothing wants any more only
ends (11 R361, R362). A prefetch move whose read fails twice is not made. -/
def execNvmeCompletion (id : Nat) (ok : Bool) (s : State) : Host.Outcome State Fault Refusal :=
  .next (match s.dev.nvmeOps.find? fun o => o.id == id && o.pair.isSome with
    | none => s
    | some o =>
      let s := (s.modDev fun d => d.nvComplete o.port (o.pair.getD 0) ok (freeKey s.free 16)).takeFree 1
      if !ok ∧ o.tries = 0 ∧ s.nvWanted id then
        (s.modDev fun d => { d with nvmeOps := d.nvmeOps.map fun q => if q = o then { o with tries := 1, pair := none } else q }).nvSubmitAll
      else
        let s := (s.modDev fun d => { d with nvmeOps := d.nvmeOps.erase o }).nvSubmitAll
        if ok then s
        else match (s.core (id / 2 / 2 ^ 32)).cmd? (id / 2 % 2 ^ 32) with
          | some m => s.nvmeFails (id / 2 / 2 ^ 32) m (id % 2)
          | none => s.modDev fun d =>
            { d with
              prefs := d.prefs.filter fun p => nvmeId PrefMove.reader p.seq 0 != id,
              nvmeOps := d.nvmeOps.filter fun q => q.id != id || q.pair.isSome })

end Sys2Proof.Machine
end

