-- ==== Sys2Proof/Machine/Queues.lean ====
section
/-! DEFINITION. Launch records (09 R280), the task-type table's checks (09 R283, R284), the class queues (09 R286), and the
host launch queues (09 R275 to R282). -/

namespace Sys2Proof.Machine

/-- A word of a launch record. -/
def LRec.word (q : LRec) (i : Nat) : Word := q.words.getD i 0

/-- Fields of a record that its uses name (09 R280). -/
def LRec.ttype (q : LRec) : Nat := fld (q.word 0) 35 30
def LRec.cpc (q : LRec) : Nat := fld (q.word 0) 45 44 + 1
def LRec.width (q : LRec) : Nat := fld (q.word 0) 39 36 + 1
def LRec.height (q : LRec) : Nat := fld (q.word 0) 43 40 + 1
def LRec.cls (q : LRec) : Nat := fld (q.word 0) 60 58
def LRec.tag (q : LRec) : Nat := fld (q.word 3) 15 0
def LRec.stage (q : LRec) : Nat := fld (q.word 3) 31 16

/-- Width k of a word of work-identifier widths (01 R35). -/
def widthOf (w : Word) (k : Nat) : Nat := fld w (6 * k + 5) (6 * k)

/-- The position of field k of a work identifier (01 R41). -/
def posOf (w : Word) (k : Nat) : Nat := (List.range k).foldl (fun n i => n + widthOf w i) 0

/-- The zero fields of a record hold zero (09 R280, R281). -/
def LRec.zeroOk (q : LRec) : Bool :=
  fld (q.word 0) 46 46 == 0 && fld (q.word 0) 29 0 == 0 && fld (q.word 1) 63 36 == 0 && fld (q.word 3) 63 32 == 0 &&
    fld (q.word 5) 61 10 == 0 && fld (q.word 7) 61 10 == 0

/-- A bank record that 08 R252 and R253 allow. -/
def bankRecOk (r : Nat) : Bool :=
  let elem := r % 16
  let planes := r / 16 % 16
  let read := r / 256 % 16
  let side := r / 4096 % 2
  r / 8192 == 0 && decide (elem < 9) &&
    (if elem = 7 then decide (1 ≤ planes) && decide (planes ≤ 8) && decide (read ≤ 8) else planes == 0 && read == 0) &&
    (side == 0 || elem == 3 || elem == 4 || elem == 5)

/-- The 16 words of a task type (09 R283). -/
def State.taskWords (s : State) (t : Nat) : List Word := (List.range 16).map fun i => Tab.get s.dev.taskTab 0 (16 * t + i)

/-- Sizes of a task type: scalar and vector registers, accumulator rows, private and shared banks (09 R283). -/
def ttScl (tt : List Word) : Nat := 8 * fld (tt.getD 1 0) 3 0
def ttVec (tt : List Word) : Nat := 4 * fld (tt.getD 1 0) 7 4
def ttAcc (tt : List Word) : Nat := 32 * fld (tt.getD 1 0) 11 8
def ttPriv (tt : List Word) : Nat := fld (tt.getD 1 0) 16 12
def ttShared (tt : List Word) : Nat := fld (tt.getD 1 0) 21 17
def ttMatrix (tt : List Word) : Bool := bit (tt.getD 0 0) 61

/-- The bank record of view bank k (09 R283). -/
def ttBank (tt : List Word) (k : Nat) : Nat := fld (tt.getD (4 + k / 4) 0) (16 * (k % 4) + 15) (16 * (k % 4))

/-- A task type may be launched with c contexts a core: it is valid, passes its checks, and a group fits an empty core
(09 R284). -/
def taskOk (tt : List Word) (c : Nat) : Bool :=
  let banks := ttPriv tt + ttShared tt
  bit (tt.getD 0 0) 63 && decide (8 ≤ ttScl tt) && decide (ttScl tt ≤ 64) && decide (4 ≤ ttVec tt) &&
    decide (ttVec tt ≤ 32) && decide (ttAcc tt ≤ 256) && (ttAcc tt == 0 || ttMatrix tt) && decide (banks ≤ 16) &&
    (List.range 16).all (fun k => if k < banks then bankRecOk (ttBank tt k) else ttBank tt k == 0) &&
    decide (c * ttScl tt ≤ 256) && decide (c * ttVec tt ≤ 64) && decide (c * ttPriv tt + ttShared tt ≤ 16)

/-- A record passes the checks of forwarding (09 R281), its reading apart. -/
def State.recordOk (s : State) (q : LRec) : Bool :=
  q.zeroOk && fld (q.word 0) 63 62 != 3 && decide (q.width ≤ 12) && decide (q.height ≤ 12) &&
    decide (q.width * q.height ≤ 64) && decide (posOf (q.word 1) 6 ≤ 64) && taskOk (s.taskWords q.ttype) q.cpc

/-- A class queue. -/
def State.classQueue (s : State) (c : Nat) : List LRec := Tab.get s.dev.classq [] c

/-- A class queue replaced. -/
def State.setClassQueue (s : State) (c : Nat) (l : List LRec) : State :=
  s.modDev fun d => { d with classq := Tab.set d.classq c l }

/-- A record at the tail of a class queue: a decision follows where the queue was empty (09 R286). -/
def State.enterClass (s : State) (c : Nat) (q : LRec) : State :=
  let l := s.classQueue c
  (s.setClassQueue c (l ++ [q])).modDev fun d => { d with placeDue := d.placeDue || l.isEmpty }

/-- The cores are in reset: until the boot images are verified, and where they are not (13 R424). -/
def Dev.coresHeld (d : Dev) : Bool := decide (d.bootst < 2) || d.bootst == 15

/-- A launch queue that nothing has used. -/
def LQueue.reset : LQueue :=
  { base := 0, last := 0, tail := 0, head := 0, progress := 0, error := false, since := 0, idleSince := none, gangs := [],
    retired := [], waitPlace := none, gangIdx := 0 }

/-- Launch queue q as the device holds it. -/
def Dev.lqueue (d : Dev) (q : Nat) : LQueue := Tab.get d.queues LQueue.reset q

/-- Nothing is left to forward and every gang forwarded has retired (09 R279). -/
def LQueue.idle (r : LQueue) : Bool := r.head == r.tail && r.gangs.isEmpty

/-- A launch queue changed; since when it is idle is kept up. -/
def State.modQueue (s : State) (q : Nat) (f : LQueue → LQueue) : State :=
  s.modDev fun d =>
    let r := f (d.lqueue q)
    let r : LQueue := { r with idleSince := if r.idle then some (r.idleSince.getD s.cycle) else none }
    { d with queues := Tab.set d.queues q r }

/-- A QUEUE event: the queue and a count (12 R396). -/
def State.postQueue (s : State) (q n : Nat) : State := s.post 1 0 0 (BitVec.ofNat 64 q) (BitVec.ofNat 64 n) 0

/-- The ERROR bit of a queue set: in the device while it is resident, else in its entry (09 R276). -/
def State.queueError (s : State) (q : Nat) : State :=
  if s.dev.resident.contains q then s.modQueue q fun r => { r with error := true }
  else match s.hostqWord (s.dev.qentry q 0) with
    | some w => (s.hostqPut (s.dev.qentry q 0) (bytesLE 8 (setFld w 6 6 1).toNat)).getD s
    | none => s

/-- PROGRESS moved over the retired prefix (09 R282). -/
def LQueue.catchUp : Nat → LQueue → LQueue
  | 0, r => r
  | n + 1, r =>
    if r.retired.contains r.progress.toNat then
      LQueue.catchUp n
        { r with retired := r.retired.filter fun c => c != r.progress.toNat, progress := r.progress + 1 }
    else r

/-- A record counts as retired (09 R282); a queue that is not resident has PROGRESS written in its entry (09 R279). -/
def State.recordRetired (s : State) (q n : Nat) : State :=
  let s := s.modQueue q fun r =>
    ({ r with gangs := r.gangs.filter fun c => c != n, retired := r.retired ++ [n],
              waitPlace := if r.waitPlace = some n then none else r.waitPlace }).catchUp (r.retired.length + 1)
  if s.dev.resident.contains q then s
  else (s.hostqPut (s.dev.qentry q 1 + 4) (bytesLE 4 (s.dev.lqueue q).progress.toNat)).getD s

/-- The conditions under which a tail is accepted (09 R278): log2n of the queue, progress, head, tail. -/
def tailOk (log2n : Nat) (p h t : BitVec 32) : Bool :=
  decide ((t - p).toNat ≤ 2 ^ log2n) && decide ((t - h).toNat ≤ (t - p).toNat)

/-- The words 0 to 2 of a queue's entry; none where they cannot be read (09 R276). -/
def State.queueEntry (s : State) (q : Nat) : Option (Word × Word × Word) :=
  match s.hostqWord (s.dev.qentry q 0), s.hostqWord (s.dev.qentry q 1), s.hostqWord (s.dev.qentry q 2) with
  | some a, some b, some c => some (a, b, c)
  | _, _, _ => none

/-- A tail write to a queue that is not resident (09 R278, R279). -/
def State.tailAway (s : State) (q : Nat) (t : BitVec 32) : State :=
  match s.queueEntry q with
  | none => s.postQueue q t.toNat
  | some (w0, w1, w2) =>
    if bit w0 6 || !tailOk (fld w0 4 0) (BitVec.ofNat 32 (fld w1 63 32)) (BitVec.ofNat 32 (fld w2 31 0)) t then
      (s.queueError q).postQueue q t.toNat
    else match s.hostqPut (s.dev.qentry q 1) (bytesLE 4 t.toNat) with
      | none => s.postQueue q t.toNat
      | some s' =>
        (s'.modQueue q fun r => { r with last := t }).modDev fun d =>
          if t.toNat = fld w2 31 0 ∨ d.pendingQ.contains q then d else { d with pendingQ := d.pendingQ ++ [q] }

/-- TAIL_WRITE: a doorbell's tail is accepted or refused (09 R277 to R279). -/
def execTailWrite (queue : Nat) (tail : BitVec 32) (s : State) : Host.Outcome State Fault Refusal :=
  .next
    (if queue ≥ s.dev.qcount then s
     else if s.dev.resident.contains queue then
       let r := s.dev.lqueue queue
       if r.error || !tailOk (fld r.base 4 0) r.progress r.head tail then
         (s.queueError queue).postQueue queue tail.toNat
       else s.modQueue queue fun r => { r with tail := tail, last := tail }
     else s.tailAway queue tail)

/-- QUEUE_RESIDENT: the queue that has been pending longest takes a free place (09 R276, R279). -/
def execQueueResident (queue : Nat) (s : State) : Host.Outcome State Fault Refusal :=
  .next
    (if s.dev.pendingQ.head? = some queue ∧ s.dev.resident.length < 64 then
       let s := s.modDev fun d => { d with pendingQ := d.pendingQ.filter fun q => q != queue }
       match s.queueEntry queue with
       | none => s.postQueue queue 0
       | some (w0, w1, w2) =>
         if fld w0 4 0 < 2 ∨ fld w0 4 0 > 15 then (s.queueError queue).postQueue queue (fld w1 31 0)
         else
           (s.modDev fun d => { d with resident := d.resident ++ [queue] }).modQueue queue fun r =>
             { r with
               base := w0 &&& 0x00FFFFFFFFFFFF9F#64, error := bit w0 6, tail := BitVec.ofNat 32 (fld w1 31 0),
               progress := BitVec.ofNat 32 (fld w1 63 32), head := BitVec.ofNat 32 (fld w2 31 0), since := s.cycle,
               idleSince := none }
     else s)

/-- A record of a queue waits in a class queue (09 R279). -/
def State.queueWaits (s : State) (q : Nat) : Bool :=
  (List.range 8).any fun c => (s.classQueue c).any fun r => r.queue == some q

/-- The queue that PENDING drives out: the one resident longest without a record that waits (09 R279). Before any switch-out of
this kind has been made, none need have passed (log entry 71). -/
def State.queueDriven (s : State) : Option Nat :=
  if !s.dev.pendingQ.isEmpty && decide (64 ≤ s.dev.resident.length) &&
      (match s.dev.lastSwitch with
        | some t => decide (t + 2 ^ 20 ≤ s.cycle)
        | none => true) then
    s.dev.resident.find? fun q => !s.queueWaits q
  else none

/-- A queue that leaves by itself: idle for 2^20 cycles, or stopped with every gang retired (09 R279). -/
def State.queueDone (s : State) (q : Nat) : Bool :=
  let r := s.dev.lqueue q
  (r.idle && (match r.idleSince with
    | some t => decide (t + 2 ^ 20 ≤ s.cycle)
    | none => false)) || (r.error && r.gangs.isEmpty)

/-- QUEUE_SWITCH_OUT: words 0 to 2 of the entry are written back (09 R276, R279). -/
def execQueueSwitchOut (queue : Nat) (s : State) : Host.Outcome State Fault Refusal :=
  .next
    (let driven := s.queueDriven == some queue
     if s.dev.resident.contains queue && (s.queueDone queue || driven) then
       let r := s.dev.lqueue queue
       let bs := bytesLE 8 (r.base.toNat + r.error.toNat * 64) ++ bytesLE 4 r.tail.toNat ++ bytesLE 4 r.progress.toNat ++
         bytesLE 8 r.head.toNat
       let alone := s.queueDone queue
       ((s.hostqPut (s.dev.qentry queue 0) bs).getD s).modDev fun d =>
         { d with
           resident := d.resident.filter fun q => q != queue,
           lastSwitch := if driven && !alone then some s.cycle else d.lastSwitch }
     else s)

/-- The address of the record at a queue's head (09 R276). -/
def LQueue.headAt (r : LQueue) : Nat := fld r.base 55 7 * 128 + 128 * (r.head.toNat % 2 ^ fld r.base 4 0)

/-- The record at a queue's head; none where it cannot be read (09 R276, R281). -/
def State.headRecord (s : State) (q : Nat) : Option LRec :=
  let r := s.dev.lqueue q
  let a := r.headAt
  ((List.range 16).mapM fun i => s.hostqWord (a + 8 * i)).map fun ws =>
    { words := ws, queue := some q, count := r.head.toNat, gangIdx := r.gangIdx, dog := none, saved := none }

/-- A queue may consider its head record (09 R281 step 1). -/
def State.mayForward (s : State) (q : Nat) : Bool :=
  let r := s.dev.lqueue q
  s.dev.resident.contains q && !r.error && r.head != r.tail && r.waitPlace.isNone

/-- A record's wait counter has been reached (09 R281 step 2). -/
def State.waitMet (s : State) (q : LRec) : Bool :=
  !bit (q.word 5) 63 || decide ((q.word 6).toNat ≤ (s.counter (fld (q.word 5) 62 62) (fld (q.word 5) 9 0)).toNat)

/-- RECORD_FORWARD: the head record enters its class queue, waits for its counter, or is refused (09 R281); a byte of it
whose read met an uncorrectable error twice poisons its page (10 R322). -/
def execRecordForward (queue : HeadRead) (s : State) : Host.Outcome State Fault Refusal :=
  .next
    (let bad := queue.bad
     let queue := queue.queue
     if s.mayForward queue then
       let s := match bad with
         | some o => s.poisonPage ((s.dev.lqueue queue).headAt + o % 128)
         | none => s
       match (if bad.isSome then none else s.headRecord queue) with
       | none => (s.queueError queue).postQueue queue (s.dev.lqueue queue).head.toNat
       | some q =>
         if !s.waitMet q then s
         else if s.recordOk q then
           (s.modQueue queue fun r =>
             { r with
               head := r.head + 1, gangs := r.gangs ++ [q.count], waitPlace := some q.count,
               gangIdx := if bit (q.word 0) 61 then q.gangIdx + 1 else 0 }).enterClass q.cls q
         else (s.queueError queue).postQueue queue q.count
     else s)

end Sys2Proof.Machine
end

