-- ==== Sys2Proof/Machine/Sheepdog.lean ====
section
/-! DEFINITION. The Sheepdog (09 R297 to R305) and the vintages (09 R306 to R308). -/

namespace Sys2Proof.Machine

/-- HELD_ARRIVAL_ENTRY: the first arrival held for a queue enters as a place frees (09 R297). -/
def execHeldArrivalEntry (queue : Nat) (s : State) : Host.Outcome State Fault Refusal :=
  .next
    (match s.dev.heldArr.find? fun h => h.1 == queue with
      | none => s
      | some h =>
        if (s.dev.arrivalsOf queue).length < 512 then
          s.modDev fun d => { d with heldArr := d.heldArr.erase h }.enterArr queue h.2
        else s)

/-- POST: an arrival made by software; one that finds its queue without a place is discarded (09 R297, R299). -/
def execDogPost (w : Word) (s : State) : Host.Outcome State Fault Refusal :=
  .next
    (let k := fld w 63 62
     let a : Arrival := ⟨fld w 15 0, fld w 47 32⟩
     s.modDev fun d =>
       if !(d.arrivalsOf k).contains a && d.arrFull k then { d with sctl := setFld d.sctl 61 61 1 }
       else d.arrive k a)

/-- Word w of vintage v of slot k, and its STATE (09 R306). -/
def Dev.vword (d : Dev) (k v w : Nat) : Word := Tab.get d.vintTab 0 (vintIdx k v w)
def Dev.vstate (d : Dev) (k v : Nat) : Nat := fld (d.vword k v 1) 1 0

/-- A word of a vintage replaced. -/
def Dev.setVword (d : Dev) (k v w : Nat) (x : Word) : Dev := { d with vintTab := Tab.set d.vintTab (vintIdx k v w) x }

/-- The tag map's entry of a tag: its vintage where it is bound (09 R306). -/
def Dev.boundTo (d : Dev) (k tag : Nat) : Option Nat :=
  let e := fld (Tab.get d.tagMap 0 (4096 * k + tag / 16)) (4 * (tag % 16) + 3) (4 * (tag % 16))
  if 8 ≤ e then some (e % 8) else none

/-- The tag map's entry written. -/
def Dev.setBound (d : Dev) (k tag : Nat) (e : Nat) : Dev :=
  let i := 4096 * k + tag / 16
  { d with tagMap := Tab.set d.tagMap i (setFld (Tab.get d.tagMap 0 i) (4 * (tag % 16) + 3) (4 * (tag % 16)) e) }

/-- The vintage that the next binding of a slot uses: the OPEN one, else the READY one that became READY first (09
R307). -/
def Dev.bindTarget (d : Dev) (k : Nat) : Option Nat :=
  match (List.range 8).find? fun v => d.vstate k v == 2 with
  | some v => some v
  | none =>
    let ready := (List.range 8).filter fun v => d.vstate k v == 1
    ((d.readyOrder.findSome? fun i => ready.find? fun v => vintIdx k v 1 == i).orElse fun _ => ready.head?)

/-- A tag of a stage can be bound (09 R307). -/
def Dev.canBind (d : Dev) (a : Arrival) : Bool :=
  match d.stageSlot a.stage with
  | some k => (d.boundTo k a.tag).isNone && (d.bindTarget k).isSome
  | none => false

/-- A tag bound to a vintage of its slot; a decision follows where the vintage changes state (09 R300, R307). -/
def Dev.bindTag (d : Dev) (k v tag : Nat) : Dev :=
  let w := d.vword k v 1
  let w := if fld w 1 0 = 1 then setFld (setFld w 1 0 2) 23 8 0 else w
  let bound := (fld w 23 8 + 1) % 65536
  let span := fld (Tab.get d.vintTab 0 (40 * k)) 55 48
  let w := setFld (setFld w 23 8 bound) 47 32 ((fld w 47 32 + 1) % 65536)
  let w := if span ≠ 0 ∧ bound = span then setFld w 1 0 3 else w
  ({ d.setVword k v 1 w with
      readyOrder := d.readyOrder.filter fun i => i != vintIdx k v 1,
      dogDue := d.dogDue || fld w 1 0 != d.vstate k v }).setBound k tag (8 + v)

/-- A binding undone (09 R303): old is word 1 of the vintage before it. A vintage that so changes state is an occasion for a decision
(09 R300). -/
def Dev.unbindTag (d : Dev) (k v tag : Nat) (old : Word) : Dev :=
  let w := setFld (setFld (setFld (d.vword k v 1) 47 32 (fld (d.vword k v 1) 47 32 - 1)) 23 8 (fld old 23 8)) 1 0 (fld old 1 0)
  let due := d.dogDue || fld old 1 0 != d.vstate k v
  let d := { (d.setVword k v 1 w).setBound k tag 0 with dogDue := due }
  if fld old 1 0 = 1 then { d with readyOrder := vintIdx k v 1 :: d.readyOrder } else d

/-- The in-flight count of a slot changed. -/
def Dev.addInfl (d : Dev) (k : Nat) (up : Bool) : Dev :=
  { d with infl := Tab.set d.infl k (if up then Tab.get d.infl 0 k + 1 else Tab.get d.infl 0 k - 1) }

/-- A tag completes in a stage (09 R308). -/
def State.completeTag (s : State) (tag stage : Nat) : State :=
  match s.dev.stageSlot stage with
  | none => s
  | some k =>
    match s.dev.boundTo k tag with
    | none => s
    | some v =>
      let w := setFld (s.dev.vword k v 1) 47 32 (fld (s.dev.vword k v 1) 47 32 - 1)
      let free := fld w 1 0 = 3 ∧ fld w 47 32 = 0
      let s := s.modDev fun d => ((d.setBound k tag 0).setVword k v 1 (if free then setFld w 1 0 0 else w))
      if free then
        let r := s.dev.vword k v 2
        let s := s.modDev fun d =>
          { d.setVword k v 2 (setFld r 31 0 ((fld r 31 0 + fld r 47 32) % 2 ^ 32)) with dogDue := true }
        let x := s.dev.vword k v 3
        if bit x 63 then s.raise (fld x 62 62) (fld x 9 0) 1 else s
      else s

/-- The queue an ONDONE value names (09 R298). -/
def onDoneQueue (n : Nat) : Nat := if n = 3 then 0 else n

/-- A Sheepdog pass retires (09 R304). -/
def State.passRetires (s : State) (p : DogPass) (tag stage : Nat) : State :=
  let s := if p.kind = 1 then s.modDev fun d => (match d.stageSlot stage with
      | some k => d.addInfl k false
      | none => d) else s
  let s := if p.ondone ≠ 0 then s.modDev fun d => d.arrive (onDoneQueue p.ondone) ⟨tag, p.poststage⟩ else s
  let s := if (p.kind = 1 ∧ p.ondone ≠ 2) ∨ p.kind = 2 then s.completeTag tag stage else s
  s.modDev fun d => { d with dogDue := true }

/-- A Sheepdog record refused (09 R303): the entry returns to its place, its binding is undone, the Sheepdog stops. The
word of the event is laid out as POST. The entry returns though its queue may have filled meanwhile, or hold an equal one: R297's
512 places and its merging are of arrivals (DESIGN CHOICE, log entry 100). -/
def State.passRefused (s : State) (q : LRec) (p : DogPass) : State :=
  let a : Arrival := ⟨q.tag, q.stage⟩
  let s := s.modDev fun d =>
    { d with
      arrivals := Tab.set d.arrivals p.kind (((d.arrivalsOf p.kind).take p.place) ++ a :: (d.arrivalsOf p.kind).drop p.place),
      sctl := setFld (setFld d.sctl 63 63 0) 62 62 1 }
  let s := match p.bound with
    | some (k, v, old) => s.modDev fun d => (d.unbindTag k v q.tag old).addInfl k false
    | none => s
  s.post 2 0 0 (BitVec.ofNat 64 (p.kind * 2 ^ 62 + q.stage * 2 ^ 32 + q.tag)) 0 0

/-- A word of a policy row (09 R298). -/
def Dev.polWord (d : Dev) (row w : Nat) : Word := Tab.get d.polTab 0 (4 * row + w)

/-- The row covers a stage (09 R298). -/
def Dev.rowStage (d : Dev) (row stage : Nat) : Bool := bit (d.polWord row 0) 62 || fld (d.polWord row 0) 15 0 == stage

/-- A test of a row: below or not below its limit (09 R298, R300). -/
def rowTest (op v lim : Nat) : Bool :=
  match op with
  | 0 => true
  | 1 => decide (v < lim)
  | 2 => decide (lim ≤ v)
  | _ => false

/-- The stage slots of a row: every valid one, or the one that serves its stage (09 R298). -/
def Dev.rowSlots (d : Dev) (row : Nat) : List Nat :=
  if bit (d.polWord row 0) 62 then (List.range 4).filter fun k => bit (Tab.get d.vintTab 0 (40 * k)) 63
  else (d.stageSlot (fld (d.polWord row 0) 15 0)).toList

/-- The in-flight count of a row (09 R298). -/
def Dev.rowInfl (d : Dev) (row : Nat) : Nat :=
  (if bit (d.polWord row 0) 62 then List.range 4 else d.rowSlots row).foldl (fun n k => n + Tab.get d.infl 0 k) 0

/-- The conditions of a row hold (09 R300). -/
def State.rowHolds (s : State) (row : Nat) : Bool :=
  let d := s.dev
  let w := d.polWord row 0
  let has (k : Nat) : Bool := (d.arrivalsOf k).any fun a => d.rowStage row a.stage
  let free := (d.rowSlots row).foldl (fun n k => n + ((List.range 8).filter fun v => d.vstate k v == 0).length) 0
  bit w 63 && (bit w 62 || !(d.rowSlots row).isEmpty) &&
    (List.range 4).all (fun k => (!bit w (58 + k) || has k) && (!bit w (54 + k) || !has k)) &&
    rowTest (fld w 53 52) (d.rowInfl row) (fld w 51 44) &&
    rowTest (fld w 43 42) (s.sstash.toNat / 2 ^ 30) (fld w 41 26) &&
    (match fld w 25 24 with
      | 0 => true
      | 1 => decide (1 ≤ free)
      | 2 => free == 0
      | _ => false)

/-- The entry a row draws, with its place in its queue (09 R300). -/
def Dev.rowPick (d : Dev) (row : Nat) : Option (Nat × Arrival) :=
  let k := fld (d.polWord row 1) 63 62
  let l := ((List.range (d.arrivalsOf k).length).zip (d.arrivalsOf k)).filter fun e =>
    d.rowStage row e.2.stage && (k != 0 || d.canBind e.2)
  if bit (d.polWord row 1) 61 then l.getLast? else l.head?

/-- A Sheepdog launch waits unplaced in a class queue (09 R300). A pass that was placed, and waits there because it was pre-empted,
is not counted (log entry 72). -/
def State.dogWaiting (s : State) : Bool :=
  (List.range 8).any fun c => (s.classQueue c).any fun q => q.dog.isSome && q.saved.isNone

/-- The record that a row makes of an entry (09 R301). -/
def State.dogRecord (s : State) (row : Nat) (a : Arrival) (vint : Nat) (p : DogPass) : LRec :=
  let d := s.dev
  let w1 := d.polWord row 1
  let w2 := d.polWord row 2
  let w3 := d.polWord row 3
  let ww : Word := BitVec.ofNat 64 (fld w2 35 0)
  let wid := p.kind % 2 ^ widthOf ww 3 * 2 ^ posOf ww 3 + a.tag % 2 ^ widthOf ww 5 * 2 ^ posOf ww 5
  let w0 := fld w2 63 62 * 2 ^ 62 + fld w2 61 59 * 2 ^ 58 + fld w2 58 56 * 2 ^ 55 + fld w2 55 52 * 2 ^ 51 +
    vint * 2 ^ 48 + fld w2 41 41 * 2 ^ 47 + fld w2 43 42 * 2 ^ 44 + fld w2 47 44 * 2 ^ 40 + fld w2 51 48 * 2 ^ 36 +
    fld w1 57 52 * 2 ^ 30
  { words := [BitVec.ofNat 64 w0, ww, BitVec.ofNat 64 wid, BitVec.ofNat 64 (a.stage * 65536 + a.tag),
      BitVec.ofNat 64 (fld w3 47 0), 0, 0, BitVec.ofNat 64 (fld w3 63 62 * 2 ^ 62 + fld w3 57 48)] ++
      (s.taskWords (fld w1 57 52)).drop 8,
    queue := none, count := 0, gangIdx := 0, dog := some p, saved := none }

/-- The prefetch hint after a launch (09 R302): tags of the BWD queue in the order of the first valid row that draws from
it. -/
def Dev.hintTags (d : Dev) : List Nat :=
  let row := (List.range 32).find? fun r => bit (d.polWord r 0) 63 && fld (d.polWord r 1) 63 62 == 1
  let l := (d.arrivalsOf 1).map Arrival.tag
  let l := match row with
    | some r => if bit (d.polWord r 1) 61 then l.reverse else l
    | none => l
  l.take (fld d.sctl 3 0)

/-- A pass launched from a row and an entry at a place of its queue (09 R301 to R303). -/
def State.dogLaunch (s : State) (row place : Nat) (a : Arrival) : State :=
  let w1 := s.dev.polWord row 1
  let k := fld w1 63 62
  let s := s.modDev fun d => { d with arrivals := Tab.set d.arrivals k ((d.arrivalsOf k).eraseIdx place) }
  let p : DogPass := { kind := k, ondone := fld w1 60 59, poststage := fld w1 47 32, place := place, bound := none }
  let slot := s.dev.stageSlot a.stage
  let target := if k = 0 then slot.bind fun i => (s.dev.bindTarget i).map fun v => (i, v) else none
  let r : State × DogPass × Nat := match target with
    | some (i, v) =>
      (s.modDev fun d => (d.bindTag i v a.tag).addInfl i true, { p with bound := some (i, v, s.dev.vword i v 1) }, v)
    | none => (s, p, (slot.bind fun i => s.dev.boundTo i a.tag).getD 0)
  let q := r.1.dogRecord row a r.2.2 r.2.1
  if r.1.recordOk q then (let s := r.1.enterClass q.cls q; s.prefetch s.dev.hintTags) else r.1.passRefused q r.2.1

/-- SHEEPDOG_DECISION (09 R300, R305): the first row that holds and draws an entry launches it. -/
def execSheepdogDecision (s : State) : Host.Outcome State Fault Refusal :=
  .next
    (let s := (s.modDev fun d => { d with dogDue := false }).vintagesReady
     if bit s.funcMode 0 then s.post 3 0 0 s.socc s.sinfl 0
     else if !bit s.dev.sctl 63 then s
     else if s.dogWaiting then s
     else match (List.range 32).findSome? fun r => if s.rowHolds r then (s.dev.rowPick r).map fun e => (r, e) else none with
       | some (r, e) => s.dogLaunch r e.1 e.2
       | none => s)

/-- DECIDE: the host's pick; one that cannot be launched is ignored and sets ERR (09 R305). -/
def execDogDecide (w : Word) (s : State) : Host.Outcome State Fault Refusal :=
  .next
    (let row := fld w 4 0
     let a : Arrival := ⟨fld w 31 16, fld w 47 32⟩
     let k := fld (s.dev.polWord row 1) 63 62
     let bad := s.modDev fun d => { d with sctl := setFld d.sctl 62 62 1 }
     if s.dogWaiting || (k == 0 && !s.dev.canBind a) then bad
     else match (s.dev.arrivalsOf k).findIdx? fun e => e == a with
       | some i => s.dogLaunch row i a
       | none => bad)

end Sys2Proof.Machine
end

