-- ==== Sys2Proof/Machine/Launch.lean ====
section
/-! DEFINITION. The gang dispatcher: where a group and a gang fit (09 R284 to R288), placement and start (09 R289, R290),
resumption (10 R330), pre-emption (09 R291 to R293; 10 R329), retirement (09 R310), the host's abort (10 R337), and energy
budgets (09 R296; 13 R421). -/

namespace Sys2Proof.Machine

/-- The lowest base at which n consecutive entries of a pool of some size are free of the ranges taken (09 R287). -/
def firstFit (size : Nat) (taken : List (Nat × Nat)) (n : Nat) : Option Nat :=
  if n ≤ size then
    (List.range (size - n + 1)).find? fun b => n == 0 || taken.all fun r => decide (b + n ≤ r.1) || decide (r.1 + r.2 ≤ b)
  else none

/-- What a core has left: the places and ranges taken. -/
structure Pools where
  places : List Nat
  sc : List (Nat × Nat)
  vc : List (Nat × Nat)
  ac : List (Nat × Nat)
  bk : List (Nat × Nat)
  held : Bool
deriving DecidableEq, Repr

/-- The pools of a core as they stand, some gangs taken away. -/
def Core.pools (k : Core) (excl : List Nat) : Pools :=
  let cs := k.ctxs.filter fun q => !excl.contains q.2.gang
  { places := cs.map Prod.fst, sc := cs.map fun q => (q.2.sBase, q.2.sCount), vc := cs.map fun q => (q.2.vBase, q.2.vCount),
    ac := cs.map fun q => (q.2.aBase, q.2.aCount), bk := cs.flatMap fun q => q.2.banks.map fun b => (b, 1),
    held := (match k.mat.holder with
      | some p => cs.any fun q => q.1 == p
      | none => false) }

/-- What a context of a group is allotted: its place, its bases and its private banks. -/
structure Allot where
  place : Nat
  sBase : Nat
  vBase : Nat
  aBase : Nat
  pBase : Nat
deriving DecidableEq, Repr

/-- The allotments of n more contexts of a group, with what is then left (09 R287). -/
def allotCtxs (tt : List Word) : Nat → Nat → Pools → Option (List Allot × Pools)
  | 0, _, p => some ([], p)
  | n + 1, i, p =>
    let rows := if i = 0 ∧ ttMatrix tt then ttAcc tt else 0
    match (List.range 4).find? (fun k => !p.places.contains k), firstFit 256 p.sc (ttScl tt), firstFit 64 p.vc (ttVec tt),
      firstFit 256 p.ac rows, firstFit 16 p.bk (ttPriv tt) with
    | some k, some a, some b, some c, some d =>
      (allotCtxs tt n (i + 1)
        { p with places := k :: p.places, sc := (a, ttScl tt) :: p.sc, vc := (b, ttVec tt) :: p.vc, ac := (c, rows) :: p.ac,
                 bk := (d, ttPriv tt) :: p.bk }).map fun r => (⟨k, a, b, c, d⟩ :: r.1, r.2)
    | _, _, _, _, _ => none

/-- The allotments of a group on a core, and the base of its shared banks; none where it does not fit (09 R287). -/
def Core.allot (k : Core) (excl : List Nat) (tt : List Word) (c : Nat) : Option (List Allot × Nat) :=
  let p := k.pools excl
  if ttMatrix tt && p.held then none
  else match allotCtxs tt c 0 p with
    | none => none
    | some r => (firstFit 16 r.2.bk (ttShared tt)).map fun b => (r.1, b)

/-- What a head asks for: the die, the size, contexts per core, its task type, its coolant demand class. -/
structure Want where
  die : Nat
  w : Nat
  h : Nat
  cpc : Nat
  tt : List Word
  cool : Nat
deriving DecidableEq, Repr

/-- The coolant demand class of a record (13 R398). -/
def LRec.coolOf (q : LRec) (tt : List Word) : Nat := if bit (q.word 0) 47 then fld (tt.getD 1 0) 26 24 else fld (q.word 0) 57 55

/-- What a record asks for: a pre-empted gang keeps its task type and class. -/
def State.wantOf (s : State) (q : LRec) : Want :=
  let tt := match q.saved.bind fun g => Tab.find? s.dev.gangs g with
    | some g => g.tt
    | none => s.taskWords q.ttype
  let cool := match q.saved.bind fun g => Tab.find? s.dev.gangs g with
    | some g => g.cool
    | none => q.coolOf tt
  { die := fld (q.word 0) 63 62, w := q.width, h := q.height, cpc := q.cpc, tt := tt, cool := cool }

/-- The gangs that hold cores, some taken away. -/
def State.placedBut (s : State) (excl : List Nat) : List Gang :=
  (s.placed.filter fun g => !excl.contains g.1).map Prod.snd

/-- The sync lines of a die in use. -/
def linesUsed (gs : List Gang) (d : Nat) : List Nat := (gs.filter fun g => g.die == d).map Gang.line

/-- The lowest free sync line of a die (09 R288). -/
def freeLine (gs : List Gang) (d : Nat) : Option Nat := (List.range 16).find? fun l => !(linesUsed gs d).contains l

/-- Twice over, the cores of a cluster that lie in a rectangle. -/
def coresIn (k : Nat) (cs : List Nat) : Nat := (cs.filter fun c => clusterOf c == k).length

/-- The predicted current of a cluster under some gangs given by cores and class (13 R398). -/
def State.clusterCurrent (s : State) (gs : List (List Nat × Nat)) (k : Nat) : Nat :=
  let idle := fld (Tab.get s.dev.irrTab 0 82) 15 0
  gs.foldl (fun n g => n + coresIn k g.1 * s.classCur g.2) 0 +
    ((clusterCores k).filter fun c => !(gs.any fun g => g.1.contains c)).length * idle

/-- The imbalance of a pair of currents as a fraction of the larger; 0 over 1 where both are 0. -/
def imbalance (u l : Nat) : Nat × Nat := if max u l = 0 then (0, 1) else (max u l - min u l, max u l)

/-- The larger of two fractions. -/
def fracMax (a b : Nat × Nat) : Nat × Nat := if a.1 * b.2 < b.1 * a.2 then b else a

/-- The first key of a rectangle: 0 for a balanced one, else the largest ratio of a yoke it touches (09 R288). -/
def State.balanceKey (s : State) (gs : List Gang) (cs : List Nat) (cool : Nat) : Nat × Nat :=
  let all := (cs, cool) :: gs.map fun g => (g.cores, g.cool)
  let worst := ((cs.map yokeOf).eraseDups).foldl (fun m y =>
    fracMax m (imbalance (s.clusterCurrent all (2 * y)) (s.clusterCurrent all (2 * y + 1)))) (0, 1)
  if worst.1 * 10 ≤ worst.2 then (0, 1) else worst

/-- The greatest junction temperature of some cores' clusters (09 R288). -/
def State.hottest (s : State) (cs : List Nat) : Nat := cs.foldl (fun m c => max m (Tab.get s.dev.junction 0 (clusterOf c))) 0

/-- DEMAND of a zone under some gangs, with a class's cores added (13 R409, R410). -/
def State.demandWith (s : State) (gs : List Gang) (cs : List Nat) (cool z : Nat) : Nat :=
  gs.foldl (fun n g => n + (g.cores.filter fun c => zoneOf c == z).length * s.classFlow g.cool) 0 +
    (cs.filter fun c => zoneOf c == z).length * s.classFlow cool

/-- need(z) (13 R410). -/
def State.needWith (s : State) (gs : List Gang) (cs : List Nat) (cool z : Nat) : Nat :=
  max (fld (Tab.get s.dev.irrTab 0 (2 * z)) 63 48) (s.demandWith gs cs cool z)

/-- FUNCMODE.IRRIG (13 R410). -/
def State.irrig (s : State) : Bool := bit s.funcMode 3

/-- The coolant condition of a rectangle (13 R410). -/
def State.coolantOk (s : State) (gs : List Gang) (cs : List Nat) (cool : Nat) : Bool :=
  if s.irrig then
    ((cs.map zoneOf).eraseDups).all fun z => decide (s.needWith gs cs cool z ≤ fld (Tab.get s.dev.irrTab 0 (2 * z)) 47 32)
  else
    decide ((List.range 20).foldl (fun n z => n + s.needWith gs cs cool z) 0 ≤ fld (Tab.get s.dev.irrTab 0 80) 15 0)

/-- A zone is marked dry or offline, or its die is (13 R408, R414). -/
def State.zoneOut (s : State) (z : Nat) : Bool :=
  bit (Tab.get s.dev.valveTab 0 (4 * z + 3)) 63 || bit (Tab.get s.dev.valveTab 0 (4 * z + 3)) 62 ||
    s.dev.dieOff.contains (z / 10)

/-- A rectangle with its keys (09 R288). -/
structure Rect where
  die : Nat
  row : Nat
  col : Nat
  ratio : Nat × Nat
  hot : Nat
deriving DecidableEq, Repr

/-- The cores of a rectangle of a size. -/
def rectCores (d r c w h : Nat) : List Nat := (List.range h).flatMap fun i => (List.range w).map fun j => coreAt d (r + i) (c + j)

/-- Whether a rectangle may be chosen, its coolant apart (09 R288). -/
def State.rectFits (s : State) (excl : List Nat) (q : Want) (cs : List Nat) : Bool :=
  cs.all fun c => !s.zoneOut (zoneOf c) && ((s.core c).allot excl q.tt q.cpc).isSome

/-- The rectangles a head may be placed on; cool says whether the coolant condition is asked for (09 R288). -/
def State.rects (s : State) (excl : List Nat) (q : Want) (cool : Bool) : List Rect :=
  let gs := s.placedBut excl
  [0, 1].flatMap fun d =>
    if (q.die = d ∨ q.die = 2) ∧ (freeLine gs d).isSome then
      (List.range (13 - q.h)).flatMap fun r => (List.range (13 - q.w)).filterMap fun c =>
        let cs := rectCores d r c q.w q.h
        if s.rectFits excl q cs && (!cool || s.coolantOk gs cs q.cool) then
          some { die := d, row := r, col := c, ratio := s.balanceKey gs cs q.cool, hot := s.hottest cs }
        else none
    else []

/-- A rectangle comes before another by its first two keys; the other two are the order of the list (09 R288). -/
def Rect.before (a b : Rect) : Bool :=
  decide (a.ratio.1 * b.ratio.2 < b.ratio.1 * a.ratio.2) ||
    (a.ratio.1 * b.ratio.2 == b.ratio.1 * a.ratio.2 && decide (a.hot < b.hot))

/-- The best of some rectangles. -/
def bestRect : List Rect → Option Rect
  | [] => none
  | r :: rs => some (rs.foldl (fun m q => if q.before m then q else m) r)

/-- The rectangle a head is placed on (09 R288). -/
def State.chooseRect (s : State) (excl : List Nat) (q : Want) : Option Rect := bestRect (s.rects excl q true)

/-- The work identifier of a context: fields 0 to 2 over its launch's base, zero above the last field (01 R41; 09 R289). -/
def widFor (widb widw : Word) (ctx core gang : Nat) : Word :=
  let w (k : Nat) : Nat := widthOf widw k
  let lo := w 0 + w 1 + w 2
  let keep := widb.toNat % 2 ^ posOf widw 6 / 2 ^ lo * 2 ^ lo
  BitVec.ofNat 64 (keep + ctx % 2 ^ w 0 + core % 2 ^ w 1 * 2 ^ w 0 + gang % 2 ^ w 2 * 2 ^ (w 0 + w 1))

/-- A bank of a core emptied of what it held, its tiles core-owned (08 R254). -/
def Core.clearBank (k : Core) (b : Nat) : Core :=
  let out (a : Nat) : Bool := a / 0x40000 != b
  { k with
    sp := k.sp.filter fun c => out c.1, undef := k.undef.filter fun u => out u.lo, bankFmt := Tab.del k.bankFmt b,
    arrived := k.arrived.filter fun q => q.1 / 32 != b,
    tiles := k.tiles.filter fun q => q.1 / 32 != b }.setOwner ((List.range 32).map fun t => 32 * b + t) false

/-- A bank as a task finds it: its format, every byte undefined (08 R253; 09 R289). -/
def Core.freshBank (k : Core) (b fmt seed : Nat) : Core :=
  let k := k.clearBank b
  { k with
    bankFmt := Tab.set k.bankFmt b (BitVec.ofNat 64 fmt), undef := ⟨b * 0x40000, 0x40000, seed, b * 0x40000⟩ :: k.undef }

/-- The banks of a context of a group in view order: private, then shared (08 R249). -/
def Allot.banks (a : Allot) (tt : List Word) (shared : Nat) : List Nat :=
  ((List.range (ttPriv tt)).map fun i => a.pBase + i) ++ (List.range (ttShared tt)).map fun i => shared + i

/-- A bank register of an allotment cleared: registers as a task finds them (01 R23; 06 R190). -/
def Core.freshRegs (k : Core) (x : Ctx) : Core :=
  let out (lo n i : Nat) : Bool := decide (i < lo) || decide (lo + n ≤ i)
  { k with
    spool := k.spool.filter fun q => out x.sBase x.sCount q.1, vpool := k.vpool.filter fun q => out x.vBase x.vCount q.1,
    mat := { k.mat with rows := k.mat.rows.filter fun q => out x.aBase x.aCount q.1 } }

/-- The matrix unit of a new holder, its rows as they stand (06 R190). -/
def MatUnit.begin (m : MatUnit) (p : Nat) : MatUnit := { MatUnit.reset with holder := some p, rows := m.rows }

/-- The start cycle of a context of a core (09 R290; 13 R405). -/
def State.startCycle (s : State) (phase c : Nat) : Nat :=
  let k := clusterOf c % 18
  s.cycle + 4 * fld (Tab.get s.dev.rampTab 0 (32 + 3 * phase + k / 8)) (8 * (k % 8) + 7) (8 * (k % 8))

/-- A context as placed (01 R23; 09 R289; 10 R332). -/
def State.newCtx (s : State) (g : Nat) (q : LRec) (tt : List Word) (c ci f0 shared : Nat) (a : Allot) : Ctx :=
  let k := s.core c
  let hold := ttMatrix tt && f0 == 0
  { Ctx.blank with
    arch := { Arch.start ((tt.getD 0 0).extractLsb' 4 52) (bit (tt.getD 0 0) 62)
        (widFor (q.word 2) (q.word 1) f0 ci q.gangIdx) with
      widw := q.word 1, mbt := BitVec.ofNat 64 q.tag, stage := BitVec.ofNat 64 q.stage,
      vint := BitVec.ofNat 64 (fld (q.word 0) 50 48), quantum := BitVec.ofNat 64 (fld (tt.getD 2 0) 63 32) },
    gang := g, field0 := f0, coreIdx := ci, ttype := q.ttype, sBase := a.sBase, sCount := ttScl tt, vBase := a.vBase,
    vCount := ttVec tt, aBase := a.aBase, aCount := if hold then ttAcc tt else 0,
    rings := BitVec.ofNat 32 (fld (tt.getD 2 0) 31 0), banks := a.banks tt shared, holder := hold,
    run := .starting (s.startCycle (fld (q.word 0) 54 51) c), startAt := s.startCycle (fld (q.word 0) 54 51) c, ctl := k.startctl &&& 0x1F#64, bpaddr := k.startbp,
    qtrap := bit (tt.getD 0 0) 60 }

/-- The argument block of a record (09 R280). -/
def LRec.args (q : LRec) : List Byte := (q.words.drop 8).flatMap fun w => bytesLE 8 w.toNat

/-- One context of a new group placed, its banks being ready (09 R289). -/
def State.placeCtx (s : State) (g : Nat) (q : LRec) (tt : List Word) (c ci shared : Nat) (f : Nat × Allot) : State :=
  let x := s.newCtx g q tt c ci f.1 shared f.2
  let s := s.modCore c fun k =>
    let k := k.freshRegs x
    let k : Core := { k with ctxs := Tab.set k.ctxs f.2.place x, mat := if x.holder then k.mat.begin f.2.place else k.mat }
    match x.banks.head? with
    | some b => k.spPutAll (((List.range 64).map fun i => b * 0x40000 + i).zip q.args)
    | none => k
  s.recordMark c f.2.place

/-- A new group placed on a core (08 R253; 09 R289). A shared bank takes the record of the group's first context. -/
def State.placeGroup (s : State) (g : Nat) (q : LRec) (tt : List Word) (c ci : Nat) : State :=
  match (s.core c).allot [] tt q.cpc with
  | none => s
  | some (as, shared) =>
    let views := as.map fun a => a.banks tt shared
    let banks := (views.flatMap id).eraseDups
    let fmt (b : Nat) : Nat := (views.findSome? fun v => (v.findIdx? fun i => i == b).map fun i => ttBank tt i).getD 0
    let s := banks.foldl (fun s b => (s.modCore c fun k => k.freshBank b (fmt b % 8192) (freeKey s.free 4)).takeFree 1) s
    ((List.range as.length).zip as).foldl (fun s f => s.placeCtx g q tt c ci shared f) s

/-- Where a bank saved has gone: a physical offset, tile or bank moved with it (10 R330). -/
def moveBank (m : List (Nat × Nat)) (b : Nat) : Nat := ((m.find? fun q => q.1 == b).map Prod.snd).getD b
def moveTile (m : List (Nat × Nat)) (t : Nat) : Nat := 32 * moveBank m (t / 32) + t % 32
def moveOff (m : List (Nat × Nat)) (a : Nat) : Nat := 0x40000 * moveBank m (a / 0x40000) + a % 0x40000

/-- A gated store moved with its banks. -/
def GateEnt.move (m : List (Nat × Nat)) : GateEnt → GateEnt
  | .sp bs j => .sp (bs.map fun b => { b with off := moveOff m b.off }) j
  | e => e

/-- A matrix effect moved to another base of rows. -/
def MatFlight.moveRow (f : MatFlight) (old new : Nat) : MatFlight :=
  match f.op with
  | .row r v => { f with op := .row (r - old + new) v }
  | _ => f

/-- Matrix state moved to another base of rows. -/
def MatShadow.moveRows (h : MatShadow) (old new : Nat) : MatShadow :=
  { h with rows := h.rows.map fun q => (q.1 - old + new, q.2), pend := h.pend.map fun f => f.moveRow old new }

/-- A context is parked, for the host or for a page (10 R326, R337). -/
def Run.parkedNow : Run → Bool
  | .parked => true
  | .migrating _ => true
  | _ => false

/-- How a context goes on after it was saved: one that ran or was blocked starts anew, one that is parked stays so until its park
ends (10 R330). -/
def Run.resumed (r : Run) (start : Nat) : Run := if r.parkedNow || r == .retired then r else .starting start

/-- What a context keeps of the walks it waited for as it resumes: that a page will not come (08 R263; 11 R370). -/
def Ctx.keptWalks (x : Ctx) : List (Nat × XRes) :=
  x.walks.filter fun w => match w.2 with
    | .fault _ => true
    | .ok _ => false

/-- A saved context as it resumes at an allotment (10 R330, R336). -/
def SavedCtx.resume (v : SavedCtx) (a : Allot) (banks : List Nat) (start : Nat) : Ctx :=
  let x := v.ctx
  let m := x.banks.zip banks
  let x : Ctx :=
    { x with
      sBase := a.sBase, vBase := a.vBase, aBase := a.aBase, banks := banks, gate := x.gate.map fun e => e.move m,
      views := x.views.map fun r => { r with off := moveOff m r.off },
      mark := x.mark.map fun k => { k with mat := k.mat.map fun h => h.moveRows x.aBase a.aBase },
      run := x.run.resumed start, startAt := start, quantumSteps := 0, inUnit := false, stalls := 0, walks := x.keptWalks,
      loaded := [], fillBad := [], syncIn := x.syncIn && x.actIn }
  if bit x.ctl 2 && x.run != .retired then x.pend .preempt x.saveCycle else x

/-- A saved bank put back (10 R329, R330; 08 R258). -/
def Core.putBank (k : Core) (h : SavedBank) (b : Nat) : Core :=
  let k := k.clearBank b
  let k : Core :=
    { k with
      bankFmt := Tab.set k.bankFmt b h.fmt,
      sp := h.cells.foldl (fun m c => Mem.write m (b * 0x40000 + c.1) c.2) k.sp,
      undef := (h.undef.map fun u => { u with lo := b * 0x40000 + u.lo }) ++ k.undef,
      tiles := h.tiles.foldl (fun t q => Tab.set t (32 * b + q.1) q.2) k.tiles }
  k.setOwner (((List.range 32).filter fun t => h.owner.getLsbD t).map fun t => 32 * b + t) true

/-- A ring put back, its tiles translated (10 R330). -/
def Ring.moved (r : Ring) (m : List (Nat × Nat)) : Ring := { r with first := moveTile m r.first, tiles := r.tiles.map (moveTile m) }

/-- A saved command as it re-enters its queue (07 R214). -/
def Cmd.moved (c : Cmd) (m : List (Nat × Nat)) (id place : Nat) : Cmd :=
  { c with
    id := id, place := place, banks := c.banks.map (moveBank m), range := if c.eng = 4 then c.range.map (moveTile m) else c.range,
    page := none, waitTiles := [], st := .queued }

/-- A saved context put back on a core. -/
def State.resumeCtx (s : State) (c : Nat) (v : SavedCtx) (a : Allot) (banks : List Nat) (start : Nat) : State :=
  let x := v.resume a banks start
  let old := v.ctx.aBase
  let s := s.modCore c fun k =>
    let k : Core :=
      { k with
        spool := Tab.setFrom k.spool x.sBase v.sregs, vpool := Tab.setFrom k.vpool x.vBase v.vregs,
        ctxs := Tab.set k.ctxs a.place x }
    match v.mat with
    | some h => { k with mat := { k.mat with holder := some a.place }.restore x (h.moveRows old x.aBase) }
    | none => k
  if v.ctx.run.parkedNow then s else s.tellPresence c a.place

/-- A saved group resumed on a core (10 R330; 07 R214): its commands come before any that its contexts issue next. They re-enter a
queue even where it then holds more than the 32 of R210 (DESIGN CHOICE, log entry 98). -/
def State.resumeGroup (s : State) (g : Gang) (h : SavedGroup) (c : Nat) : State :=
  match (s.core c).allot [] g.tt g.launch.cpc with
  | none => s
  | some (as, shared) =>
    let start := s.startCycle (fld (g.launch.word 0) 54 51) c
    let allotOf (v : SavedCtx) : Allot := as.getD v.ctx.field0 ⟨0, 0, 0, 0, 0⟩
    let m := (h.ctxs.flatMap fun v => v.ctx.banks.zip ((allotOf v).banks g.tt shared)).eraseDups
    let s := s.modCore c fun k => h.banks.foldl (fun k b => k.putBank b (moveBank m b.phys)) k
    let s := h.ctxs.foldl (fun s v => s.resumeCtx c v (allotOf v) ((allotOf v).banks g.tt shared) start) s
    s.modCore c fun k =>
      let k : Core := { k with rings := h.rings.foldl (fun t q => Tab.set t q.1 (q.2.moved m)) k.rings }
      h.cmds.foldl (fun k q =>
        { k with cmds := k.cmds ++ [q.moved m k.nextCmd (as.getD q.field0 ⟨0, 0, 0, 0, 0⟩).place], nextCmd := k.nextCmd + 1 }) k

/-- GRANT of some zones written as what they need (13 R410). -/
def State.regrant (s : State) (zs : List Nat) : State :=
  if s.irrig then s
  else
    let gs := s.placedBut []
    (zs.eraseDups).foldl (fun s z =>
      let need := s.needWith gs [] 0 z
      s.modDev fun d => { d with irrTab := Tab.set d.irrTab (2 * z) (setFld (Tab.get d.irrTab 0 (2 * z)) 47 32 need) }) s

/-- The energy accumulator of a sync line written (13 R420, R421). -/
def Dev.setEnergy (d : Dev) (die line : Nat) (v : Word) (sat : Bool) : Dev :=
  let i := 2 * (16 * die + line)
  { d with energyTab := Tab.set (Tab.set d.energyTab i v) (i + 1) (BitVec.ofNat 64 (sat.toNat * 2 ^ 63)) }

/-- A gang's budget (09 R296). -/
def budgetOf (q : LRec) (tt : List Word) : Option Word :=
  if q.word 4 ≠ 0 then some (q.word 4) else if tt.getD 3 0 ≠ 0 then some (tt.getD 3 0) else none

/-- A new gang on a rectangle (09 R288 to R290, R296). -/
def newGang (s : State) (q : LRec) (w : Want) (r : Rect) (line : Nat) : Gang :=
  { launch := q, tt := w.tt, st := .placed, die := r.die, row := r.row, col := r.col, w := w.w, h := w.h, line := line,
    cls := q.cls, cool := w.cool, budget := budgetOf q w.tt, ebal := (budgetOf q w.tt).getD (BitVec.allOnes 64),
    placedAt := s.cycle, order := s.dev.nextGang, coresLeft := List.range (w.w * w.h), groups := [], slots := [],
    energy := 0, esat := false, lastMig := none, dest := none }

/-- A gang's record in the table of gangs. -/
def State.setGang (s : State) (g : Nat) (q : Gang) : State := s.modDev fun d => { d with gangs := Tab.set d.gangs g q }

/-- A new gang placed (09 R289, R290). -/
def State.placeNew (s : State) (q : LRec) (w : Want) (r : Rect) : State :=
  let line := (freeLine (s.placedBut []) r.die).getD 0
  let id := s.dev.nextGang
  let g := newGang s q w r line
  let cs := g.cores
  let s := ((List.range cs.length).zip cs).foldl (fun s e => s.placeGroup id q w.tt e.2 e.1) s
  let s := (s.setGang id g).modDev fun d =>
    { d.setEnergy r.die line 0 false with nextGang := d.nextGang + 1, dogDue := d.dogDue || q.dog.isSome }
  let s := s.regrant (cs.map zoneOf)
  match q.queue with
  | some k => s.modQueue k fun r => { r with waitPlace := if r.waitPlace = some q.count then none else r.waitPlace }
  | none => s

/-- A pre-empted gang resumed on a rectangle (09 R293; 10 R330; 13 R421). -/
def State.placeSaved (s : State) (id : Nat) (g : Gang) (r : Rect) : State :=
  let line := (freeLine (s.placedBut []) r.die).getD 0
  let g' : Gang :=
    { g with
      st := .placed, die := r.die, row := r.row, col := r.col, line := line, placedAt := s.cycle, order := s.dev.nextGang,
      groups := [], slots := [], dest := none }
  let s := g.groups.foldl (fun s h => s.resumeGroup g h (g'.cores.getD h.coreIdx 0)) s
  let s := (s.setGang id g').modDev fun d =>
    { d.setEnergy r.die line g.energy g.esat with
      nextGang := d.nextGang + 1, slotsUsed := d.slotsUsed.filter fun i => !g.slots.contains i }
  s.regrant (g'.cores.map zoneOf)

/-- A record placed on a rectangle. -/
def State.placeOn (s : State) (q : LRec) (w : Want) (r : Rect) : State :=
  match q.saved with
  | none => s.placeNew q w r
  | some id => (match Tab.find? s.dev.gangs id with
    | some g => s.placeSaved id g r
    | none => s)

/-- A record refused at placement (09 R285, R303): it counts as retired. -/
def State.refusePlaced (s : State) (q : LRec) : State :=
  match q.dog, q.queue with
  | some p, _ => s.passRefused q p
  | none, some k => ((s.queueError k).postQueue k q.count).recordRetired k q.count
  | none, none => s

/-- The zones and flows that a head needs and is not granted, told to the host, where it fails on coolant alone (13
R410). The zones are those of the rectangle that would be chosen. -/
def State.askGrants (s : State) (w : Want) : State :=
  if s.irrig then
    match bestRect (s.rects [] w false) with
    | none => s
    | some r =>
      let cs := rectCores r.die r.row r.col w.w w.h
      let gs := s.placedBut []
      ((cs.map zoneOf).eraseDups).foldl (fun s z =>
        let need := s.needWith gs cs w.cool z
        if fld (Tab.get s.dev.irrTab 0 (2 * z)) 47 32 < need then s.postPower 6 z need else s) s
  else s

/-- The head of a class queue tried: placed or refused, or left (09 R285, R286). -/
def State.tryHead (s : State) (c : Nat) : State × Bool :=
  match s.classQueue c with
  | [] => (s, false)
  | q :: rest =>
    let w := s.wantOf q
    if q.saved.isNone && !taskOk w.tt w.cpc then ((s.setClassQueue c rest).refusePlaced q, true)
    else match s.chooseRect [] w with
      | some r => ((s.setClassQueue c rest).placeOn q w r, true)
      | none => (s.askGrants w, false)

/-- A head that victims are being saved for fits once they have gone (09 R292). -/
def State.fitsLater (s : State) (e : Preempting) : Bool :=
  match s.classQueue e.cls with
  | q :: _ => (s.chooseRect e.victims (s.wantOf q)).isSome
  | [] => false

/-- A placement in class c, which leads from s to t, takes the place of no head of an earlier class that victims are being saved
for and that would fit without it (09 R292; log entry 73). -/
def State.keepsFit (s t : State) (c : Nat) : Bool :=
  s.dev.preempt.all fun e => decide (c ≤ e.cls) || !s.fitsLater e || t.fitsLater e

/-- The head of a class waits for victims that are being saved for it; a gang that has re-entered ahead of that head is the head
now, and does not (09 R286, R292, R293). -/
def State.headWaits (s : State) (c : Nat) : Bool :=
  s.dev.preempt.any fun e => e.cls == c && e.head == (s.classQueue c).head?

/-- The heads considered at a decision in ascending class order, up to the first that is placed (09 R286). A head that victims
are being saved for waits for them, and a head of a later class is not placed where that alone would keep it from fitting then, so
that it is placed as soon as every save has completed (09 R292; log entry 73). -/
def State.tryClasses (s : State) : List Nat → State × Bool
  | [] => (s, false)
  | c :: cs =>
    if s.headWaits c then State.tryClasses s cs
    else
      let r := s.tryHead c
      if r.2 && s.keepsFit r.1 c then r
      else State.tryClasses (if r.2 then s else r.1) cs

/-- PLACEMENT_DECISION: the first fitting head is placed, and the dispatcher decides again (09 R286); nothing is placed while the
cores are in reset (13 R424). -/
def execPlacementDecision (s : State) : Host.Outcome State Fault Refusal :=
  .next
    (if s.dev.coresHeld then s
     else
     let r := s.tryClasses (List.range 8)
     (r.1.regrant r.1.dev.relaxZones).modDev fun d => { d with placeDue := r.2, relaxZones := [] })

/-- The contexts of a core that start with one of their gang (13 R406). -/
def State.starters (s : State) (c g : Nat) : List Nat :=
  ((s.gangCtxs g c).filter fun q => match q.2.run with
    | .starting t => decide (t ≤ s.cycle)
    | _ => false).map Prod.fst

/-- What the fetch of a task that starts now will see of memory (04 R134). -/
def State.codeNow (s : State) : CodeView := { mem := s.dev.mem, undef := s.dev.memUndef, host := s.dev.hostMem }

/-- A context starts: its fetch sees memory as it is now, unless its task has started before (04 R134; 09 R290). -/
def State.startTask (s : State) (c p : Nat) : State :=
  s.modCtx c p fun y => { y with run := .ready, code := y.code.orElse fun _ => some s.codeNow }

/-- The contexts of a gang's group on a core that reach their start cycle start, and a claim is made for the core (09 R290; 13
R406). -/
def State.startCore (s : State) (g c : Nat) : State :=
  let ps := s.starters c g
  if ps.isEmpty then s
  else (ps.foldl (fun s p => s.startTask c p) s).makeClaim c (s.classCur (((Tab.find? s.dev.gangs g).map Gang.cool).getD 0)) ps

/-- CONTEXT_START: the contexts of a gang that reach their start cycle start, on every core of it at once, and the claims of the
cores are made in ascending core number (09 R290; 13 R406); none starts while the cores are in reset (13 R424). -/
def execContextStart (core place : Nat) (s : State) : Host.Outcome State Fault Refusal :=
  .next
    (match s.ctx? core place with
      | none => s
      | some x =>
        if (s.starters core x.gang).contains place && !s.dev.coresHeld then (s.gangCores x.gang core).foldl (fun s c => s.startCore x.gang c) s
        else s)

/-- One context of a hung core rolled back and trapped; one whose task has not started starts so (10 R328). -/
def State.trapHung (s : State) (core p : Nat) (info : Word) : State :=
  match s.ctx? core p with
  | none => s
  | some x =>
    let s := match x.run with
      | .starting _ => s.startTask core p
      | _ => s
    ((s.settleSplit core p).rollback core p).trapEnter core p .coreHung info 0

/-- CORE_HUNG: every context of a core frozen beyond 64 × WATCHDOG is rolled back and traps (10 R328). -/
def execCoreHung (core : Nat) (s : State) : Host.Outcome State Fault Refusal :=
  .next (match (s.core core).freeze with
    | none => s
    | some f =>
      let n := s.cycle - f.since
      if n > 64 * fld (s.core core).watchdog 31 0 then
        let info : Word := BitVec.ofNat 64 (core % 512 * 2 ^ 32 + min n 0xFFFFFFFF)
        let s := s.modCore core fun k => { k with freeze := none }
        let s := (s.core core).ctxs.foldl (fun s q => if q.2.run = .retired then s else s.trapHung core q.1 info) s
        s.post 8 core 0 (BitVec.ofNat 64 n) 0 0
      else s)

/-- Save slots not in use and not wanted by gangs being saved (09 R275, R291). -/
def State.slotsFree (s : State) : Nat :=
  fld s.dev.saveslots 15 0 - s.dev.slotsUsed.length -
    (s.dev.gangs.filter fun g => g.2.st == .saving).foldl (fun n g => n + g.2.coresLeft.length) 0

/-- The live contexts of a placed gang have used their quantum since it was placed (09 R291). The steps of a handler are issue steps and
count here, though R295 counts them toward no turn's quantum (DESIGN CHOICE, log entry 99). -/
def State.quantumUsed (s : State) (id : Nat) (g : Gang) : Bool :=
  g.cores.all fun c => (s.gangCtxs id c).all fun q =>
    q.2.run == .retired || (q.2.arch.quantum != 0 && decide (q.2.arch.quantum.toNat ≤ q.2.quantumSteps))

/-- A gang placed among others: highest class first, then the most recently placed (09 R291). -/
def insVictim (g : Nat × Gang) : List (Nat × Gang) → List (Nat × Gang)
  | [] => [g]
  | h :: hs =>
    if h.2.cls < g.2.cls ∨ (h.2.cls = g.2.cls ∧ h.2.order < g.2.order) then g :: h :: hs else h :: insVictim g hs

/-- The gangs eligible against a head of class c, in the order in which they are taken (09 R291). -/
def State.eligible (s : State) (c : Nat) : List (Nat × Gang) :=
  (s.dev.gangs.filter fun g => g.2.st == .placed && (decide (c < g.2.cls) || (g.2.cls == c && s.quantumUsed g.1 g.2))).foldl
    (fun l g => insVictim g l) []

/-- The first victim set that lets a head fit with enough save slots, beside the gangs that are being saved for it (09 R291). -/
def State.victims (s : State) (w : Want) (going : List Nat) : List (Nat × Gang) → List (Nat × Gang) → Option (List Nat)
  | _, [] => none
  | acc, g :: gs =>
    let set := acc ++ [g]
    if set.foldl (fun n h => n + h.2.w * h.2.h) 0 ≤ s.slotsFree ∧ (s.chooseRect (going ++ set.map Prod.fst) w).isSome then
      some (set.map Prod.fst)
    else State.victims s w going set gs

/-- The lowest class queue whose head does not fit, with what it asks for (09 R291). -/
def State.blockedHead (s : State) : Option (Nat × Want) :=
  (List.range 8).findSome? fun c => match s.classQueue c with
    | [] => none
    | q :: _ => if (s.chooseRect [] (s.wantOf q)).isSome then none else some (c, s.wantOf q)

/-- A gang begins to be saved (10 R329 step 1). -/
def State.startSave (s : State) (id : Nat) : State :=
  match Tab.find? s.dev.gangs id with
  | none => s
  | some g =>
    if g.st = .placed then
      g.cores.foldl (fun s c => s.modCore c fun k =>
        { k with ctxs := k.ctxs.map fun q => if q.2.gang = id then (q.1, { q.2 with saveCycle := s.cycleWord }) else q })
        (s.setGang id { g with st := .saving })
    else s

/-- The gangs that are being saved for the head of a class. -/
def Dev.going (d : Dev) (c : Nat) : List Nat := (d.preempt.filter fun e => e.cls == c).flatMap Preempting.victims

/-- PREEMPTION_ROUND: victims are chosen against the blocked head, unless those that earlier rounds chose for it, and that are
still being saved, let it fit (09 R291, R292). -/
def execPreemptionRound (s : State) : Host.Outcome State Fault Refusal :=
  .next
    (match s.blockedHead with
     | none => s
     | some (c, w) =>
       let going := s.dev.going c
       if !going.isEmpty ∧ (s.chooseRect going w).isSome then s
       else match s.victims w going [] (s.eligible c) with
         | none => s
         | some vs => (vs.foldl State.startSave s).modDev fun d =>
           { d with
             preempt := (d.preempt.filter fun e => e.cls != c) ++ [⟨c, (s.classQueue c).head?, going ++ vs⟩] })

/-- Loads and atomics of a context whose replies are outstanding. -/
def Ctx.awaited (x : Ctx) : List Access := x.acc.filter fun a => a.kind != .stg && a.kind != .str

/-- The order number of a context's mark: its later loads are performed again after a rollback. -/
def Ctx.markOrd (x : Ctx) : Nat := (x.mark.map Mark.ord).getD 0

/-- The replies of a context have come, or it has been rolled back after waiting (10 R329 step 2). -/
def State.repliesIn (s : State) (c : Nat) (x : Ctx) : Bool :=
  x.awaited.isEmpty ||
    (decide (x.saveCycle.toNat + fld (s.core c).watchdog 31 0 ≤ s.cycle) &&
      x.awaited.all fun a => decide (a.ord < x.markOrd) && a.kind != .atomic)

/-- A context of a gang that is being saved has stopped: at a boundary, its bundle run to its end, its core let run until a freeze
ends, its replies in (10 R329 steps 1 and 2). -/
def State.stopped (s : State) (c p : Nat) (x : Ctx) : Bool :=
  x.run == .retired ||
    ((match x.run with
      | .ready => !x.inUnit || x.turnStart
      | .awaitAtomic _ _ => false
      | _ => true) &&
      (match (s.core c).freeze with
        | some f => f.place != p && !s.frozen c
        | none => true) && !((s.core c).split.any fun q => q.place == p) && s.repliesIn c x)

/-- Commands of a gang on a core that have fired. -/
def Core.firedOf (k : Core) (g : Nat) : List Cmd := k.cmds.filter fun m => m.gang == g && (m.st == .fired || m.st == .storing)

/-- The banks of a gang's group on a core. -/
def State.groupBanks (s : State) (g c : Nat) : List Nat := ((s.gangCtxs g c).flatMap fun q => q.2.banks).eraseDups

/-- The region tiles of some banks. -/
def Core.bankTiles (k : Core) (bs : List Nat) : List Nat := (k.tiles.map Prod.fst).filter fun t => bs.contains (t / 32)

/-- No fill that stores of a group wait for is under way (08 R256). -/
def State.fillsDone (s : State) (g c : Nat) : Bool :=
  ((s.core c).bankTiles (s.groupBanks g c)).all fun t => match Tab.find? (s.core c).tiles t with
    | some r => r.held.isEmpty || !r.filling
    | none => true

/-- The group of a gang on a core may be saved (10 R329 steps 1 to 4). -/
def State.groupStopped (s : State) (g c : Nat) : Bool :=
  ((s.gangCtxs g c).all fun q => s.stopped c q.1 q.2) && ((s.core c).firedOf g).isEmpty && (s.core c).sobj.isEmpty &&
    s.fillsDone g c

/-- The dirty bytes that the reclaim of a group's banks writes back: those of the tiles, those stored to tiles that are not
filled, and those that an rflush not yet fired has captured (07 R233; 08 R257, R258). -/
def State.reclaimCells (s : State) (g c : Nat) : List Host.Cell :=
  let k := s.core c
  let ts := k.bankTiles (s.groupBanks g c)
  ((k.cmds.filter fun m => m.gang == g && m.st == .queued).flatMap Cmd.cells) ++ k.dirtyCells ts ++ s.heldCells c ts

/-- Bytes written back at retirement or reclaim; those that cannot be are discarded, one event a tile (08 R257). -/
def State.writeBack (s : State) (c : Nat) (cells : List Host.Cell) : State :=
  let bad := s.wbBad c (s.core c).wbFails cells
  let tiles := (bad.map fun b => tileOf b.1.1).eraseDups
  let s := s.wbPut c cells
  let s := tiles.foldl (fun s t => match bad.find? fun b => tileOf b.1.1 == t with
    | some b => s.post 14 c 0 (BitVec.ofNat 64 b.2.1) (b.2.2.code.setWidth 64) 0
    | none => s) s
  s.modCore c fun k =>
    { k.cleanTiles ((cells.map fun b => tileOf b.1).eraseDups) with wbWaits := [], wbFails := [] }

/-- The write-backs of a group wait for a page (08 R257, R263). -/
def State.wbHold (s : State) (c p : Nat) : State :=
  (s.requestPage p).modCore c fun k => if k.wbWaits.contains p then k else { k with wbWaits := p :: k.wbWaits }

/-- A bank as it is saved (10 R329; 08 R258): its region tiles are unfilled. -/
def Core.saveBank (k : Core) (b : Nat) : SavedBank :=
  { phys := b, fmt := Tab.get k.bankFmt 0 b,
    cells := (k.sp.filter fun c => c.1 / 0x40000 == b).map fun c => (c.1 % 0x40000, c.2),
    undef := (k.undef.filter fun u => u.lo / 0x40000 == b).map fun u => { u with lo := u.lo % 0x40000 },
    owner := k.owner.extractLsb' (32 * b) 32,
    tiles := (k.tiles.filter fun q => q.1 / 32 == b).map fun q =>
      (q.1 % 32, { q.2 with filled := false, filling := false, dirty := 0, held := [], flushed := 0 }) }

/-- The queue saved into EPC, EPCQ1 and EPCQ2 as pre-emption takes a context (01 R26). In a handler they hold what its eret
restores, and stay (log entry 65). -/
def Arch.saveQueue (a : Arch) : Arch :=
  if a.inHandler then a else { a with epc := a.pc.word, epcq1 := a.q1.word, epcq2 := a.q2.word }

/-- A context as it is saved, the cycles it has been blocked at a sync counted (07 R241; 10 R329). -/
def Core.saveCtx (k : Core) (cycle p : Nat) (x : Ctx) : SavedCtx :=
  { ctx := { x.timed cycle with
      arch := x.arch.saveQueue,
      syncWait := match x.run with
        | .blocked .sync since => x.syncWait + (cycle - since)
        | _ => x.syncWait },
    sregs := k.sregs x, vregs := k.vregs x, mat := if k.mat.holder = some p then some (k.matSaved x) else none }

/-- A group as it is saved (10 R329; 07 R214). -/
def State.saveGroup (s : State) (g c ci : Nat) : SavedGroup :=
  let k := s.core c
  let cs := s.gangCtxs g c
  let set := cs.foldl (fun m q => m ||| q.2.rings) (0 : BitVec 32)
  { coreIdx := ci, ctxs := cs.map fun q => k.saveCtx s.cycle q.1 q.2,
    cmds := (k.cmds.filter fun m => m.gang == g).map fun m => if m.fn = 9 ∧ m.eng = 4 then { m with cells := [] } else m,
    rings := k.rings.filter fun q => set.getLsbD q.1, banks := (s.groupBanks g c).map k.saveBank }

/-- What a group holds on a core freed (09 R292, R310). -/
def State.freeGroup (s : State) (g c : Nat) : State :=
  let ps := (s.gangCtxs g c).map Prod.fst
  let banks := s.groupBanks g c
  s.modCore c fun k =>
    let k := ps.foldl Core.unsplit (ps.foldl Core.unfreeze k)
    let k := Core.passTurn ps (banks.foldl Core.clearBank k)
    { k with
      ctxs := k.ctxs.filter fun q => q.2.gang != g, cmds := k.cmds.filter fun m => m.gang != g,
      mat := match k.mat.holder with
        | some p => if ps.contains p then MatUnit.reset else k.mat
        | none => k.mat }

/-- Bytes of a save slot written by a save: what they hold is not for software (09 R275). -/
def State.touchSlot (s : State) (slot : Nat) : State :=
  let a := fld s.dev.savebase 55 23 * 0x800000 + slot * 0x800000
  (List.range 128).foldl (fun s i => match s.engineEnt 0 (a + i * 0x10000) with
    | some e => s.undefGl (e.phys (a + i * 0x10000)) 0x10000
    | none => s) s

/-- The lowest n free save slots. -/
def State.pickSlots (s : State) (n : Nat) : List Nat :=
  ((List.range (fld s.dev.saveslots 15 0)).filter fun i => !s.dev.slotsUsed.contains i).take n

/-- The cores of a gang whose groups have not retired. -/
def Gang.live (g : Gang) : List (Nat × Nat) := g.coresLeft.map fun i => (i, g.cores.getD i 0)

/-- The first core of a gang whose write-backs have to wait for a page, and that page (08 R257, R263). -/
def State.reclaimWait (s : State) (id : Nat) (g : Gang) : Option (Nat × Nat) :=
  g.live.findSome? fun e => (s.wbWait e.2 (s.core e.2).wbFails (s.reclaimCells id e.2)).map fun p => (e.2, p)

/-- A gang may be saved but for its write-backs (10 R329). -/
def State.saveReady (s : State) (id : Nat) (g : Gang) : Bool :=
  g.st == .saving && g.live.all (fun e => s.groupStopped id e.2) && decide (g.coresLeft.length ≤ (s.pickSlots g.coresLeft.length).length)

/-- One group of a gang saved and its core freed. -/
def State.saveOne (s : State) (id : Nat) (e : Nat × Nat) : State × SavedGroup :=
  let s := (s.gangCtxs id e.2).foldl (fun s q => s.performAll e.2 q.1) s
  let s := s.writeBack e.2 (s.reclaimCells id e.2)
  let s := (s.gangCtxs id e.2).foldl (fun s q => if q.2.run = .retired then s else s.tellAbsence e.2 q.1) s
  (s.freeGroup id e.2, s.saveGroup id e.2 e.1)

/-- The record under which a pre-empted gang re-enters its class queue, ahead of every other (09 R293). -/
def State.reenter (s : State) (id : Nat) : State :=
  match Tab.find? s.dev.gangs id with
  | none => s
  | some g =>
    if g.st = .saved then
      (s.setClassQueue g.cls ({ g.launch with saved := some id } :: s.classQueue g.cls)).modDev fun d => { d with placeDue := true }
    else s

/-- A gang saved for a move goes to its destination where that is allowed (13 R416, R419). -/
def State.moveOrReenter (s : State) (id : Nat) : State :=
  match Tab.find? s.dev.gangs id with
  | none => s
  | some g =>
    let w : Want := { die := 2, w := g.w, h := g.h, cpc := g.launch.cpc, tt := g.tt, cool := g.cool }
    match g.dest.bind fun c => (s.rects [] w true).find? fun r => coreAt r.die r.row r.col == c with
    | some r => s.placeSaved id g r
    | none => s.reenter id

/-- Every gang of some has been saved, or is gone. -/
def State.allSaved (s : State) (vs : List Nat) : Bool :=
  vs.all fun v => match Tab.find? s.dev.gangs v with
    | some g => g.st == .saved
    | none => true

/-- The head of a class tried, and after it the next, up to a given record: those that re-entered ahead of it come before it (09
R286, R292, R293). -/
def State.tryUpTo (s : State) (c : Nat) (q : Option LRec) : Nat → State
  | 0 => s
  | n + 1 =>
    let r := s.tryHead c
    if r.2 && (s.classQueue c).head? != q then State.tryUpTo r.1 c q n else r.1

/-- The victims chosen for a head have gone: the head is placed, then they re-enter in the order in which they were chosen (09
R292, R293). -/
def State.victimsGone (s : State) : State :=
  match s.dev.preempt.find? fun e => s.allSaved e.victims with
  | none => s
  | some e =>
    let s := s.modDev fun d => { d with preempt := d.preempt.filter fun q => q.cls != e.cls }
    let s := s.tryUpTo e.cls e.head (s.classQueue e.cls).length
    (e.victims.foldl State.reenter s).modDev fun d => { d with placeDue := true }

/-- A gang saved: its groups to their slots, its line, grants and places free (09 R292; 10 R329). -/
def State.saveGang (s : State) (id : Nat) (g : Gang) : State :=
  let slots := s.pickSlots g.coresLeft.length
  let r := g.live.foldl (fun r e =>
    let q := r.1.saveOne id e
    (q.1, r.2 ++ [q.2])) (s, ([] : List SavedGroup))
  let i := 2 * (16 * g.die + g.line)
  let s := slots.foldl State.touchSlot r.1
  -- The gang's record as it stands now: the write-backs may have changed the energy or made traps pending.
  let g' := (Tab.find? s.dev.gangs id).getD g
  let s := s.setGang id
    { g' with
      st := .saved, groups := r.2, slots := slots, energy := Tab.get s.dev.energyTab 0 i,
      esat := bit (Tab.get s.dev.energyTab 0 (i + 1)) 63 }
  let s := (s.modDev fun d => { d with slotsUsed := d.slotsUsed ++ slots, placeDue := true }).regrant (g.cores.map zoneOf)
  if s.dev.preempt.any fun e => e.victims.contains id then s.victimsGone else s.moveOrReenter id

/-- SAVE_COMPLETE: once a gang has stopped, its banks are reclaimed and it is saved; a host-owned page that a write-back
needs is asked for first (10 R329; 08 R257, R258). -/
def execSaveComplete (gang : Nat) (s : State) : Host.Outcome State Fault Refusal :=
  .next
    (match Tab.find? s.dev.gangs gang with
      | none => s
      | some g =>
        if s.saveReady gang g then
          match s.reclaimWait gang g with
          | some e => s.wbHold e.1 e.2
          | none => s.saveGang gang g
        else s)

/-- An atomic of a context that its save waits for has had no reply for 16 × WATCHDOG cycles (10 R327, R329 step 2). -/
def State.lostAtomic (s : State) (c : Nat) (x : Ctx) : Option Access :=
  if x.saveCycle.toNat + 16 * fld (s.core c).watchdog 31 0 ≤ s.cycle then
    (match x.run with
      | .awaitAtomic _ _ => none
      | _ => x.awaited.find? fun a => a.kind == .atomic)
  else none

/-- PREEMPTION_REPLY_TIMEOUT: a load's reply has not come within WATCHDOG cycles of the save's start, and the context is
rolled back before it is saved; an atomic's has not within 16 × WATCHDOG, and the context traps MC_DATA first (10 R327, R329 step
2). -/
def execPreemptionReplyTimeout (core place : Nat) (s : State) : Host.Outcome State Fault Refusal :=
  .next
    (match s.ctx? core place with
      | none => s
      | some x =>
        let saving := match Tab.find? s.dev.gangs x.gang with
          | some g => g.st == .saving
          | none => false
        if !saving then s
        else match s.lostAtomic core x with
          | some a =>
            (((s.settleSplit core place).modCtx core place fun x => x.dropAtomic a.id).rollback core place).trapEnter core place
              .mcData (mcInfo 9 a.va) 0
          | none =>
            if x.saveCycle.toNat + fld (s.core core).watchdog 31 0 ≤ s.cycle ∧
                x.awaited.any fun a => a.kind != .atomic && decide (x.markOrd ≤ a.ord) then
              (s.settleSplit core place).rollback core place
            else s)

/-- A group has ended: each context retired, what it published performed, no command of it left (07 R247; 08 R272; 09 R310; 10
R337). -/
def State.groupEnded (s : State) (g c : Nat) : Bool :=
  let cs := s.gangCtxs g c
  !cs.isEmpty && (cs.all fun q => q.2.run == .retired && q.2.acc.isEmpty && (s.heldBy q.2).isEmpty) &&
    ((s.core c).cmds.all fun m => m.gang != g) && (s.core c).sobj.isEmpty && s.fillsDone g c

/-- A gang retires, or has been aborted (09 R310; 10 R337): its line and grants are free, its counter is raised, its
record counts as retired. -/
def State.retireGang (s : State) (id : Nat) (g : Gang) : State :=
  let s := s.modDev fun d => { d with gangs := Tab.del d.gangs id, placeDue := true }
  let s := s.regrant (g.cores.map zoneOf)
  let s :=
    if g.st = .aborting then
      match g.launch.dog, g.launch.queue with
      | some _, _ => s.modDev fun d => { d with sctl := setFld d.sctl 62 62 1 }
      | none, some k => (s.queueError k).recordRetired k g.launch.count
      | none, none => s
    else
      let w := g.launch.word 7
      let s := if bit w 63 then s.raise (fld w 62 62) (fld w 9 0) 1 else s
      match g.launch.dog, g.launch.queue with
      | some p, _ => s.passRetires p g.launch.tag g.launch.stage
      | none, some k => s.recordRetired k g.launch.count
      | none, none => s
  s.victimsGone

/-- GROUP_RETIREMENT: the dirty bytes of a group's region tiles are written back, what it holds is freed, and its gang
retires with its last group (09 R310; 08 R257). -/
def execGroupRetirement (gang core : Nat) (s : State) : Host.Outcome State Fault Refusal :=
  .next
    (match Tab.find? s.dev.gangs gang with
      | none => s
      | some g =>
        if s.groupEnded gang core then
          let cells := if g.st = .aborting then [] else s.reclaimCells gang core
          match s.wbWait core (s.core core).wbFails cells with
          | some p => s.wbHold core p
          | none =>
            let s := (s.writeBack core cells).freeGroup gang core
            let left := g.coresLeft.filter fun i => g.cores.getD i 0 != core
            let g' := { (Tab.find? s.dev.gangs gang).getD g with coresLeft := left }
            if left.isEmpty then s.retireGang gang g' else s.setGang gang g'
        else s)

/-- A context of an aborted gang stops: its gated stores go, and nothing of it is left but its fired commands (10 R337). -/
def Ctx.stop (x : Ctx) : Ctx :=
  { x with run := .retired, gate := [], flights := [], pends := [], acc := x.acc.filter fun a => a.kind == .stg || a.kind == .str || (a.kind == .atomic && a.pending) }

/-- ACTION_ABORT: every context of a parked context's gang stops (10 R337). -/
def execActionAbort (core place : Nat) (s : State) : Host.Outcome State Fault Refusal :=
  .next
    (match s.ctx? core place with
      | none => s
      | some x =>
        if x.hostParked then
          match Tab.find? s.dev.gangs x.gang with
          | none => s
          | some g =>
            let s := g.cores.foldl (fun s c =>
              let ps := (s.gangCtxs x.gang c).map Prod.fst
              (ps.foldl (fun s p => (s.modCtx c p Ctx.stop).performAll c p) s).modCore c fun k =>
                let k := Core.passTurn ps (ps.foldl Core.unsplit (ps.foldl Core.unfreeze k))
                { k with cmds := k.cmds.filter fun m => m.gang != x.gang || m.st == .fired || m.st == .storing }) s
            (s.setGang x.gang { g with st := .aborting }).modDev fun d =>
              { d with preempt := d.preempt.map fun q => { q with victims := q.victims.filter fun v => v != x.gang } }
        else s)

/-- The gang whose accumulator a core's estimate goes to: the one placed on it first. -/
def State.gangOn (s : State) (c : Nat) : Option (Nat × Gang) := s.placed.find? fun g => g.2.cores.contains c

/-- ENERGY_ESTIMATE: microjoules added to a gang's accumulator, and taken from its balance (09 R296; 13 R420, R421). -/
def execEnergyEstimate (core uj : Nat) (s : State) : Host.Outcome State Fault Refusal :=
  .next
    (match s.gangOn core with
      | none => s
      | some (id, g) =>
        let i := 2 * (16 * g.die + g.line)
        let sum := (Tab.get s.dev.energyTab 0 i).toNat + uj
        let sat := bit (Tab.get s.dev.energyTab 0 (i + 1)) 63 || decide (2 ^ 64 ≤ sum)
        let s := s.modDev fun d => d.setEnergy g.die g.line (BitVec.ofNat 64 (min sum (2 ^ 64 - 1))) sat
        match g.budget with
        | none => s
        | some b =>
          if uj < g.ebal.toNat then s.setGang id { g with ebal := g.ebal - BitVec.ofNat 64 uj }
          else
            let cls := min (g.cls + 1) 7
            let s := s.setGang id { g with cls := cls, ebal := b }
            if bit s.funcMode 5 then s.pendLead id .energyExhausted (BitVec.ofNat 64 cls) else s)

end Sys2Proof.Machine
end

