-- ==== Sys2Proof/Machine/Power.lean ====
section
/-! DEFINITION. Power control: yokes and slot limits (13 R399 to R404), coolant (13 R408 to R414), heat (13 R415 to R419), the
boot sequence and attestation (13 R424, R425). -/

namespace Sys2Proof.Machine

/-- A core's slot requests changed, and its SLOTMASK rewritten (13 R402). -/
def State.request (s : State) (c : Nat) (f : Core → Core) : State := s.modCore c fun k => (f k).relimit

/-- The requests of some cores changed. -/
def State.requests (s : State) (cs : List Nat) (f : Core → Core) : State := cs.foldl (fun s c => s.request c f) s

/-- The lead contexts of the gangs placed on cores that a test picks take a trap (10 R316). -/
def State.powerTrap (s : State) (pick : Nat → Bool) (c : Cause) (info : Nat) : State :=
  (s.gangsOn pick).foldl (fun s g => s.pendLead g c (BitVec.ofNat 64 info)) s

/-- The imbalance of two currents in whole percent (13 R399). -/
def percentOff (u l : Nat) : Nat := if max u l = 0 then 0 else 100 * (max u l - min u l) / max u l

/-- The balancer's action on a yoke (13 R400): word 129 + 2y is as it was, heavy the new HEAVY. -/
def State.balanceAct (s : State) (y imb heavy : Nat) (old : Word) : State × Nat :=
  let up := clusterCores (2 * y)
  let lo := clusterCores (2 * y + 1)
  let heavier := if heavy = 0 then up else lo
  if imb > 10 then
    let s := if fld old 0 0 = heavy then s
      else s.requests (if heavy = 0 then lo else up) fun k => { k with bal := 0 }
    (s.requests heavier fun k => { k with bal := tighten k.bal }, 1)
  else if imb ≤ 5 then (s.requests (up ++ lo) fun k => { k with bal := loosen k.bal }, 0)
  else (s, fld old 1 1)

/-- BALANCE_WINDOW_END: the meters of a yoke are read and the balancer acts (13 R399 to R401). -/
def execBalanceWindowEnd (yoke : Nat) (s : State) : Host.Outcome State Fault Refusal :=
  .next
    (let m := Tab.get s.dev.meters (0, 0) yoke
     let u := m.1 % 65536
     let l := m.2 % 65536
     let imb := percentOff u l
     let heavy := if u < l then 1 else 0
     let old := Tab.get s.dev.energyTab 0 (129 + 2 * yoke)
     let high := if imb > 20 then min 31 (fld old 7 3 + 1) else 0
     let severe := bit old 2
     let r := if severe then (s, fld old 1 1) else s.balanceAct yoke imb heavy old
     let enters := !severe && decide (high ≥ 10)
     let now := if severe then decide (imb > 10) else enters
     let w := imb * 256 + high * 8 + now.toNat * 4 + r.2 * 2 + heavy
     let s := r.1.modDev fun d =>
       { d with
         energyTab := Tab.set (Tab.set d.energyTab (128 + 2 * yoke) (BitVec.ofNat 64 (u * 65536 + l))) (129 + 2 * yoke)
           (BitVec.ofNat 64 w) }
     if enters then
       let s := s.powerTrap (fun c => yokeOf c == yoke) .yokeImbalance (imb * 256 + yoke)
       (s.postPower 1 yoke imb).requests (clusterCores (2 * yoke + heavy)) fun k => { k with bal := 3 }
     else s)

/-- POWER_CAP_CHECK: the module power against PCAP and PREL (13 R404). -/
def execPowerCapCheck (s : State) : Host.Outcome State Fault Refusal :=
  .next
    (let p := fld (Tab.get s.dev.energyTab 0 200) 15 0
     let cap := fld (Tab.get s.dev.energyTab 0 201) 15 0
     let rel := fld (Tab.get s.dev.energyTab 0 202) 15 0
     let first := decide (p > cap) && !s.dev.aboveCap
     let s := s.modDev fun d => { d with aboveCap := decide (p > cap) }
     let s := if first then s.postPower 5 0 p else s
     let s := if p > cap then s.requests (List.range 288) fun k => { k with cap := tighten k.cap } else s
     if p < rel then s.requests (List.range 288) fun k => { k with cap := loosen k.cap } else s)

/-- PCAP_WRITE: a value below PREL stores PREL (13 R404). -/
def execPcapWrite (w : Word) (s : State) : Host.Outcome State Fault Refusal :=
  .next
    (s.modDev fun d =>
      { d with energyTab := Tab.set d.energyTab 201 (BitVec.ofNat 64 (max (fld w 15 0) (fld (Tab.get d.energyTab 0 202) 15 0))) })

/-- A sensor with nothing seen yet. -/
def Sensor.reset : Sensor := { since := none, raised := false, ceased := none }

/-- A sensor's record brought up to a cycle in which its condition holds or does not (13 R412). -/
def Sensor.see (q : Sensor) (holds : Bool) (now : Nat) : Sensor :=
  let clear := match q.ceased with
    | some t => decide (t + 1200000 ≤ now)
    | none => false
  let raised := q.raised && !clear
  if holds then { since := some (q.since.getD now), raised := raised, ceased := none }
  else { since := none, raised := raised, ceased := some (q.ceased.getD now) }

/-- The condition has held for n cycles and may raise its cause (13 R412). -/
def Sensor.due (q : Sensor) (n now : Nat) : Bool :=
  !q.raised && (match q.since with
    | some t => decide (t + n ≤ now)
    | none => false)

/-- FLOW, VALVE, FLOOR and GRANT of a zone (13 R408, R409). -/
def State.flowOf (s : State) (z : Nat) : Nat := fld (Tab.get s.dev.valveTab 0 (4 * z + 1)) 15 0
def State.valveOf (s : State) (z : Nat) : Nat := fld (Tab.get s.dev.valveTab 0 (4 * z)) 7 0
def State.floorOf (s : State) (z : Nat) : Nat := fld (Tab.get s.dev.irrTab 0 (2 * z)) 63 48
def State.grantOf (s : State) (z : Nat) : Nat := fld (Tab.get s.dev.irrTab 0 (2 * z)) 47 32

/-- The sum of FLOW over all zones. -/
def State.flowSum (s : State) : Nat := (List.range 20).foldl (fun n z => n + s.flowOf z) 0

/-- The sensor conditions (13 R412): 4z dry, 4z + 1 low flow with the valve open, 4z + 2 outlet below inlet, 80 the sum of
the flows. -/
def State.sensorHolds (s : State) (i : Nat) : Bool :=
  let z := i / 4
  if i = 80 then decide (10 * (max s.flowSum s.dev.inmeas - min s.flowSum s.dev.inmeas) > s.dev.inmeas)
  else match i % 4 with
    | 0 => decide (s.flowOf z < s.floorOf z) && decide (32 ≤ s.valveOf z)
    | 1 => decide (s.flowOf z < s.grantOf z) && s.valveOf z == 255
    | 2 => decide (fld (Tab.get s.dev.valveTab 0 (4 * z + 2)) 15 0 + 32 < fld (Tab.get s.dev.valveTab 0 (4 * z + 2)) 31 16)
    | _ => false

/-- A sensor. -/
def Dev.sensor (d : Dev) (i : Nat) : Sensor := Tab.get d.sensors Sensor.reset i

/-- The sensors tested in the present cycle (13 R412). One that has nothing to tell keeps no record. -/
def State.sense (s : State) : State :=
  ((List.range 80).filter (fun i => i % 4 != 3) ++ [80]).foldl (fun s i =>
    if s.sensorHolds i || (Tab.find? s.dev.sensors i).isSome then
      s.modDev fun d => { d with sensors := Tab.set d.sensors i ((d.sensor i).see (s.sensorHolds i) s.cycle) }
    else s) s

/-- A sensor's cause marked as raised. -/
def State.sensorRaised (s : State) (i : Nat) : State :=
  s.modDev fun d => { d with sensors := Tab.set d.sensors i { d.sensor i with raised := true } }

/-- A word of the valve table changed. -/
def State.modValve (s : State) (i : Nat) (f : Word → Word) : State :=
  s.modDev fun d => { d with valveTab := Tab.set d.valveTab i (f (Tab.get d.valveTab 0 i)) }

/-- The cores of a yoke's zone clamped or released (13 R413). -/
def State.clamp (s : State) (z : Nat) (on : Bool) : State :=
  ((List.range 288).filter fun c => zoneOf c == z).foldl (fun s c => s.modCore c fun k => { k with clamped := on }) s

/-- COOLANT_DRY_CONDITION: the evacuation of a zone begins (13 R412 to R414). -/
def execCoolantDryCondition (zone : Nat) (s : State) : Host.Outcome State Fault Refusal :=
  .next
    (if (s.dev.sensor (4 * zone)).due 6000000 s.cycle && s.sensorHolds (4 * zone) then
       let s := s.sensorRaised (4 * zone)
       if (Tab.find? s.dev.evacs zone).isSome then s
       else
         let gangs := s.gangsOn fun c => zoneOf c == zone
         let e : Evac := { failed := false, flushFrom := s.cycle, valve := s.valveOf zone, gangs := gangs }
         let s := s.modDev fun d => { d with evacs := Tab.set d.evacs zone e }
         let s := s.modValve (4 * zone + 3) fun w => setFld w 1 0 1
         let s := s.modValve (4 * zone) fun w => setFld w 7 0 255
         if zone % 10 = 9 then s.modDev fun d => { d with slowDies := d.slowDies ++ [zone / 10] }
         else (gangs.foldl State.startSave s).clamp zone true
     else s)

/-- COOLANT_FLOW of a condition raised: its lead contexts and the host are told (13 R412). -/
def State.flowRaise (s : State) (i zone flow : Nat) (pick : Nat → Bool) : State :=
  if (s.dev.sensor i).due 6000000 s.cycle && s.sensorHolds i then
    ((s.sensorRaised i).powerTrap pick .coolantFlow zone).postPower 3 zone flow
  else s

/-- COOLANT_FLOW_CONDITION: zone 31 is the condition on the sum of the flows (13 R412). -/
def execCoolantFlowCondition (zone : Nat) (s : State) : Host.Outcome State Fault Refusal :=
  .next
    (if zone = 31 then s.flowRaise 80 31 s.flowSum fun _ => true
     else if zone < 20 then
       let s := s.flowRaise (4 * zone + 1) zone (s.flowOf zone) fun c => zoneOf c == zone
       s.flowRaise (4 * zone + 2) zone (s.flowOf zone) fun c => zoneOf c == zone
     else s)

/-- The valve of a zone returns to its rule (13 R411, R413). -/
def State.valveBack (s : State) (z : Nat) (e : Evac) : State :=
  s.modValve (4 * z) fun w => if bit w 63 then setFld w 7 0 e.valve else w

/-- EVACUATION_FLUSH_END: 50 ms of full valve are over (13 R413, R414). -/
def execEvacuationFlushEnd (zone : Nat) (s : State) : Host.Outcome State Fault Refusal :=
  .next
    (match Tab.find? s.dev.evacs zone with
      | none => s
      | some e =>
        if e.failed ∨ s.cycle < e.flushFrom + 60000000 then s
        else
          let s := s.modDev fun d => { d with slowDies := d.slowDies.filter fun i => !(zone % 10 == 9 && i == zone / 10) }
          if s.floorOf zone ≤ s.flowOf zone then
            let s := (s.clamp zone false).modValve (4 * zone + 3) fun w => setFld w 1 0 0
            ((s.valveBack zone e).modDev fun d => { d with evacs := Tab.del d.evacs zone, placeDue := true }).postPower 8 zone
              (s.flowOf zone)
          else
            let s := s.modValve (4 * zone) fun w => setFld (setFld w 7 0 0) 62 62 1
            let s := s.modValve (4 * zone + 3) fun w => setFld (setFld w 63 62 3) 1 0 2
            let s := s.modDev fun d => { d with evacs := Tab.set d.evacs zone { e with failed := true } }
            let gs := (e.gangs ++ s.gangsOn fun c => zoneOf c == zone).eraseDups
            let s := gs.foldl (fun s g => s.pendLead g .coolantDry (BitVec.ofNat 64 zone)) s
            let s := s.postPower 2 zone (s.flowOf zone)
            if zone % 10 = 9 then
              ((List.range 288).filter fun c => dieOf c == zone / 10).foldl
                (fun s c => s.modCore c fun k => { k with offline := true })
                (s.modDev fun d => { d with dieOff := d.dieOff ++ [zone / 10] })
            else s)

/-- DRY_CLEAR: the zone is back: OFFLINE, BYPASS and EVAC are 0, the clamp is lifted (13 R413). -/
def execDryClear (zone : Nat) (s : State) : Host.Outcome State Fault Refusal :=
  .next
    (if bit (Tab.get s.dev.valveTab 0 (4 * zone + 3)) 63 then
       let s := s.modValve (4 * zone + 3) fun w => setFld (setFld w 63 62 0) 1 0 0
       let s := s.modValve (4 * zone) fun w => setFld w 62 62 0
       let s := match Tab.find? s.dev.evacs zone with
         | some e => s.valveBack zone e
         | none => s
       (s.clamp zone false).modDev fun d => { d with evacs := Tab.del d.evacs zone, placeDue := true }
     else s)

/-- GRANT_WRITE: a floor and grant, or the module's inlet flow, stored where the sums allow it (13 R409, R410). -/
def execGrantWrite (word : Nat) (w : Word) (s : State) : Host.Outcome State Fault Refusal :=
  .next
    (let sum := (List.range 20).foldl (fun n z => n + s.grantOf z) 0
     if word = 80 then
       if sum ≤ fld w 15 0 then s.modDev fun d =>
         { d with irrTab := Tab.set d.irrTab 80 (w &&& 0xFFFF#64), placeDue := true }
       else s.postPower 6 0 (fld w 15 0)
     else
       let z := word / 2
       if sum - s.grantOf z + fld w 47 32 ≤ fld (Tab.get s.dev.irrTab 0 80) 15 0 ∧ fld w 63 48 ≤ fld w 47 32 then
         s.modDev fun d => { d with irrTab := maskInto d.irrTab word 0xFFFFFFFF00000000#64 w, placeDue := true }
       else s.postPower 6 z (fld w 47 32))

/-- VALVE_STEP: an automatic valve moves one code toward its grant, and holds within 2 % of it (13 R411). -/
def execValveStep (zone : Nat) (s : State) : Host.Outcome State Fault Refusal :=
  .next
    (let w := Tab.get s.dev.valveTab 0 (4 * zone)
     let f := s.flowOf zone
     let g := s.grantOf zone
     if bit w 63 || (Tab.find? s.dev.evacs zone).isSome || decide (100 * (max f g - min f g) ≤ 2 * g) then s
     else s.modValve (4 * zone) fun w => setFld w 7 0 (if f < g then min 255 (fld w 7 0 + 1) else fld w 7 0 - 1))

/-- JUNCTION_SAMPLE: clusters enter and leave the hot state (13 R412, R415). Sensor 100 + k is that of cluster k. -/
def execJunctionSample (s : State) : Host.Outcome State Fault Refusal :=
  .next
    ((List.range 36).foldl (fun s k =>
      let t := Tab.get s.dev.junction 0 k % 256
      let past := decide (t > 105)
      let s := if past || (Tab.find? s.dev.sensors (100 + k)).isSome then
          s.modDev fun d => { d with sensors := Tab.set d.sensors (100 + k) ((d.sensor (100 + k)).see past s.cycle) }
        else s
      let s := if past && !(s.dev.cluster k).hot then
          (s.modCluster k fun q => { q with hot := true }).requests (clusterCores k) fun c => { c with hot := 3 }
        else if t ≤ 100 ∧ (s.dev.cluster k).hot then
          (s.modCluster k fun q => { q with hot := false }).requests (clusterCores k) fun c => { c with hot := 0 }
        else s
      if past && !(s.dev.sensor (100 + k)).raised then
        ((s.sensorRaised (100 + k)).powerTrap (fun c => clusterOf c == k) .thermalHot (k * 256 + t)).postPower 4 k t
      else s) s)

/-- The junction temperature of a cluster. -/
def State.junctionOf (s : State) (k : Nat) : Nat := Tab.get s.dev.junction 0 k % 256

/-- The warm clusters of a die (13 R416). -/
def State.warmOf (s : State) (d : Nat) : List Nat := ((List.range 18).map fun k => 18 * d + k).filter fun k => decide (s.junctionOf k > 95)

/-- The candidate for a thermal migration of a die: the one on the hottest cluster, of the lowest line (13 R416). -/
def State.thermalPick (s : State) (d : Nat) : Option (Nat × Gang) :=
  let cand := s.dev.gangs.filter fun g =>
    g.2.st == .placed && g.2.die == d && (g.2.cores.any fun c => (s.warmOf d).contains (clusterOf c)) &&
      decide (g.2.placedAt + 4800000 ≤ s.cycle) && (match g.2.lastMig with
        | some t => decide (t + 19200000 ≤ s.cycle)
        | none => true)
  match cand with
  | [] => none
  | g :: gs => some (gs.foldl (fun m q =>
      if s.hottest m.2.cores < s.hottest q.2.cores ∨ (s.hottest m.2.cores = s.hottest q.2.cores ∧ q.2.line < m.2.line) then q
      else m) g)

/-- What a placed gang asks for as it moves. -/
def Gang.want (g : Gang) : Want :=
  { die := fld (g.launch.word 0) 63 62, w := g.w, h := g.h, cpc := g.launch.cpc, tt := g.tt, cool := g.cool }

/-- Where a candidate may move: an allowed rectangle whose hottest cluster is at least 5 °C cooler (13 R416). -/
def State.thermalDest (s : State) (id : Nat) (g : Gang) : Option Rect :=
  bestRect ((s.rects [id] g.want true).filter fun r => decide (r.hot + 5 ≤ s.hottest g.cores))

/-- The thermal response on a die's warm clusters (13 R417). -/
def State.thermalResponse (s : State) (d : Nat) : State :=
  let warm := s.warmOf d
  let s := warm.foldl (fun s k => s.requests (clusterCores k) fun c => { c with therm := tighten c.therm }) s
  if s.irrig then s
  else ((warm.map fun k => 10 * d + k % 18 / 2).eraseDups).foldl (fun s z =>
    let sum := (List.range 20).foldl (fun n i => n + s.grantOf i) 0
    let room := fld (Tab.get s.dev.irrTab 0 80) 15 0 - sum
    let up := min room ((s.demand z + 9) / 10)
    s.modDev fun v =>
      { v with
        irrTab := Tab.set v.irrTab (2 * z) (setFld (Tab.get v.irrTab 0 (2 * z)) 47 32 (s.grantOf z + up)),
        raisedZones := (z :: v.raisedZones).eraseDups, placeDue := true }) s

/-- A die's clusters at or below 90 °C recover (13 R417). -/
def State.thermalRelax (s : State) (d : Nat) : State :=
  (((List.range 18).map fun k => 18 * d + k).filter fun k => decide (s.junctionOf k ≤ 90)).foldl (fun s k =>
    let z := 10 * d + k % 18 / 2
    let s := s.requests (clusterCores k) fun c => { c with therm := loosen c.therm }
    if s.dev.raisedZones.contains z then s.modDev fun v =>
      { v with raisedZones := v.raisedZones.filter fun i => i != z, relaxZones := z :: v.relaxZones }
    else s) s

/-- THERMAL_EVALUATION: one migration of a die, or the thermal response (13 R416 to R418). -/
def execThermalEvaluation (die : Nat) (s : State) : Host.Outcome State Fault Refusal :=
  .next
    (let s := s.thermalRelax die
     match s.thermalPick die with
     | none => s
     | some (id, g) =>
       if bit s.funcMode 4 then
         let hot := g.cores.foldl (fun m c => if s.junctionOf m < s.junctionOf (clusterOf c) then clusterOf c else m)
           (clusterOf (g.cores.headD 0))
         (s.postPower 7 (16 * g.die + g.line) hot).thermalResponse die
       else match (if (List.range 36).all fun k => decide (s.junctionOf k > 95) then none else s.thermalDest id g) with
         | none => s.thermalResponse die
         | some r =>
           if g.coresLeft.length ≤ s.slotsFree then
             (s.setGang id { g with dest := some (coreAt r.die r.row r.col), lastMig := some s.cycle }).startSave id
           else s)

/-- THCMD: a gang moved to a rectangle that the host names (13 R419). -/
def execThcmd (w : Word) (s : State) : Host.Outcome State Fault Refusal :=
  .next
    (let d := fld w 63 63
     let line := fld w 59 56
     let c := fld w 8 0
     match (s.dev.gangs.filter fun g => g.2.st == .placed && g.2.die == d && g.2.line == line).head? with
     | none => s.postPower 6 (16 * d + line) 0
     | some (id, g) =>
       if dieOf c = d ∧ ((s.rects [id] { g.want with die := d } true).any fun r => coreAt r.die r.row r.col == c) then
         (s.setGang id { g with dest := some c, lastMig := some s.cycle }).startSave id
       else s.postPower 6 (16 * d + line) 0)

/-- The words of a table, eight bytes each (13 R425). -/
def State.tableBytes (s : State) (sel n : Nat) : List Byte := (List.range n).flatMap fun i => bytesLE 8 (s.tableRead sel i).toNat

/-- The signed part of an attestation report (13 R425). -/
def State.reportBody (s : State) : List Byte :=
  let fit (n : Nat) (bs : List Byte) : List Byte := (List.range n).map fun i => bs.getD i 0
  [1, 0, 0, 0] ++ bytesLE 2 s.dev.id.toNat ++ [0, 0] ++
    ((List.range 4).flatMap fun i => bytesLE 8 (Tab.get s.dev.nonce 0 i).toNat) ++
    fit 64 (Config.imageDigest 0) ++ fit 64 (Config.imageDigest 1) ++ shake256 (s.tableBytes 0 1024) ++
    shake256 (s.tableBytes 1 2048) ++ shake256 (s.tableBytes 6 134)

/-- A report: the signed part, its signature, zeros, and the identity key (13 R425). -/
def State.report (s : State) : List Byte :=
  let b := s.reportBody
  let sig := Config.identitySign b
  b ++ ((List.range 3309).map fun i => sig.getD i 0) ++ List.replicate 427 0 ++ (List.range 1952).map Config.identityKey

/-- ATTCMD: a report is begun, unless one is under way (13 R423, R425). -/
def execAttcmd (s : State) : Host.Outcome State Fault Refusal :=
  .next (if bit s.dev.attStatus 0 then s else s.modDev fun d => { d with attStatus := 1, attBody := s.report })

/-- ATTESTATION_REPORT_DONE: the report is written to the host's buffer, or its write failed (13 R425). -/
def execAttestationReportDone (ok : Bool) (s : State) : Host.Outcome State Fault Refusal :=
  .next
    (if bit s.dev.attStatus 0 then
       s.modDev fun d =>
         if ok then
           { d with
             hostMem := Mem.writeBytes d.hostMem (fld d.attaddr 55 13 * 0x2000) d.attBody, attStatus := 2, attBody := [] }
         else { d with attStatus := 4, attBody := [] }
     else s)

/-- A device after reset: what lies outside it stays, its memory's bytes are undefined (13 R424). -/
def State.afterReset (s : State) : State :=
  { State.reset with
    free := s.free + 1, agenda := s.agenda,
    dev := { Dev.reset with
      hostMem := s.dev.hostMem, nvme := s.dev.nvme, bridge := s.dev.bridge, junction := s.dev.junction,
      memUndef := [⟨0, 2 ^ 52, freeKey s.free 4, 0⟩] } }

/-- What a message's arrival is, a host access among them (12 R372, R397). -/
def comesAs (m : Msg) : Option Move :=
  if m.kind = 13 ∨ m.kind = 14 then some (.hostMsg m) else (arrivalEvent m).map Move.event

/-- A word answered to the host. -/
def State.reply (s : State) (w : Word) : State := s.modDev fun d => { d with hostReplies := d.hostReplies ++ [w] }

/-- A host access to a member that cannot be reached: a read gives ones, a write is discarded, and the host is told (12 R397). -/
def State.unreached (s : State) (m : Msg) : State :=
  (if m.op % 2 = 0 then s.reply (BitVec.allOnes 64) else s).postLink none m.dst

/-- A host access that the bridge sends to the member it names, by device identifier, or answers where that cannot be reached; which
it cannot tell before BOOTST 4 (12 R375, R397; 13 R424). -/
def State.sendHost (s : State) (m : Msg) : State :=
  if !s.dev.names m.dst ∨ (s.dev.bootst = 4 ∧ (s.dev.hop m).isNone) then s.unreached m else s.sendOn m

/-- The traffic that waited for BOOTST 4 goes on, in its order; the bridge's host accesses as it sends such (12 R397; 13 R424). -/
def State.bootDone (s : State) : State :=
  let l := s.dev.bootWait
  ((l.filter fun q => !q.1).foldl (fun s q => if q.2.kind = 13 ∧ q.2.src = s.dev.id then s.sendHost q.2 else s.sendOn q.2) (s.modDev fun d => { d with bootWait := [] })).push
    ((l.filter fun q => q.1).filterMap fun q => comesAs q.2)

/-- DEVICE_RESET: the reset and the stages of the boot sequence, in their order (13 R424). -/
def execDeviceReset (stage : BootStage) (s : State) : Host.Outcome State Fault Refusal :=
  .next
    (let put (n : Nat) : State := s.modDev fun d => { d with bootst := n }
     match stage, s.dev.bootst with
     | .reset, _ => s.afterReset
     | .verify true, 0 => put 1
     | .verify false, 0 => put 15
     | .verify false, 1 => put 15
     | .tables, 1 => put 2
     | .training, 2 => (List.range 8).foldl (fun s p => s.modDev fun d =>
         { d with ports := Tab.set d.ports p { Tab.get d.ports Port.reset p with state := 1 } }) (put 3)
     | .ready, 3 => (put 4).bootDone
     | _, _ => s)

end Sys2Proof.Machine
end

