-- ==== Sys2Proof/Machine/HostWindow.lean ====
section
/-! DEFINITION. Writes of the register window (12 R394) block by block, the accesses of the host to it (12 R394, R397; 13
R422), and the identity and event queue blocks' events (12 R395, R396). -/

namespace Sys2Proof.Machine

/-- The state an event leaves. -/
def State.after (s : State) (f : State → Host.Outcome State Fault Refusal) : State :=
  match f s with
  | .next t => t
  | _ => s

/-- DEVID_WRITE: the first write after reset sets the identifier (12 R395). -/
def execDevidWrite (w : Word) (s : State) : Host.Outcome State Fault Refusal :=
  .next (if s.dev.devidSet then s else s.modDev fun d => { d with devid := w &&& 0xFFFF#64, devidSet := true })

/-- EQHEAD_WRITE: events kept in the device are posted as places free (12 R396). -/
def execEqheadWrite (w : Word) (s : State) : Host.Outcome State Fault Refusal :=
  .next (s.modDev fun d => Dev.postWaiting 64 { d with eqhead := w.setWidth 32 })

/-- Writes of the identity block (12 R395; 13 R423). -/
def State.writeIdentity (s : State) (o : Nat) (w : Word) : State :=
  if o = 0x00 then s.after (execDevidWrite w)
  else if o = 0x08 then s.modDev fun d => { d with sizes := w &&& 0x3FFF#64 }
  else if o = 0x10 then s.modDev fun d => { d with gidx := w &&& 0x3F#64 }
  else if o = 0x18 then s.modDev fun d => { d with mwbase := w &&& 0x00FFFFFFC0000000#64 }
  else if 0x40 ≤ o ∧ o < 0x60 then s.modDev fun d => { d with nonce := Tab.set d.nonce ((o - 0x40) / 8) w }
  else if o = 0x60 then s.modDev fun d => { d with attaddr := w &&& 0x00FFFFFFFFFFE000#64 }
  else if o = 0x68 ∧ bit w 0 then s.after execAttcmd
  else s

/-- Writes of the scheduling block (09 R275). -/
def State.writeSched (s : State) (o : Nat) (w : Word) : State :=
  let idle := s.dev.resident.isEmpty && s.dev.pendingQ.isEmpty
  if o = 0x00 then (if idle then s.modDev fun d => { d with qtbase := w &&& 0x00FFFFFFFFFFF000#64 } else s)
  else if o = 0x08 then
    (if idle then s.modDev fun d => { d with qtcount := BitVec.ofNat 64 (min 1024 (fld w 10 0)) } else s)
  else if o = 0x10 then s.modDev fun d => { d with savebase := w &&& 0x00FFFFFFFF800000#64 }
  else if o = 0x18 then s.modDev fun d => { d with saveslots := w &&& 0xFFFF#64 }
  else s

/-- The bits of a word of the Cellar block that are not reserved (11 R360). -/
def cellarMask (o : Nat) : Word :=
  if o < 0x20 then 0x00FFFFFFFFFF0000#64
  else if o = 0x20 then 0xF#64
  else if o = 0x28 then 0x0000FFFFFFFFFFFF#64
  else if o = 0x30 then 0x000000FFFFFFFFFF#64
  else if o = 0x38 then 0x00FFFFFFFFFF0000#64
  else if 0x100 ≤ o ∧ o < 0x200 then (if o % 16 = 0 then 0xCF000000FFFFFFFF#64 else 0)
  else if 0x200 ≤ o ∧ o < 0xA00 then
    let q := (o - 0x200) % 0x400
    if q = 0 then 0xFFFFFFFFFFFFF000#64
    else if q = 8 then 0x0000000F00FF000F#64
    else if 0x20 ≤ q ∧ q < 0x220 then
      (if q % 0x20 = 0x00 ∨ q % 0x20 = 0x08 then 0x00FFFFFFFFFFF000#64
       else if q % 0x20 = 0x10 then 0xFFFFFFFF#64
       else 0xFFFF#64)
    else 0
  else 0

/-- The queue pair whose queues a word of the Cellar block describes: written, it starts anew, as a queue just created does
(PRESUMED from NVMe, log entry 68). -/
def nvPairAt (o : Nat) : Option Nat :=
  let q := (o - 0x200) % 0x400
  if 0x200 ≤ o ∧ o < 0xA00 ∧ 0x20 ≤ q ∧ q < 0x220 then some (32 * ((o - 0x200) / 0x400) + (q - 0x20) / 0x20) else none

/-- Writes of the Cellar block (11 R358, R360): the pool fields hold while any key is stashed. -/
def State.writeCellar (s : State) (o : Nat) (w : Word) : State :=
  if o = 0x40 then
    (match fld w 63 62 with
      | 0 => s.after (execCeldecPlace w)
      | 1 => s.after (execCeldecDrop w)
      | 2 => s.after (execCeldecRefuse w)
      | _ => s)
  else if o < 0x20 ∧ s.dev.cellar.any fun e => e.2.stashed then s
  else if cellarMask o = 0 then s
  else s.modDev fun d =>
    { d with
      cellarRegs := Tab.set d.cellarRegs o (w &&& cellarMask o),
      nvPairs := match nvPairAt o with
        | some i => Tab.del d.nvPairs i
        | none => d.nvPairs }

/-- Writes of the map unit block (11 R368 to R370). -/
def State.writeMapUnit (s : State) (o : Nat) (w : Word) : State :=
  if o = 0x00 then s.modDev fun d => { d with ptrootNew := w &&& 0x000FFFFFFFF00000#64 }
  else if o = 0x08 then s.after (execInval w)
  else if o = 0x18 then
    (if bit w 62 then s.after (execMigrationRefuse w)
     else if bit w 63 then s.after (execMigrateToHost w) else s.after (execMigrateToDevice w))
  else s

/-- Writes of the event queue block (12 R396). -/
def State.writeEvents (s : State) (o : Nat) (w : Word) : State :=
  if o = 0x00 then s.modDev fun d => { d with eqbase := w &&& 0xFFFFFFFFFFFFF000#64 }
  else if o = 0x08 then s.modDev fun d => Dev.postWaiting 64 { d with eqlog := w &&& 0x1F#64 }
  else if o = 0x18 then s.after (execEqheadWrite w)
  else if o = 0x20 ∧ bit w 63 then s.modDev fun d => { d with ovf := false }
  else s

/-- Words of the window that only the host writes: a write of them by the supervisor is ignored (09 R275, R277; 12 R395, R396; 13
R423; log entry 78). -/
def hostOnly (o : Nat) : Bool :=
  decide (o < 0x20000) || o == 0x50018 || decide (0x200000 ≤ o)

/-- Writes of a port's block (12 R377). -/
def State.writePort (s : State) (p o : Nat) (w : Word) : State :=
  if o = 0x00 then (if bit w 63 then s.after (execRetrain p) else s)
  else if o = 0x08 then s.modPort p fun q => { q with cthr := w &&& 0xFFFF#64 }.judge
  else if o = 0x10 then s.modPort p fun q => { q with replay := w &&& 0xFFFFFFFF#64 }
  else if o = 0x18 then s.modPort p fun q => { q with crcerr := w &&& 0xFFFFFFFF#64 }
  else s

/-- A RUNNING slot judged again after a change of its final counter or threshold (12 R391). -/
def State.rejudge (s : State) (g : Nat) : State :=
  let w := (s.dev.group g).w0
  s.groupsMet (fld w 58 58) (fld w 57 48)

/-- Writes of a collective group slot (12 R391). -/
def State.writeGroup (s : State) (g o : Nat) (w : Word) : State :=
  let m := 0x87FF0000FFFFFFFF#64
  if o = 0x00 then (s.modGroup g fun q => { q with w0 := (q.w0 &&& ~~~m) ||| (w &&& m) }).rejudge g
  else if o = 0x08 then (s.modGroup g fun q => { q with fthr := w }).rejudge g
  else if o = 0x10 then s.modGroup g fun q => { q with gbuf := w &&& 0x00FFFFFFFFFFFFC0#64 }
  else if o = 0x18 then
    (match fld w 1 0 with
      | 1 => s.after (execGroupStart g)
      | 2 => s.after (execGroupAbort g)
      | _ => s)
  else s

/-- A write of a word of a parked context's cause state (10 R332, R337). -/
def Arch.putCause (a : Arch) (o : Nat) (w : Word) : Arch :=
  if o = 0x30 then { a with ecause := w &&& 0x3F#64 }
  else if o = 0x38 then { a with einfo := w }
  else if o = 0x40 then { a with epc := w &&& qentMask, epcWritten := true }
  else if o = 0x48 then { a with epcq1 := w &&& qentMask, epcWritten := true }
  else if o = 0x50 then { a with epcq2 := w &&& qentMask, epcWritten := true }
  else if o = 0x58 then { a with slotfault := w &&& 0x3F#64 }
  else if o = 0x60 then { a with estatus := w &&& 1#64 }
  else a

/-- Writes of a context's words in its core's control block (10 R332, R333, R337). -/
def State.writeContext (s : State) (c p o : Nat) (w : Word) : State :=
  match s.ctx? c p with
  | none => s
  | some x =>
    if o = 0x00 then s.modCtx c p fun x => { x with ctl := w &&& 0x1F#64 }
    else if o = 0x08 then s.modCtx c p fun x => { x with bpaddr := w &&& 0x00FFFFFFFFFFFFF0#64 }
    else if o = 0x10 then s.modCtx c p fun x => { x with tcmp := w }
    else if o = 0x18 then s.after (execHostevt c p w)
    else if o = 0x20 then
      (match fld w 1 0 with
        | 0 => s.after (execActionResume c p)
        | 1 => s.after (execActionHandler c p)
        | 2 => s.after (execActionAbort c p)
        | _ => s)
    else if x.hostParked then s.modCtx c p fun x => { x with arch := x.arch.putCause o w }
    else s

/-- Writes of a core's control block (10 R332). -/
def State.writeControl (s : State) (c o : Nat) (w : Word) : State :=
  if o = 0x200 then s.modCore c fun k => { k with startctl := w &&& 0x1F#64 }
  else if o = 0x208 then s.modCore c fun k => { k with startbp := w &&& 0x00FFFFFFFFFFFFF0#64 }
  else if o < 0x200 then s.writeContext c (o / 0x80) (o % 0x80) w
  else s

/-- TABIDX of the host table port moved on by 1 (01 R40). -/
def State.nextHostIdx (s : State) : State :=
  s.modDev fun d => { d with hostTabidx := BitVec.ofNat 64 ((fld d.hostTabidx 31 0 + 1) % 2 ^ 32) }

/-- The word that the host table port selects (01 R40). -/
def State.hostTable (s : State) : Word := s.tableRead (fld s.dev.hostTabsel 7 0) (fld s.dev.hostTabidx 31 0)

/-- A device whose boot was refused: its cores are in reset, and its host port answers only the identity block (13 R424). -/
def Dev.refused (d : Dev) : Bool := d.bootst == 15

/-- HOST_TABDAT_ACCESS: one word read or written, and TABIDX moved (01 R40; 12 R394), unless the boot was refused (13 R424). -/
def execHostTabdatAccess (write : Option Word) (s : State) : Host.Outcome State Fault Refusal :=
  .next
    (if s.dev.refused then s
     else match write with
      | none => (s.reply s.hostTable).nextHostIdx
      | some w => (s.tableWrite (fld s.dev.hostTabsel 7 0) (fld s.dev.hostTabidx 31 0) w).nextHostIdx)

/-- TABDAT_LOW_READ: the low half answered, the high half latched (13 R422). -/
def execTabdatLowRead (s : State) : Host.Outcome State Fault Refusal :=
  .next
    (if s.dev.refused then s
     else
     let v := s.hostTable
     (s.modDev fun d => { d with latch := BitVec.ofNat 64 (fld v 63 32) }).reply (BitVec.ofNat 64 (fld v 31 0)))

/-- TABDAT_HIGH_READ: the latched half answered, and TABIDX moved (13 R422). -/
def execTabdatHighRead (s : State) : Host.Outcome State Fault Refusal :=
  .next (if s.dev.refused then s else (s.reply s.dev.latch).nextHostIdx)

/-- REGISTER_WRITE: a word written at an offset of the window, by the host or the supervisor: stored without its reserved bits, or
the event it is (01 R11; 12 R394). Offsets that name nothing ignore it. -/
def execRegisterWrite (offset : WinPlace) (w : Word) (s : State) : Host.Outcome State Fault Refusal :=
  .next
    (let o := offset.offset
     if !offset.host && hostOnly o then s
     else if s.dev.refused ∧ 0x10000 ≤ o then s
     else if o < 0x10000 then s.writeIdentity o w
     else if o < 0x20000 then s.writeSched (o - 0x10000) w
     else if o < 0x30000 then
       (if o - 0x20000 < 48 ∧ o % 8 = 0 then s.tableWrite 6 (128 + (o - 0x20000) / 8) w else s)
     else if o < 0x40000 then s.writeCellar (o - 0x30000) w
     else if o < 0x50000 then s.writeMapUnit (o - 0x40000) w
     else if o < 0x60000 then s.writeEvents (o - 0x50000) w
     else if o < 0x60800 then s.writePort ((o - 0x60000) / 0x100) (o % 0x100) w
     else if o = 0x80000 then s.modDev fun d => { d with hostTabsel := w &&& 0xFF#64 }
     else if o = 0x80008 then s.modDev fun d => { d with hostTabidx := w &&& 0xFFFFFFFF#64 }
     else if o = offTabdat then s.after (execHostTabdatAccess (some w))
     else if 0x90000 ≤ o ∧ o < 0x90800 then s.writeGroup ((o - 0x90000) / 0x20) (o % 0x20) w
     else if 0x100000 ≤ o ∧ o < 0x148000 then s.writeControl ((o - 0x100000) / 0x400) (o % 0x400) w
     else if 0x180000 ≤ o ∧ o < 0x180900 then
       s.modCore ((o - 0x180000) / 8) fun k => { k with press := k.press &&& ~~~(w &&& 0xF#64) }
     else if 0x200000 ≤ o ∧ o < 0x210000 ∧ o % 64 = 0 then
       s.after (execTailWrite ((o - 0x200000) / 64) (w.setWidth 32))
     else s)

/-- The half of a word at an offset of 4 bytes. -/
def halfAt (o : Nat) (w : Word) : Word := BitVec.ofNat 64 (if o % 8 = 4 then fld w 63 32 else fld w 31 0)

/-- A half of a register written by the host, its other half as it reads. The high half of a doorbell is reserved (09 R277). -/
def State.writeHalf (s : State) (o : Nat) (w : Word) : State :=
  let a := o / 8 * 8
  if a = offTabdat ∨ (0x200000 ≤ a ∧ a < 0x210000 ∧ o % 8 = 4) then s
  else
    let v := s.windowRead a
    s.after (execRegisterWrite ⟨a, true⟩ (if o % 8 = 4 then setFld v 63 32 (fld w 31 0) else setFld v 31 0 (fld w 31 0)))

/-- A host access to the register window: the state, with an answer for each read (12 R394; 13 R422). -/
def State.hostAccess (s : State) (a : WinAccess) : State :=
  match a.write with
  | some w => if a.wide then s.after (execRegisterWrite ⟨a.offset, true⟩ w) else s.writeHalf a.offset w
  | none =>
    if a.wide then
      let r := s.windowLoad a.offset
      r.2.reply r.1
    else if a.offset = offTabdat then s.after execTabdatLowRead
    else if a.offset = offTabdat + 4 then s.after execTabdatHighRead
    else s.reply (halfAt a.offset (s.windowRead (a.offset / 8 * 8)))

/-- HOST_WINDOW_ACCESS: a host access through the bridge. A device whose boot was refused answers only the identity block
(12 R394; 13 R424). -/
def execHostWindowAccess (a : WinAccess) (s : State) : Host.Outcome State Fault Refusal :=
  .next
    (if s.dev.refused ∧ 0x10000 ≤ a.offset then s
     else if a.offset % (if a.wide then 8 else 4) = 0 then s.hostAccess a else s)

/-- The answer to a host access that this device performs as a member: op 0 reads and 1 writes the window, 2 reads and 3
writes global memory from MWBASE (12 R397). A read that does not translate is answered with free values. -/
def State.memberAccess (s : State) (m : Msg) : State × Option (List Byte) :=
  let a := m.fromAddr.toNat
  let va := s.dev.mwbase.toNat + a % 0x40000000
  let v := numLE m.data
  match m.op with
  | 0 =>
    let n := s.dev.hostReplies.length
    let s' := s.after (execHostWindowAccess { offset := a, write := none, wide := m.len == 8 })
    ((s'.modDev fun d => { d with hostReplies := s.dev.hostReplies }),
      some (bytesLE m.len ((s'.dev.hostReplies.drop n).headD 0).toNat))
  | 1 => (s.after (execHostWindowAccess { offset := a, write := some (BitVec.ofNat 64 v), wide := m.len == 8 }), none)
  | 2 => (match s.engineRead 0 true va m.len with
    | .ok bs => (s, some bs)
    | .error _ => (s.takeFree 1, some ((List.range m.len).map fun i => Config.freeByte (freeKey s.free 8) i)))
  | _ =>
    if (s.engineBar 0 true .write va m.data.length).isNone then (s.enginePut 0 va m.data, none) else (s, none)

/-- The reply of a member, to the bridge. -/
def replyOf (m : Msg) (bs : List Byte) : Msg :=
  { Msg.rest with kind := 14, dst := m.src, tag := m.tag, seq := m.seq, len := bs.length, data := bs }

/-- The slice of a host address, and the offset in it: 16 MiB of BAR0 for a register window (op 0 and 1), 1 GiB of BAR2 for a
memory window (op 2 and 3) (12 R397). -/
def barSlice (m : Msg) : Nat × Nat :=
  let n := if m.op < 2 then 0x1000000 else 0x40000000
  (m.fromAddr.toNat / n, m.fromAddr.toNat % n)

/-- The bridge keeps the identifier of a member: that last written to DEVID of its slice (12 R397; log entry 80). -/
def State.keepMember (s : State) (i o : Nat) (m : Msg) : State :=
  if m.op = 1 ∧ o = 0 then s.modDev fun d => { d with members := Tab.set d.members i (numLE m.data % 65536) } else s

/-- The host port of a device whose boot was refused answers only its identity block (13 R424). -/
def State.portShut (s : State) (m : Msg) : Bool :=
  s.dev.refused &&
    !(decide (m.op < 2) && (barSlice m).1 == fld s.dev.gidx 5 0 && decide ((barSlice m).2 < 0x10000))

/-- A host access at the bridge's port: its own slice it performs itself, that of another member it sends there once routed
traffic may go (12 R397; 13 R424). -/
def State.hostPort (s : State) (m : Msg) : State :=
  let i := (barSlice m).1
  let o := (barSlice m).2
  let shut := s.portShut m
  let m := { m with
    kind := 13, src := s.dev.id, fromAddr := BitVec.ofNat 64 o, route := 0, hops := 0, det := false, dirn := false, via := none }
  if shut then s
  else if i = fld s.dev.gidx 5 0 then
    let r := s.memberAccess m
    match r.2 with
    | none => r.1
    | some bs => r.1.reply (BitVec.ofNat 64 (numLE bs))
  else
    let s := s.keepMember i o m
    match Tab.find? s.dev.members i with
    | none => s.unreached m
    | some id => s.sendHost { m with dst := BitVec.ofNat 16 id }

/-- HOST_REQUEST: a host access at the bridge, by its address in BAR0 or BAR2, which a device that is no bridge has no port for; or
one that has come from the bridge, performed at the member it names, or sent on (12 R381, R397). -/
def execHostRequest (m : Msg) (s : State) : Host.Outcome State Fault Refusal :=
  .next
    (if m.src = s.dev.id then (if s.dev.bridge then s.hostPort m else s)
     else s.receive m fun s => match Msg.plain m with
       | none => s.refuseMsg m
       | some m =>
         let r := (s.resent m).memberAccess m
         match r.2 with
         | none => r.1
         | some bs => r.1.emit (replyOf m bs))

/-- HOST_REPLY: a member's answer reaches the bridge, or is sent on (12 R381, R397). -/
def execHostReply (m : Msg) (s : State) : Host.Outcome State Fault Refusal :=
  .next
    (s.receive m fun s => match Msg.plain m with
      | none => s.refuseMsg m
      | some m => (s.resent m).reply (BitVec.ofNat 64 (numLE m.data)))

end Sys2Proof.Machine
end

