-- ==== Sys2Proof/Machine/Dispatch.lean ====
section
/-! DEFINITION. What each instruction and each event does: one arm each. -/

namespace Sys2Proof.Machine

def exec (i : Instr) (s : State) : Host.Outcome State Fault Refusal :=
  match i with
  | .nop => Sys2Proof.Machine.execNop s
  | .add d a b w => Sys2Proof.Machine.execAdd d a b w s
  | .sub d a b w => Sys2Proof.Machine.execSub d a b w s
  | .and d a b => Sys2Proof.Machine.execAnd d a b s
  | .or d a b => Sys2Proof.Machine.execOr d a b s
  | .xor d a b => Sys2Proof.Machine.execXor d a b s
  | .andn d a b => Sys2Proof.Machine.execAndn d a b s
  | .orn d a b => Sys2Proof.Machine.execOrn d a b s
  | .shl d a b w => Sys2Proof.Machine.execShl d a b w s
  | .shr d a b w => Sys2Proof.Machine.execShr d a b w s
  | .sra d a b w => Sys2Proof.Machine.execSra d a b w s
  | .rot d a b => Sys2Proof.Machine.execRot d a b s
  | .slt d a b => Sys2Proof.Machine.execSlt d a b s
  | .sltn d a b => Sys2Proof.Machine.execSltn d a b s
  | .seq d a b => Sys2Proof.Machine.execSeq d a b s
  | .min d a b => Sys2Proof.Machine.execMin d a b s
  | .max d a b => Sys2Proof.Machine.execMax d a b s
  | .minn d a b => Sys2Proof.Machine.execMinn d a b s
  | .maxn d a b => Sys2Proof.Machine.execMaxn d a b s
  | .mul d a b w => Sys2Proof.Machine.execMul d a b w s
  | .mulh d a b => Sys2Proof.Machine.execMulh d a b s
  | .mulhn d a b => Sys2Proof.Machine.execMulhn d a b s
  | .div d a b w => Sys2Proof.Machine.execDiv d a b w s
  | .divn d a b w => Sys2Proof.Machine.execDivn d a b w s
  | .rem d a b w => Sys2Proof.Machine.execRem d a b w s
  | .remn d a b w => Sys2Proof.Machine.execRemn d a b w s
  | .clz d a => Sys2Proof.Machine.execClz d a s
  | .ctz d a => Sys2Proof.Machine.execCtz d a s
  | .popc d a => Sys2Proof.Machine.execPopc d a s
  | .bswap d a => Sys2Proof.Machine.execBswap d a s
  | .sel d a b => Sys2Proof.Machine.execSel d a b s
  | .addi d a imm => Sys2Proof.Machine.execAddi d a imm s
  | .andi d a imm => Sys2Proof.Machine.execAndi d a imm s
  | .ori d a imm => Sys2Proof.Machine.execOri d a imm s
  | .xori d a imm => Sys2Proof.Machine.execXori d a imm s
  | .slti d a imm => Sys2Proof.Machine.execSlti d a imm s
  | .sltni d a imm => Sys2Proof.Machine.execSltni d a imm s
  | .shli d a w n => Sys2Proof.Machine.execShli d a w n s
  | .shri d a w n => Sys2Proof.Machine.execShri d a w n s
  | .srai d a w n => Sys2Proof.Machine.execSrai d a w n s
  | .roti d a w n => Sys2Proof.Machine.execRoti d a w n s
  | .li d imm => Sys2Proof.Machine.execLi d imm s
  | .lih d imm => Sys2Proof.Machine.execLih d imm s
  | .lea d a b sx imm => Sys2Proof.Machine.execLea d a b sx imm s
  | .extf d a p l => Sys2Proof.Machine.execExtf d a p l s
  | .extfn d a p l => Sys2Proof.Machine.execExtfn d a p l s
  | .insf d a p l => Sys2Proof.Machine.execInsf d a p l s
  | .widf d f => Sys2Proof.Machine.execWidf d f s
  | .csrr d n => Sys2Proof.Machine.execCsrr d n s
  | .csrw d a n => Sys2Proof.Machine.execCsrw d a n s
  | .csrs d a n => Sys2Proof.Machine.execCsrs d a n s
  | .csrc d a n => Sys2Proof.Machine.execCsrc d a n s
  | .br c a b imm => Sys2Proof.Machine.execBr c a b imm s
  | .brl c a b imm => Sys2Proof.Machine.execBrl c a b imm s
  | .bru c a b imm => Sys2Proof.Machine.execBru c a b imm s
  | .j imm => Sys2Proof.Machine.execJ imm s
  | .jl imm => Sys2Proof.Machine.execJl imm s
  | .jr a p => Sys2Proof.Machine.execJr a p s
  | .jlr a p => Sys2Proof.Machine.execJlr a p s
  | .ret => Sys2Proof.Machine.execRet s
  | .jtab imm t b p => Sys2Proof.Machine.execJtab imm t b p s
  | .land p => Sys2Proof.Machine.execLand p s
  | .sync => Sys2Proof.Machine.execSync s
  | .barx c => Sys2Proof.Machine.execBarx c s
  | .trap imm => Sys2Proof.Machine.execTrap imm s
  | .eret => Sys2Proof.Machine.execEret s
  | .idle => Sys2Proof.Machine.execIdle s
  | .endTask => Sys2Proof.Machine.execEndTask s
  | .yield => Sys2Proof.Machine.execYield s
  | .drain sx => Sys2Proof.Machine.execDrain sx s
  | .ld r b w n o => Sys2Proof.Machine.execLd r b w n o s
  | .st r b w o => Sys2Proof.Machine.execSt r b w o s
  | .ldg r b w n o => Sys2Proof.Machine.execLdg r b w n o s
  | .stg r b w o => Sys2Proof.Machine.execStg r b w o s
  | .lda r b w n o => Sys2Proof.Machine.execLda r b w n o s
  | .str r b w o => Sys2Proof.Machine.execStr r b w o s
  | .amoAdd d b w q e sx => Sys2Proof.Machine.execAmoAdd d b w q e sx s
  | .amoAnd d b w q e sx => Sys2Proof.Machine.execAmoAnd d b w q e sx s
  | .amoOr d b w q e sx => Sys2Proof.Machine.execAmoOr d b w q e sx s
  | .amoXor d b w q e sx => Sys2Proof.Machine.execAmoXor d b w q e sx s
  | .amoMin d b w q e sx => Sys2Proof.Machine.execAmoMin d b w q e sx s
  | .amoMax d b w q e sx => Sys2Proof.Machine.execAmoMax d b w q e sx s
  | .amoMinn d b w q e sx => Sys2Proof.Machine.execAmoMinn d b w q e sx s
  | .amoMaxn d b w q e sx => Sys2Proof.Machine.execAmoMaxn d b w q e sx s
  | .amoSwp d b w q e sx => Sys2Proof.Machine.execAmoSwp d b w q e sx s
  | .cas d b c w q e sx => Sys2Proof.Machine.execCas d b c w q e sx s
  | .vadd d a b m t => Sys2Proof.Machine.execVadd d a b m t s
  | .vsub d a b m t => Sys2Proof.Machine.execVsub d a b m t s
  | .vmul d a b m t => Sys2Proof.Machine.execVmul d a b m t s
  | .vmulh d a b m t => Sys2Proof.Machine.execVmulh d a b m t s
  | .vmin d a b m t => Sys2Proof.Machine.execVmin d a b m t s
  | .vmax d a b m t => Sys2Proof.Machine.execVmax d a b m t s
  | .vabs d a m t => Sys2Proof.Machine.execVabs d a m t s
  | .vneg d a m t => Sys2Proof.Machine.execVneg d a m t s
  | .vand d a b m t => Sys2Proof.Machine.execVand d a b m t s
  | .vor d a b m t => Sys2Proof.Machine.execVor d a b m t s
  | .vxor d a b m t => Sys2Proof.Machine.execVxor d a b m t s
  | .vandn d a b m t => Sys2Proof.Machine.execVandn d a b m t s
  | .vshl d a b m t => Sys2Proof.Machine.execVshl d a b m t s
  | .vshr d a b m t => Sys2Proof.Machine.execVshr d a b m t s
  | .vsra d a b m t => Sys2Proof.Machine.execVsra d a b m t s
  | .vadds d a b m t => Sys2Proof.Machine.execVadds d a b m t s
  | .vsubs d a b m t => Sys2Proof.Machine.execVsubs d a b m t s
  | .vabsd d a b m t => Sys2Proof.Machine.execVabsd d a b m t s
  | .vclz d a m t => Sys2Proof.Machine.execVclz d a m t s
  | .vpopc d a m t => Sys2Proof.Machine.execVpopc d a m t s
  | .vcopysign d a b m t => Sys2Proof.Machine.execVcopysign d a b m t s
  | .vscale d a b m t => Sys2Proof.Machine.execVscale d a b m t s
  | .vfma d a b m t => Sys2Proof.Machine.execVfma d a b m t s
  | .vfms d a b m t => Sys2Proof.Machine.execVfms d a b m t s
  | .vfnma d a b m t => Sys2Proof.Machine.execVfnma d a b m t s
  | .vfnms d a b m t => Sys2Proof.Machine.execVfnms d a b m t s
  | .vcmpEq m a b k t => Sys2Proof.Machine.execVcmpEq m a b k t s
  | .vcmpNe m a b k t => Sys2Proof.Machine.execVcmpNe m a b k t s
  | .vcmpLt m a b k t => Sys2Proof.Machine.execVcmpLt m a b k t s
  | .vcmpLe m a b k t => Sys2Proof.Machine.execVcmpLe m a b k t s
  | .vcmpGt m a b k t => Sys2Proof.Machine.execVcmpGt m a b k t s
  | .vcmpGe m a b k t => Sys2Proof.Machine.execVcmpGe m a b k t s
  | .vcmpUn m a b k t => Sys2Proof.Machine.execVcmpUn m a b k t s
  | .vcvt d a m p sx => Sys2Proof.Machine.execVcvt d a m p sx s
  | .vredSum d a m t => Sys2Proof.Machine.execVredSum d a m t s
  | .vredMax d a m t => Sys2Proof.Machine.execVredMax d a m t s
  | .vredMin d a m t => Sys2Proof.Machine.execVredMin d a m t s
  | .vredAnd d a m t => Sys2Proof.Machine.execVredAnd d a m t s
  | .vredOr d a m t => Sys2Proof.Machine.execVredOr d a m t s
  | .vredXor d a m t => Sys2Proof.Machine.execVredXor d a m t s
  | .vredSumw d a m t => Sys2Proof.Machine.execVredSumw d a m t s
  | .vpermBcast d a h m w l => Sys2Proof.Machine.execVpermBcast d a h m w l s
  | .vpermIota d m w => Sys2Proof.Machine.execVpermIota d m w s
  | .vpermSlideup d a h m w l => Sys2Proof.Machine.execVpermSlideup d a h m w l s
  | .vpermSlidedn d a h m w l => Sys2Proof.Machine.execVpermSlidedn d a h m w l s
  | .vpermPerm d a b m w => Sys2Proof.Machine.execVpermPerm d a b m w s
  | .vpermZip d a b m w => Sys2Proof.Machine.execVpermZip d a b m w s
  | .vpermUnzip d a b m w => Sys2Proof.Machine.execVpermUnzip d a b m w s
  | .vpermRev d a m w => Sys2Proof.Machine.execVpermRev d a m w s
  | .vmathExp2 d a m t => Sys2Proof.Machine.execVmathExp2 d a m t s
  | .vmathLog2 d a m t => Sys2Proof.Machine.execVmathLog2 d a m t s
  | .vmathRcp d a m t => Sys2Proof.Machine.execVmathRcp d a m t s
  | .vmathRsqrt d a m t => Sys2Proof.Machine.execVmathRsqrt d a m t s
  | .vmathTanh d a m t => Sys2Proof.Machine.execVmathTanh d a m t s
  | .vmathSqrt d a m t => Sys2Proof.Machine.execVmathSqrt d a m t s
  | .mand d a b => Sys2Proof.Machine.execMand d a b s
  | .mor d a b => Sys2Proof.Machine.execMor d a b s
  | .mxor d a b => Sys2Proof.Machine.execMxor d a b s
  | .mnot d a => Sys2Proof.Machine.execMnot d a s
  | .mcnt sx a => Sys2Proof.Machine.execMcnt sx a s
  | .mfirst sx a => Sys2Proof.Machine.execMfirst sx a s
  | .mset sx d => Sys2Proof.Machine.execMset sx d s
  | .vsel d a b m => Sys2Proof.Machine.execVsel d a b m s
  | .vins v sx w imm => Sys2Proof.Machine.execVins v sx w imm s
  | .vext v sx w imm => Sys2Proof.Machine.execVext v sx w imm s
  | .vmv d a => Sys2Proof.Machine.execVmv d a s
  | .vscRd v sx imm => Sys2Proof.Machine.execVscRd v sx imm s
  | .vscWr v sx imm => Sys2Proof.Machine.execVscWr v sx imm s
  | .vblkBexp d a m => Sys2Proof.Machine.execVblkBexp d a m s
  | .vblkAnc d a b m => Sys2Proof.Machine.execVblkAnc d a b m s
  | .vblkUnanc d a m => Sys2Proof.Machine.execVblkUnanc d a m s
  | .vblkPlpack d a b m p => Sys2Proof.Machine.execVblkPlpack d a b m p s
  | .vblkPlunpk d a m p => Sys2Proof.Machine.execVblkPlunpk d a m p s
  | .vblkBscale d a m => Sys2Proof.Machine.execVblkBscale d a m s
  | .vscanSumi d a m t => Sys2Proof.Machine.execVscanSumi d a m t s
  | .vscanSumf d a m t => Sys2Proof.Machine.execVscanSumf d a m t s
  | .vscanMax d a m t => Sys2Proof.Machine.execVscanMax d a m t s
  | .vld v b m t o => Sys2Proof.Machine.execVld v b m t o s
  | .vst v b m t o => Sys2Proof.Machine.execVst v b m t o s
  | .vgath v b imm m t => Sys2Proof.Machine.execVgath v b imm m t s
  | .vscat v b imm m t => Sys2Proof.Machine.execVscat v b imm m t s
  | .mpush v e r => Sys2Proof.Machine.execMpush v e r s
  | .mswap => Sys2Proof.Machine.execMswap s
  | .mmode m p a sx => Sys2Proof.Machine.execMmode m p a sx s
  | .mzero r n => Sys2Proof.Machine.execMzero r n s
  | .macc v e r => Sys2Proof.Machine.execMacc v e r s
  | .mdrain v q r => Sys2Proof.Machine.execMdrain v q r s
  | .mdrainz v q r => Sys2Proof.Machine.execMdrainz v q r s
  | .cpy a b h q => Sys2Proof.Machine.execCpy a b h q s
  | .press a p q => Sys2Proof.Machine.execPress a p q s
  | .stash a b p => Sys2Proof.Machine.execStash a b p s
  | .fetch a q => Sys2Proof.Machine.execFetch a q s
  | .drop a => Sys2Proof.Machine.execDrop a s
  | .send c p => Sys2Proof.Machine.execSend c p s
  | .arm a b => Sys2Proof.Machine.execArm a b s
  | .ctradd a b => Sys2Proof.Machine.execCtradd a b s
  | .rmap a b => Sys2Proof.Machine.execRmap a b s
  | .rflush a => Sys2Proof.Machine.execRflush a s
  | .rinv a => Sys2Proof.Machine.execRinv a s
  | .waitf q => Sys2Proof.Machine.execWaitf q s
  | .rels q => Sys2Proof.Machine.execRels q s
  | .radv q => Sys2Proof.Machine.execRadv q s
  | .waitr q => Sys2Proof.Machine.execWaitr q s
  | .own a => Sys2Proof.Machine.execOwn a s
  | .vjoin => Sys2Proof.Machine.execVjoin s
  | .rinit q a => Sys2Proof.Machine.execRinit q a s
  | .arrive a => Sys2Proof.Machine.execArrive a s
  | .arriveb a b => Sys2Proof.Machine.execArriveb a b s
  | .waitph a p => Sys2Proof.Machine.execWaitph a p s
  | .hostevt core place v => Sys2Proof.Machine.execHostevt core place v s
  | .actionResume core place => Sys2Proof.Machine.execActionResume core place s
  | .actionHandler core place => Sys2Proof.Machine.execActionHandler core place s
  | .actionAbort core place => Sys2Proof.Machine.execActionAbort core place s
  | .syncRelease gang => Sys2Proof.Machine.execSyncRelease gang s
  | .tailWrite queue tail => Sys2Proof.Machine.execTailWrite queue tail s
  | .heldArrivalEntry queue => Sys2Proof.Machine.execHeldArrivalEntry queue s
  | .dogPost w => Sys2Proof.Machine.execDogPost w s
  | .dogDecide w => Sys2Proof.Machine.execDogDecide w s
  | .inval w => Sys2Proof.Machine.execInval w s
  | .migrateToDevice w => Sys2Proof.Machine.execMigrateToDevice w s
  | .migrateToHost w => Sys2Proof.Machine.execMigrateToHost w s
  | .migrationRefuse w => Sys2Proof.Machine.execMigrationRefuse w s
  | .celdecPlace w => Sys2Proof.Machine.execCeldecPlace w s
  | .celdecDrop w => Sys2Proof.Machine.execCeldecDrop w s
  | .celdecRefuse w => Sys2Proof.Machine.execCeldecRefuse w s
  | .channelData m => Sys2Proof.Machine.execChannelData m s
  | .credit m => Sys2Proof.Machine.execCredit m s
  | .barrierArrival m => Sys2Proof.Machine.execBarrierArrival m s
  | .barrierRelease m => Sys2Proof.Machine.execBarrierRelease m s
  | .absenceToken m => Sys2Proof.Machine.execAbsenceToken m s
  | .presenceToken m => Sys2Proof.Machine.execPresenceToken m s
  | .abortFlit m => Sys2Proof.Machine.execAbortFlit m s
  | .mismatch m => Sys2Proof.Machine.execMismatch m s
  | .put m => Sys2Proof.Machine.execPut m s
  | .putAccumulate m => Sys2Proof.Machine.execPutAccumulate m s
  | .getRequest m => Sys2Proof.Machine.execGetRequest m s
  | .getReply m => Sys2Proof.Machine.execGetReply m s
  | .remoteCounterAdd m => Sys2Proof.Machine.execRemoteCounterAdd m s
  | .completionAcknowledgement m => Sys2Proof.Machine.execCompletionAcknowledgement m s
  | .retrain port => Sys2Proof.Machine.execRetrain port s
  | .channelConfigure word w => Sys2Proof.Machine.execChannelConfigure word w s
  | .counterWrite die ctr w => Sys2Proof.Machine.execCounterWrite die ctr w s
  | .entryArmWrite die entry w => Sys2Proof.Machine.execEntryArmWrite die entry w s
  | .trellisRefire die entry => Sys2Proof.Machine.execTrellisRefire die entry s
  | .groupStart slot => Sys2Proof.Machine.execGroupStart slot s
  | .groupAbort slot => Sys2Proof.Machine.execGroupAbort slot s
  | .groupStartComplete slot => Sys2Proof.Machine.execGroupStartComplete slot s
  | .hostWindowAccess a => Sys2Proof.Machine.execHostWindowAccess a s
  | .hostTabdatAccess write => Sys2Proof.Machine.execHostTabdatAccess write s
  | .pcapWrite w => Sys2Proof.Machine.execPcapWrite w s
  | .dryClear zone => Sys2Proof.Machine.execDryClear zone s
  | .grantWrite word w => Sys2Proof.Machine.execGrantWrite word w s
  | .thcmd w => Sys2Proof.Machine.execThcmd w s
  | .devidWrite w => Sys2Proof.Machine.execDevidWrite w s
  | .deviceReset stage => Sys2Proof.Machine.execDeviceReset stage s
  | .registerWrite offset w => Sys2Proof.Machine.execRegisterWrite offset w s
  | .eqheadWrite w => Sys2Proof.Machine.execEqheadWrite w s
  | .stallStep => Sys2Proof.Machine.execStallStep s
  | .bundleNullified => Sys2Proof.Machine.execBundleNullified s
  | .resultDue => Sys2Proof.Machine.execResultDue s
  | .globalReply core place id => Sys2Proof.Machine.execGlobalReply core place id s
  | .translationResolved core place => Sys2Proof.Machine.execTranslationResolved core place s
  | .takePendingTrap => Sys2Proof.Machine.execTakePendingTrap s
  | .breakpoint => Sys2Proof.Machine.execBreakpoint s
  | .detectedError core place e => Sys2Proof.Machine.execDetectedError core place e s
  | .matrixBeatRetry core f => Sys2Proof.Machine.execMatrixBeatRetry core f s
  | .freezeTimeoutBeforeCommit core place => Sys2Proof.Machine.execFreezeTimeoutBeforeCommit core place s
  | .freezeTimeoutAtDue core place => Sys2Proof.Machine.execFreezeTimeoutAtDue core place s
  | .atomicReplyTimeout core place => Sys2Proof.Machine.execAtomicReplyTimeout core place s
  | .coreHung core => Sys2Proof.Machine.execCoreHung core s
  | .syncTimeout core place => Sys2Proof.Machine.execSyncTimeout core place s
  | .barrierTimeout core place => Sys2Proof.Machine.execBarrierTimeout core place s
  | .quantumExpiry => Sys2Proof.Machine.execQuantumExpiry s
  | .timer core place => Sys2Proof.Machine.execTimer core place s
  | .claimGrant cluster => Sys2Proof.Machine.execClaimGrant cluster s
  | .rampDownStep cluster => Sys2Proof.Machine.execRampDownStep cluster s
  | .queueResident queue => Sys2Proof.Machine.execQueueResident queue s
  | .queueSwitchOut queue => Sys2Proof.Machine.execQueueSwitchOut queue s
  | .recordForward queue => Sys2Proof.Machine.execRecordForward queue s
  | .placementDecision => Sys2Proof.Machine.execPlacementDecision s
  | .contextStart core place => Sys2Proof.Machine.execContextStart core place s
  | .preemptionRound => Sys2Proof.Machine.execPreemptionRound s
  | .saveComplete gang => Sys2Proof.Machine.execSaveComplete gang s
  | .groupRetirement gang core => Sys2Proof.Machine.execGroupRetirement gang core s
  | .sheepdogDecision => Sys2Proof.Machine.execSheepdogDecision s
  | .energyEstimate core uj => Sys2Proof.Machine.execEnergyEstimate core uj s
  | .regionFillComplete core tile bad => Sys2Proof.Machine.execRegionFillComplete core tile bad s
  | .migrationComplete page copyOk => Sys2Proof.Machine.execMigrationComplete page copyOk s
  | .faultQueueRetry page => Sys2Proof.Machine.execFaultQueueRetry page s
  | .invalidationComplete => Sys2Proof.Machine.execInvalidationComplete s
  | .copyFire core => Sys2Proof.Machine.execCopyFire core s
  | .copyComplete core id bad => Sys2Proof.Machine.execCopyComplete core id bad s
  | .shapeLoadComplete core place => Sys2Proof.Machine.execShapeLoadComplete core place s
  | .pressFire core => Sys2Proof.Machine.execPressFire core s
  | .pressComplete core id => Sys2Proof.Machine.execPressComplete core id s
  | .stashFire core => Sys2Proof.Machine.execStashFire core s
  | .stashStored core id => Sys2Proof.Machine.execStashStored core id s
  | .fetchFire core id => Sys2Proof.Machine.execFetchFire core id s
  | .fetchComplete core id => Sys2Proof.Machine.execFetchComplete core id s
  | .dropFire core => Sys2Proof.Machine.execDropFire core s
  | .sendFire core => Sys2Proof.Machine.execSendFire core s
  | .sendComplete core id => Sys2Proof.Machine.execSendComplete core id s
  | .armFire core => Sys2Proof.Machine.execArmFire core s
  | .ctraddFire core => Sys2Proof.Machine.execCtraddFire core s
  | .rmapFire core => Sys2Proof.Machine.execRmapFire core s
  | .rflushFire core => Sys2Proof.Machine.execRflushFire core s
  | .rinvFire core => Sys2Proof.Machine.execRinvFire core s
  | .cellarPrefetchMove key => Sys2Proof.Machine.execCellarPrefetchMove key s
  | .nvmeCompletion id ok => Sys2Proof.Machine.execNvmeCompletion id ok s
  | .hostRequest m => Sys2Proof.Machine.execHostRequest m s
  | .hostReply m => Sys2Proof.Machine.execHostReply m s
  | .flitCrcFailure port resendOk => Sys2Proof.Machine.execFlitCrcFailure port resendOk s
  | .portRetrainEnd port ok => Sys2Proof.Machine.execPortRetrainEnd port ok s
  | .tabdatLowRead => Sys2Proof.Machine.execTabdatLowRead s
  | .tabdatHighRead => Sys2Proof.Machine.execTabdatHighRead s
  | .balanceWindowEnd yoke => Sys2Proof.Machine.execBalanceWindowEnd yoke s
  | .powerCapCheck => Sys2Proof.Machine.execPowerCapCheck s
  | .junctionSample => Sys2Proof.Machine.execJunctionSample s
  | .thermalEvaluation die => Sys2Proof.Machine.execThermalEvaluation die s
  | .valveStep zone => Sys2Proof.Machine.execValveStep zone s
  | .coolantDryCondition zone => Sys2Proof.Machine.execCoolantDryCondition zone s
  | .coolantFlowCondition zone => Sys2Proof.Machine.execCoolantFlowCondition zone s
  | .evacuationFlushEnd zone => Sys2Proof.Machine.execEvacuationFlushEnd zone s
  | .attcmd => Sys2Proof.Machine.execAttcmd s
  | .attestationReportDone ok => Sys2Proof.Machine.execAttestationReportDone ok s
  | .drainSatisfied core place => Sys2Proof.Machine.execDrainSatisfied core place s
  | .preemptionReplyTimeout core place => Sys2Proof.Machine.execPreemptionReplyTimeout core place s
  | .reservedKindFlit port => Sys2Proof.Machine.execReservedKindFlit port s

end Sys2Proof.Machine
end

