-- ==== Sys2Proof/Machine/Issue.lean ====
section
/-! DEFINITION. A context's turn to issue (01 R25, R42, R45 to R49; 03 R82, R85, R90; 07 R209; 09 R294, R295; 10 R313,
R334): what comes next for it, and its bundle fetched, marked, stalled and run through exec, slot by slot. -/

namespace Sys2Proof.Machine

/-- The 32 bits of slot k in a bundle's 16 bytes (03 R79). -/
def slotBits (bs : List Byte) (k : Nat) : Nat := leWord ((bs.drop (4 * k)).take 4)

/-- A bundle's bytes decoded. -/
def decodeBytes (bs : List Byte) : BundleDec :=
  decodeBundle (slotBits bs 0) (slotBits bs 1) (slotBits bs 2) (slotBits bs 3)

/-- A slot that is a no-operation (03 R82). -/
def slotEmpty (d : SlotDec) : Bool :=
  match d.op with
  | .ok .nop => true
  | _ => false

/-- The slots that hold something; the first one where none does. -/
def liveSlots (b : BundleDec) : List SlotDec :=
  match b.slots.filter fun d => !slotEmpty d with
  | [] => b.slots.take 1
  | l => l

/-- The bundle is a restart mark before it issues: its header says so, or it holds a handoff (03 R85; 07 R209). -/
def marksBundle (b : BundleDec) : Bool :=
  (b.header.map Header.mark).getD false || b.slots.any fun d => match d.op with
    | .ok i => i.handoff
    | .error _ => false

/-- The stall count of a bundle (03 R85). -/
def stallOf (b : BundleDec) : Nat := (b.header.map Header.stall).getD 0

/-- The open bundle with its slot at hand. -/
def State.atSlot (s : State) (d : SlotDec) : State :=
  { s with bundle := s.bundle.map fun b => { b with slot := d.slot, ext := d.ext } }

/-- A slot that fails one of checks 1 to 5 put in the open bundle (03 R82). -/
def State.stageBad (s : State) (d : SlotDec) (f : SlotFault) : State :=
  { s with bundle := s.bundle.map fun b =>
      { b with staged := b.staged ++
          [{ slot := d.slot, word := 1, instr := none, bad := some (f.cause, f.info), plan := SlotPlan.empty }] } }

/-- The slots of the open bundle in ascending order, then its commit, block or trap (01 R49). -/
def runSlots : List SlotDec → State → Host.Outcome State Fault Refusal
  | [], s => .next s.closeBundle
  | d :: ds, s =>
    match d.op with
    | .error f => runSlots ds (s.stageBad d f)
    | .ok i =>
      match exec i (s.atSlot d) with
      | .next t => runSlots ds t
      | .fault f => .fault f
      | .refused r => .refused r

/-- A bundle comes to issue for the first time: its mark is taken and its stall steps begin (03 R90; 07 R209). One whose
context was parked before it issued goes on with the steps it has left. -/
def State.beginUnit (s : State) (b : BundleDec) : State :=
  if s.fctx.inUnit then s.modCtx s.fc s.fp fun x => { x with turnStart := false }
  else (if marksBundle b then s.takeMark s.fc s.fp else s).modCtx s.fc s.fp fun x =>
    { x with inUnit := true, turnStart := false, stalls := stallOf b }

/-- The bundle at PC: a stall step while any is left, else its slots (03 R90), with what its fetch found. -/
def State.runBundle (s : State) (b : BundleDec) (pre : List Act) : Host.Outcome State Fault Refusal :=
  let s := s.beginUnit b
  if s.fctx.stalls ≠ 0 then execStallStep s
  else
    let s := s.openBundle b.header 0 none
    runSlots (liveSlots b) { s with bundle := s.bundle.map fun o => { o with pre := pre } }

/-- The bundle at PC fetched (04 R134; 01 R49), a conflict of its translations noted (10 R324). An address of the register window is
translated as any other (DESIGN CHOICE, log entry 93). -/
def State.fetchBundle (s : State) : Host.Outcome State Fault Refusal :=
  let a := s.bundleAddr
  match s.translate s.fc s.fctx .fetch a with
  | .fault c => .next ((s.spend s.fc).trapEnter s.fc s.fp c (BitVec.ofNat 64 a) 0)
  | .miss => .next (s.freezeOn (.xlate a))
  | .migrate va => .next (s.waitOn (.migrate va))
  | .ok pa => s.runBundle (decodeBytes (s.fctx.fetchBytes pa)) (s.conflictActs (BitVec.ofNat 64 a))

/-- The quantum's end comes before the pending traps of ranks 9 and 10 (10 R314); behind the others it waits, or the turn ends with
the first of them (State.trapEnter). -/
def State.quantumFirst (s : State) (x : Ctx) : Bool :=
  s.quantumUp s.fc x && (match x.nextPend with
    | some q => x.qtrap && decide (8 < q.cause.rank)
    | none => true)

/-- A context stands at a boundary: before a bundle comes to issue, or at the start of the turn after a park that left its bundle
unissued (10 R313, R326). -/
def Ctx.atBoundary (x : Ctx) : Bool := !x.inUnit || x.turnStart

/-- One move of the context at the focus: what is due, then at a boundary the traps, then its bundle. -/
def State.issueOne (s : State) : Host.Outcome State Fault Refusal :=
  match s.fctx? with
  | none => .next s
  | some x =>
    if s.hasDue s.fc s.fp then execResultDue s
    else if x.atBoundary && s.quantumFirst x then execQuantumExpiry s
    else if x.atBoundary && x.nextPend.isSome then
      (match execTakePendingTrap s with
        | .next t => .next (t.spend s.fc)
        | o => o)
    else match x.lateId with
      | some i => .next (s.freezeOn (.reply i))
      | none =>
        if x.atBoundary && x.atBreakpoint then execBreakpoint s
        else if x.arch.pc.n then execBundleNullified s
        else s.fetchBundle

/-- A gang that is being saved (10 R329). -/
def State.savingGang (s : State) (g : Nat) : Bool :=
  match Tab.find? s.dev.gangs g with
  | some q => q.st == .saving
  | none => false

/-- A context may issue: its core is not held in reset (13 R424), its placement has started (09 R290, R293), it is ready, not staggered, not stopped at a boundary for
pre-emption (10 R329), and its core is not clamped, or it ends a bundle begun before (13 R406, R413), and not offline with its
die (13 R414). -/
def State.mayIssue (s : State) (c p : Nat) (x : Ctx) : Bool :=
  let ends := (x.inUnit && !x.turnStart) || (match (s.core c).freeze with
    | some f => f.place == p
    | none => false)
  !s.dev.coresHeld && x.run == .ready && decide (x.startAt ≤ s.cycle) && !s.staggered c p && (!s.savingGang x.gang || ends) && !(s.core c).offline &&
    (!(s.core c).clamped || (s.savingGang x.gang && ends))

/-- The context that a core issues from in this cycle: none while it still runs the sub-bundles of one (13 R403), else the one its
freeze was on account of, else the holder of the turn, else the first ready one after it (09 R294). -/
def State.issuer (s : State) (c : Nat) : Option Nat :=
  let k := s.core c
  if s.frozen c || decide (s.cycle < k.busy) || k.split.isSome then none
  else
    let ok (p : Nat) : Bool := match Tab.find? k.ctxs p with
      | some x => s.mayIssue c p x
      | none => false
    match k.freeze with
    | some f => if ok f.place then some f.place else none
    | none => ((List.range 4).map fun i => (k.turn + i) % 4).find? ok

/-- A context takes its core's turn; a turn begins at a switch (09 R294, R295). -/
def State.takeTurn (s : State) (c p : Nat) : State :=
  let s := { s with focus := (c, p) }
  if (s.core c).turn = p then s else s.modCore c fun k => { k with turn := p, turnSteps := 0 }

/-- A context's turn to issue, if it is its core's issuer: one that was parked silently is absent no more (10 R331). -/
def State.issue (s : State) (c p : Nat) : Host.Outcome State Fault Refusal :=
  if s.issuer c = some p then ((s.tellPresence c p).takeTurn c p).issueOne else .next s

/-- The addresses that a jump reads: of the table, then of the target (04 R128, R129). -/
def State.readsOf (s : State) (i : Instr) : List Nat :=
  match i with
  | .jr a _ | .jlr a _ => [(s.sreg a).toNat]
  | .ret => [(s.sreg 63).toNat]
  | .jtab i t _ _ =>
    let ea := (s.sreg t + 8 * s.sreg i).toNat
    match s.dataXlate .read ea 8 with
    | .ok pa => [ea, (s.tableWord ea pa).toNat]
    | _ => [ea]
  | _ => []

/-- The addresses that a jump of the bundle at PC reads, for the context at the focus. -/
def State.readsAhead (s : State) : List Nat :=
  match s.translate s.fc s.fctx .fetch s.bundleAddr with
  | .ok pa => (decodeBytes (s.fctx.fetchBytes pa)).slots.flatMap fun d => match d.op with
    | .ok i => s.readsOf i
    | .error _ => []
  | _ => []

/-- The reply to one of the target and table reads of the bundle that would now issue from a core does not come: the core freezes
(10 R325). -/
def State.lateRead (s : State) (c n : Nat) : State :=
  match s.issuer c with
  | none => s
  | some p =>
    match s.issue c p with
    | .next t =>
      let u := s.takeTurn c p
      if (t.ctx? c p).map Ctx.stepNo = some (u.fctx.stepNo + 1) ∧ u.fctx.arch.pc.n = false ∧ u.fctx.stalls = 0 then
        match u.readsAhead[n]? with
        | some va => u.freezeOn (.read va true)
        | none => s
      else s
    | _ => s

/-- A late reply to a target or table read comes (10 R325). -/
def State.lateReply (s : State) (c : Nat) : State :=
  s.modCore c fun k => { k with freeze := k.freeze.map fun f => match f.kind with
    | .read va _ => { f with kind := .read va false }
    | _ => f }

end Sys2Proof.Machine
end

