-- ==== Sys2Proof/Machine/Auto.lean ====
section
/-! DEFINITION. What happens without an instruction: the moves that the agents of the device make as soon as they may (an
event whose occasion is absent changes nothing and is passed over), and the cycle. The manual gives engines, replies and
messages no durations: here they take none unless the agenda says otherwise (log entry 40). -/

namespace Sys2Proof.Machine

/-- What a context blocks on has come (07 R211, R218, R238 to R247; 08 R256; 11 R341). An idle context goes on where a
trap is pending that it may not take yet. -/
def State.unblocked (s : State) (c p : Nat) (x : Ctx) (b : Block) : Bool :=
  let k := s.core c
  match b with
  | .ringFilled q => (k.ring q).occ != 0
  | .ringRoom q => (k.ring q).occ != (k.ring q).count
  | .phase off ph => bit (k.spWord off) 63 != ph
  | .sync => x.actIn
  | .barx ch => x.barSent.any fun b => b.1 == ch && b.2.2
  | .drain _ => s.drained c p
  | .queuePlaces e n => decide ((k.cmds.countP fun m => m.eng == e) + n ≤ Config.queuePlaces)
  | .fill ts => (ts.all fun t => !k.unfilled t) || x.fillBad.any fun f => ts.contains f.1
  | .shapes glob a n => (x.recordsOf glob a n).isSome
  | .ending => k.cmds.all fun m => m.place != p
  | .idle => !x.pends.isEmpty && x.nextPend.isNone

/-- The event f for the context at a place. -/
def atPlace (f : State → Host.Outcome State Fault Refusal) (c p : Nat) (s : State) : State :=
  { s with focus := (c, p) }.after f

/-- A core takes no trap: a freeze holds it, it is clamped with its yoke, or offline with its die (10 R313; 13 R413, R414). -/
def State.trapless (s : State) (c : Nat) : Bool := s.frozen c || (s.core c).clamped || (s.core c).offline

/-- The moves of a blocked context: it takes a pending trap at once, else its wait ends (10 R313). -/
def State.blockMoves (s : State) (c p : Nat) (x : Ctx) : List (State → State) :=
  match x.run with
  | .blocked b _ =>
    if x.nextPend.isSome && !s.trapless c && !s.savingGang x.gang then [atPlace execTakePendingTrap c p]
    else if s.unblocked c p x b then [fun s => s.modCtx c p fun x => { x with run := .ready }]
    else [fun s => s.after (execDrainSatisfied c p), fun s => s.after (execShapeLoadComplete c p)]
  | _ => []

/-- The moves of a context beside its issue. -/
def State.ctxMoves (s : State) (c p : Nat) (x : Ctx) : List (State → State) :=
  (x.acc.map fun a => fun (s : State) => s.performOne c p a.id) ++
    ((x.acc.filter fun a => a.got.isSome).map fun a => fun (s : State) => s.after (execGlobalReply c p a.id)) ++
    s.blockMoves c p x ++
    [fun s => s.after (execContextStart c p), fun s => s.after (execTimer c p), fun s => s.after (execSyncTimeout c p),
      fun s => s.after (execBarrierTimeout c p), fun s => s.after (execAtomicReplyTimeout c p),
      fun s => s.after (execPreemptionReplyTimeout c p)]

/-- The moves of a core's freeze: the walk or the reply it waits on comes, or it has lasted too long (11 R366; 10 R325 to R328). -/
def State.freezeMoves (s : State) (c : Nat) : List (State → State) :=
  match (s.core c).freeze with
  | none => []
  | some f =>
    if s.thawed c f then []
    else [fun s => s.after (execTranslationResolved c f.place), fun s => s.after (execFreezeTimeoutBeforeCommit c f.place),
          fun s => s.after (execFreezeTimeoutAtDue c f.place), fun s => s.after (execCoreHung c), fun s => s.lateReply c]

/-- A command that waits for a page or for fills waits on (08 R256, R263). -/
def State.cmdHeld (s : State) (m : Cmd) : Bool :=
  (match m.page with
    | some p => !s.pageHere p
    | none => false) || m.waitTiles.any fun t => (s.core t.1).unfilled t.2

/-- The move of a command that has fired or waits aside. -/
def cmdMove (c : Nat) (m : Cmd) (s : State) : State :=
  match m.fn with
  | 0 => s.after (execCopyComplete c m.id none)
  | 1 => s.after (execPressComplete c m.id)
  | 2 => s.after (execStashStored c m.id)
  | 3 => s.after (if m.st = .aside then execFetchFire c m.id else execFetchComplete c m.id)
  | 4 => s.after (execDropFire c)
  | 5 => s.after (execSendComplete c m.id)
  | _ => s

/-- The move of the head of an engine's queue. -/
def headMove (c : Nat) (m : Cmd) (s : State) : State :=
  match m.fn with
  | 0 => s.after (execCopyFire c)
  | 1 => s.after (execPressFire c)
  | 2 => s.after (execStashFire c)
  | 3 => s.after (execFetchFire c m.id)
  | 4 => s.after (execDropFire c)
  | 5 => s.after (execSendFire c)
  | 6 => s.after (execArmFire c)
  | 7 => s.after (execCtraddFire c)
  | 8 => s.after (execRmapFire c)
  | 9 => s.after (execRflushFire c)
  | _ => s.after (execRinvFire c)

/-- The moves of a core's engines (07 R212, R213; 11). -/
def State.engineMoves (s : State) (c : Nat) : List (State → State) :=
  let k := s.core c
  ((k.tiles.filter fun t => t.2.filling).map fun t => fun (s : State) => s.after (execRegionFillComplete c t.1 none)) ++
    ((k.cmds.filter fun m => m.st != .queued && s.cmdRuns c m && !s.cmdHeld m).map fun m => cmdMove c m) ++
    (List.range 5).filterMap fun e =>
      match s.nextFor c e with
      | some m => if s.cmdHeld m then none else some (headMove c m)
      | none => none

/-- The rest of a bundle split into sub-bundles goes on in a cycle (13 R403): not while its core is frozen, staggered or offline
(01 R45; 13 R406, R414), nor clamped but for a gang that is being saved (13 R413). -/
def State.splitMoves (s : State) (c : Nat) : List (State → State) :=
  match (s.core c).split with
  | none => []
  | some q =>
    let saving := ((s.ctx? c q.place).map fun x => s.savingGang x.gang).getD false
    if s.frozen c || decide (s.cycle < (s.core c).busy) || s.staggered c q.place || (s.core c).offline ||
        ((s.core c).clamped && !saving) then []
    else [fun s => s.runSub c]

/-- The moves of one core. -/
def State.coreMoves (s : State) (c : Nat) : List (State → State) :=
  s.freezeMoves c ++ s.splitMoves c ++ ((s.core c).ctxs.flatMap fun q => s.ctxMoves c q.1 q.2) ++ s.engineMoves c

/-- The moves of one gang (07 R240; 09 R310; 10 R329). -/
def gangMoves (id : Nat) (g : Gang) : List (State → State) :=
  [fun s => s.after (execSyncRelease id), fun s => s.after (execSaveComplete id)] ++
    g.coresLeft.map fun i => fun (s : State) => s.after (execGroupRetirement id (g.cores.getD i 0))

/-- The moves of the launch queues and the dispatcher (09 R279, R281, R286, R297, R300). -/
def State.launchMoves (s : State) : List (State → State) :=
  (s.dev.pendingQ.map fun q => fun (s : State) => s.after (execQueueResident q)) ++
    (s.dev.resident.map fun q => fun (s : State) => s.after (execQueueSwitchOut q)) ++
    (s.dev.resident.map fun q => fun (s : State) => s.after (execRecordForward ⟨q, none⟩)) ++
    (s.dev.heldArr.map fun h => fun (s : State) => s.after (execHeldArrivalEntry h.1)) ++
    (if s.dev.dogDue then [fun s => s.after execSheepdogDecision] else []) ++
    (if s.dev.placeDue then [fun s => s.after execPlacementDecision] else [])

/-- The moves of the map unit (08 R265; 11 R367, R369). -/
def State.mapMoves (s : State) : List (State → State) :=
  let late := (s.die0.faultq ++ s.die1.faultq).filter fun e => !e.queued && decide (e.refusedAt + 4096 ≤ s.cycle)
  let ends : List (State → State) := s.dev.migs.map fun g s => s.after (execMigrationComplete g.page true)
  let begins : List (State → State) := match s.nextMigration with
    | some p => [fun s => s.beginMigration p false]
    | none => []
  let again : List (State → State) := late.map fun e s => s.after (execFaultQueueRetry e.page)
  ends ++ begins ++ again ++ [State.performSaved] ++ if s.dev.invBusy.isSome then [fun s => s.after execInvalidationComplete] else []

/-- The moves of the device's other agents (11 R360, R361; 12 R385, R387; 13 R406, R425). -/
def State.devMoves (s : State) : List (State → State) :=
  ((s.dev.nvmeOps.filter fun o => o.pair.isSome).map fun o => fun (s : State) => s.after (execNvmeCompletion o.id true)) ++
    [State.retryMsg, fun (s : State) => s.startOps 0, fun (s : State) => s.startOps 1,
      fun (s : State) => s.after (execAttestationReportDone true)] ++
    (s.dev.clusters.map fun k => fun (s : State) => s.after (execClaimGrant k.1)) ++
    (s.dev.prefs.map fun p => fun (s : State) => s.after (execCellarPrefetchMove (BitVec.ofNat 24 p.key)))

/-- Every move that some agent may be able to make, in the order in which they are tried (MODEL). -/
def State.moves (s : State) : List (State → State) :=
  s.devMoves ++ s.mapMoves ++ (s.dev.gangs.flatMap fun g => gangMoves g.1 g.2) ++ s.launchMoves ++
    s.cores.flatMap fun q => s.coreMoves q.1

/-- The first move that changes anything. -/
def State.firstMove (s : State) : Option State :=
  s.moves.findSome? fun f => if f s = s then none else some (f s)

/-- Messages of a port that have left, so many flits being left to send. -/
def dropSent (p left : Nat) : List (Nat × Msg) → List (Nat × Msg)
  | [] => []
  | q :: qs =>
    if q.1 = p ∧ left ≤ (qs.filter fun r => r.1 == p).foldl (fun n r => n + Msg.flits r.2) 0 then dropSent p left qs
    else q :: dropSent p left qs

/-- The die that carries a port: X+, X−, Y+, Y− and D+ die 0, Z+, Z− and D− die 1 (00 R3; 12 R371). -/
def portDie (p : Nat) : Nat := if p < 4 ∨ p = 6 then 0 else 1

/-- Flits a port sends in a cycle: 1.75 × 10^9 a second against 1.2 × 10^9 cycles, one eighth of it while its die is held
back (12 R371; 13 R414; log entry 41). -/
def State.flitsNow (s : State) (p : Nat) : Nat :=
  let slow := if s.dev.slowDies.contains (portDie p) then 8 else 1
  35 * (s.cycle + 1) / (24 * slow) - 35 * s.cycle / (24 * slow)

/-- A port that is up sends for one cycle (12 R371). The messages whose last flit has left are gone (12 R379). -/
def State.sendPort (s : State) (p : Nat) : State :=
  let q := Tab.get s.dev.ports Port.reset p
  if q.state ≠ 2 ∨ q.queued = 0 then s
  else
    let left := q.queued - s.flitsNow p
    let kept := dropSent p left s.dev.outbox
    let gone := (s.dev.outbox.filter fun o => o.1 == p).take (s.dev.outbox.length - kept.length)
    gone.foldl (fun s o => s.leftDevice o.2)
      (s.modDev fun d => { d with ports := Tab.set d.ports p { q with queued := left }.judge, outbox := kept })

/-- The cycle as it ends: sync objects (07 R237), the Trellis (12 R384), then aborts (12 R393), the ports (12 R371), and filler
beats where it ends a 4-cycle step (13 R407). -/
def State.endCycle (s : State) : State :=
  let s := ((s.sobjEnd.trellisEnd 0).trellisEnd 1).abortsEnd
  let s := (List.range 8).foldl State.sendPort s
  if s.cycle % 4 = 3 then
    (s.dev.clusters.map Prod.fst ++ (s.cores.filter fun q => !q.2.mats.isEmpty).map fun q => clusterOf q.1).eraseDups.foldl
      (fun s k => s.after (execRampDownStep k)) s
  else s

/-- Whether a period ends with the cycle that begins. -/
def State.every (s : State) (n : Nat) : Bool := s.cycle % n == 0

/-- Events of every so many cycles (09 R291; 13 R400, R404, R407, R411, R415, R416, R421). What an estimator adds is a free
value (log entry 7). -/
def State.periodic (s : State) : State :=
  let s := if s.every 1024 then
      s.cores.foldl (fun s q =>
        if (s.gangOn q.1).isSome then
          (s.after (execEnergyEstimate q.1 (Config.freeWord (freeKey s.free 9)).toNat)).takeFree 1
        else s) s
    else s
  let s := if s.every 65536 then s.after execPreemptionRound else s
  let s := if s.every 1200 then (List.range 20).foldl (fun s z => s.after (execValveStep z)) s else s
  let s := if s.every 12000 then s.after execJunctionSample else s
  let s := if s.every 120000 then (List.range 18).foldl (fun s y => s.after (execBalanceWindowEnd y)) s else s
  if s.every 1200000 then
    [0, 1].foldl (fun s d => s.after (execThermalEvaluation d)) (s.after execPowerCapCheck)
  else s

/-- The sensors tested, and what they raise (13 R412, R413). -/
def State.sensors (s : State) : State :=
  let s := s.sense
  let s := if s.dev.sensors.isEmpty then s
    else ((List.range 20) ++ [31]).foldl (fun s z =>
      (if z < 20 then s.after (execCoolantDryCondition z) else s).after (execCoolantFlowCondition z)) s
  s.dev.evacs.foldl (fun s e => s.after (execEvacuationFlushEnd e.1)) s

/-- What was left over for this cycle: entries of the Trellis, which are judged as it ends, and group slots met at their START (12
R384, R391). -/
def State.leftOver (s : State) : State :=
  let s := [0, 1].foldl (fun s d => s.modDie d fun v => { v with due := v.refire, refire := [] }) s
  (s.dev.groups.filter fun g => g.2.startMet).foldl (fun s g =>
    (s.after (execGroupStartComplete g.1)).modGroup g.1 fun q => { q with startMet := false }) s

/-- The timers of the contexts that pre-emption has saved (10 R333). -/
def State.timeSaved (s : State) : State := s.mapSaved (Ctx.timed s.cycle)

/-- A cycle passes (01 R45). -/
def State.tick (s : State) : State :=
  let s := s.endCycle
  ({ s with cycle := s.cycle + 1 }.timeSaved.leftOver.sensors).periodic

/-- The core and context that issue next in this cycle: the lowest core that may. -/
def State.nextIssue (s : State) : Option (Nat × Nat) :=
  s.cores.findSome? fun q => (s.issuer q.1).map fun p => (q.1, p)

/-- The events that the clock and the issue of contexts bring about by themselves: the agenda offers none of them. -/
def inner : Instr → Bool
  | .stallStep | .bundleNullified | .resultDue | .takePendingTrap | .breakpoint | .quantumExpiry | .rampDownStep _
  | .preemptionRound | .energyEstimate _ _ | .trellisRefire _ _ | .groupStartComplete _ | .balanceWindowEnd _
  | .powerCapCheck | .junctionSample | .thermalEvaluation _ | .valveStep _ => true
  | _ => false

/-- What the agenda may offer: an event, not an operation. -/
def offered (i : Instr) : Bool := (encodeNat i).isNone && !inner i && i.wf

/-- The events that are accesses to the register window beyond its identity block, by the host or a supervisor (12 R394). -/
def beyondIdentity : Instr → Bool
  | .hostevt _ _ _ | .actionResume _ _ | .actionHandler _ _ | .actionAbort _ _ | .tailWrite _ _ | .dogPost _ | .dogDecide _
  | .inval _ | .migrateToDevice _ | .migrateToHost _ | .migrationRefuse _ | .celdecPlace _ | .celdecDrop _ | .celdecRefuse _
  | .retrain _ | .channelConfigure _ _ | .counterWrite _ _ _ | .entryArmWrite _ _ _ | .groupStart _ | .groupAbort _
  | .pcapWrite _ | .dryClear _ | .grantWrite _ _ | .thcmd _ | .eqheadWrite _ => true
  | _ => false

/-- A translation evicted from a buffer (11 R366). -/
def dropPage (va : Nat) (es : List TlbEnt) : List TlbEnt := es.filter fun e => !e.covers va

/-- One move of the agenda. A device whose boot was refused answers no access beyond its identity block (13 R424). -/
def State.move (s : State) (m : Move) : Host.Outcome State Fault Refusal :=
  match m with
  | .event i => if offered i && !(s.dev.refused && beyondIdentity i) then exec i s else .next s
  | .issue c p => s.issue c p
  | .perform c p id => .next (s.performOne c p id)
  | .evict d va => .next (s.modDie d fun v => { v with tlb := dropPage va v.tlb })
  | .evictCore c va => .next (s.modCore c fun k => { k with utlb := dropPage va k.utlb })
  | .lateRead c n => .next (s.lateRead c n)
  | .lateReply c => .next (s.lateReply c)
  | .tick => .next s.tick
  | .flow z v => .next (if z < 20 then s.modValve (4 * z + 1) fun w => setFld w 15 0 v else s)
  | .temps z i o => .next (if z < 20 then s.modValve (4 * z + 2) fun w => setFld (setFld w 31 16 i) 15 0 o else s)
  | .junction k v => .next (s.modDev fun d => { d with junction := Tab.set d.junction k (v % 256) })
  | .inflow v => .next (s.modDev fun d => { d with inmeas := v % 65536 })
  | .yokeCur y u l => .next (s.modDev fun d => { d with meters := Tab.set d.meters y (u % 65536, l % 65536) })
  | .modulePower v => .next (s.modDev fun d => { d with energyTab := Tab.set d.energyTab 200 (BitVec.ofNat 64 (v % 65536)) })
  | .supply w uj =>
    .next
      (if (64 ≤ w ∧ w < 100 ∧ w % 2 = 0) ∨ w = 100 then
         s.modDev fun d =>
           let sum := (Tab.get d.energyTab 0 w).toNat + uj
           let t := Tab.set d.energyTab w (BitVec.ofNat 64 (min sum (2 ^ 64 - 1)))
           { d with energyTab := if 2 ^ 64 ≤ sum then Tab.set t (w + 1) (setFld (Tab.get t 0 (w + 1)) 63 63 1) else t }
       else s)
  | .hostMsg m => if m.kind = 13 then execHostRequest m s else execHostReply m s
  | .hostWrite a bs => .next (s.modDev fun d => { d with hostMem := Mem.writeBytes d.hostMem a bs })

/-- What happens next where the agenda is empty: an agent's move, a context's issue, or the cycle ends. -/
def State.advanceAll (s : State) : Host.Outcome State Fault Refusal :=
  match s.firstMove with
  | some t => .next t
  | none =>
    match s.nextIssue with
    | some q => s.issue q.1 q.2
    | none => .next s.tick

end Sys2Proof.Machine
end

