-- ==== Sys2Proof/Machine/Load.lean ====
section
/-! DEFINITION. A program put where a context will run it, in the stead of the launch that a host makes (09 R276 to R290):
log entry 42. The device is then past its boot (13 R424). -/

namespace Sys2Proof.Machine

/-- The address, virtual and physical, at which the loaded bundle stands. -/
def loadAt : Nat := 0x10000

/-- The translation of the loaded bundle's page. -/
def loadPage : TlbEnt :=
  { va := loadAt, size := 0x10000, pa := loadAt, sup := false, x := true, w := true, r := true, hv := false,
    hown := false, pin := false, poison := false }

/-- The context that runs a loaded bundle: a supervisor's, with one context's full allotment of its core and two banks. -/
def loadCtx (gang : Nat) (m : Mem) : Ctx :=
  { Ctx.blank with
    arch := Arch.start (BitVec.ofNat 52 (loadAt / 16)) true 0, gang := gang, sCount := 64, vCount := 32, aCount := 256,
    rings := BitVec.allOnes 32, banks := [0, 1], holder := true, code := some { mem := m, undef := [], host := [] } }

/-- The state with a bundle of 16 bytes loaded for a context at place 0 of core 0, whose turn to issue comes next. -/
def State.loadBundle (s : State) (bs : List Byte) : State :=
  let m := Mem.writeBytes s.dev.mem loadAt bs
  let x := loadCtx s.dev.nextGang m
  { s with
    bundle := none, focus := (0, 0), agenda := .issue 0 0 :: s.agenda,
    cores := Tab.set s.cores 0
      { s.core 0 with
        ctxs := Tab.set (s.core 0).ctxs 0 x, turn := 0, turnSteps := 0, freeze := none, busy := 0, split := none, clamped := false, offline := false,
        utlb := loadPage :: (s.core 0).utlb, mat := { MatUnit.reset with holder := some 0 } },
    dev := { s.dev with
      bootst := 4, mem := m, gangs := Tab.del s.dev.gangs s.dev.nextGang, migs := s.dev.migs.filter fun g => g.page != loadAt,
      clusters := Tab.set s.dev.clusters 0
        { s.dev.cluster 0 with claims := (s.dev.cluster 0).claims.filter fun q => q.core != 0 } } }

end Sys2Proof.Machine
end

