-- ==== Sys2Proof/Machine/Step.lean ====
section
/-! DEFINITION. The step: the head of the agenda, else what the device does by itself. -/

namespace Sys2Proof.Machine

/-- One step of the machine. -/
def step (s : State) : Host.Outcome State Fault Refusal :=
  match s.agenda with
  | m :: ms => { s with agenda := ms }.move m
  | [] => s.advanceAll

/-- The state with the instruction of a table word loaded, alone in its bundle, so that the next step runs it. -/
def State.withFetchWord (s : State) (nbits w : Nat) : State :=
  s.loadBundle (bundleBytes (w % 2 ^ min nbits 32) (homeSlotOf (w % 2 ^ min nbits 32)))

end Sys2Proof.Machine
end

