-- ==== Sys2Proof/Safety.lean ====
section
/-! DEFINITION. What the claims are stated in: the canonical form of the machine's memories, when a slot operation given to
exec by itself passes the checks of 03 R82, and what one issue step of a context leaves as it was. -/

namespace Sys2Proof.Machine

/-- Every byte memory of the machine is in canonical form: the device's (08 R259), the host's and the NVMe drive's, and every
core's scratchpad (08 R249). -/
def State.memOk (s : State) : Bool :=
  Memory.wf s.dev.mem && Memory.wf s.dev.hostMem && Memory.wf s.dev.nvme && s.cores.all fun q => Memory.wf q.2.sp

/-- A step from the state goes on: no fault and no refusal. -/
def State.goesOn (s : State) : Prop := ∃ t, step s = .next t

/-- The byte of device memory at a physical address, as every access of the device reads it. -/
def State.devByte (s : State) (pa : Nat) : Byte := byteAt s.dev.mem s.dev.memUndef pa

/-- The byte of a core's scratchpad at a physical offset, as every access of the core reads it. -/
def State.padByte (s : State) (c off : Nat) : Byte := (s.core c).spByte off

/-- The context x passes checks 6 to 8 of 03 R82 for the slot operation i: i stands in no delay slot that bars it (04 R131),
the registers it names are allotted (01 R22), and with CHECK.C = 1 it reads none whose result is in flight (03 R92). -/
structure Clear (x : Ctx) (i : Instr) (names reads : List RegRef) : Prop where
  delay : 0 < x.arch.dc → i.delayBarred = false
  allotted : ∀ r ∈ names, x.outside r = false
  settled : bit x.arch.check 0 = true → x.premature reads = none

/-- The result of an operation that issues now, in flight for lat steps, n results before it in its bundle (01 R43). -/
def Ctx.flight (x : Ctx) (n lat : Nat) (v : FlightVal) : Flight :=
  { due := x.stepNo + lat, lvl := x.arch.lvl, ord := x.ord + n, val := v }

/-- What one issue step of the context at the focus leaves of the machine around it: cycle, dies, device, every other core
and context; and of its core the registers, scratchpad, rings, commands and special registers. -/
structure Around (s t : State) : Prop where
  cycle : t.cycle = s.cycle
  focus : t.focus = s.focus
  agenda : t.agenda = s.agenda
  die0 : t.die0 = s.die0
  die1 : t.die1 = s.die1
  dev : t.dev = s.dev
  otherCores : ∀ c, c ≠ s.fc → Tab.find? t.cores c = Tab.find? s.cores c
  otherPlaces : ∀ p, p ≠ s.fp → t.ctx? s.fc p = s.ctx? s.fc p
  pools : t.fcore.spool = s.fcore.spool ∧ t.fcore.vpool = s.fcore.vpool
  scratch : t.fcore.sp = s.fcore.sp ∧ t.fcore.undef = s.fcore.undef ∧ t.fcore.owner = s.fcore.owner ∧
    t.fcore.bankFmt = s.fcore.bankFmt ∧ t.fcore.tiles = s.fcore.tiles ∧ t.fcore.readyBits = s.fcore.readyBits ∧
    t.fcore.arrived = s.fcore.arrived
  engines : t.fcore.rings = s.fcore.rings ∧ t.fcore.cmds = s.fcore.cmds
  specials : t.fcore.slotmask = s.fcore.slotmask ∧ t.fcore.skew = s.fcore.skew ∧ t.fcore.tvec = s.fcore.tvec ∧
    t.fcore.watchdog = s.fcore.watchdog

/-- What one issue step leaves of the context x, which is y then, beside its queue, its results in flight, its gated stores
and its published accesses. Traps may have become pending (STEP of 10 R334, RETRY_BUDGET of 10 R323). -/
structure OneStep (x y : Ctx) : Prop where
  stepNo : y.stepNo = x.stepNo + 1
  run : y.run = .ready
  place : y.gang = x.gang ∧ y.banks = x.banks ∧ y.rings = x.rings ∧ y.sBase = x.sBase ∧ y.sCount = x.sCount ∧
    y.vBase = x.vBase ∧ y.vCount = x.vCount ∧ y.aBase = x.aBase ∧ y.aCount = x.aCount
  kept : y.regions = x.regions ∧ y.mark = x.mark ∧ y.cmds = x.cmds ∧ y.barSent = x.barSent ∧ y.ctl = x.ctl ∧
    y.bpaddr = x.bpaddr ∧ y.tcmp = x.tcmp
  pends : x.pends <+: y.pends

/-- t is s after one issue step of the context x at the focus, which is y then. -/
structure Stepped (s t : State) (x y : Ctx) : Prop where
  around : Around s t
  bundle : t.bundle = none
  ctx : t.fctx? = some y
  step : OneStep x y

/-- The slot operation i, given to exec by itself, completes: the machine goes on to a state one issue step later in which the
context's own registers are a, fs are new results in flight, gs new gated stores, as new published accesses, and the matrix
unit is m. -/
def Completes (s : State) (x : Ctx) (i : Instr) (a : Arch) (fs : List Flight) (gs : List GateEnt) (as : List Access)
    (m : MatUnit) : Prop :=
  ∃ t y, exec i s = .next t ∧ Stepped s t x y ∧ y.arch = a ∧ y.flights = x.flights ++ fs ∧ y.gate = x.gate ++ gs ∧
    y.acc = x.acc ++ as ∧ t.fcore.mat = m

/-- A slot operation that names and reads the given registers and has the given effects, and nothing that stops it. -/
def slotOf (names reads : List RegRef) (acts : List Act) : SlotPlan :=
  { SlotPlan.empty with names := names, reads := reads, acts := acts }

/-- The slot operation i takes its place in the open bundle with the effects acts: the state changes in that alone. -/
def Joins (s : State) (i : Instr) (names reads : List RegRef) (acts : List Act) : Prop :=
  s.bundle.isSome = true → exec i s = .next (s.stage i (slotOf names reads acts))

/-- The slot operation i has one result, v, in flight for lat steps, and no other effect: in an open bundle it takes its place
with that result; by itself it completes so, where the context passes checks 6 to 8, and the queue moves on by one bundle (01
R25). -/
def Computes (s : State) (x : Ctx) (i : Instr) (names reads : List RegRef) (lat : Nat) (v : FlightVal) : Prop :=
  Joins s i names reads [.result lat v] ∧
    (s.bundle = none → Clear x i names reads →
      Completes s x i (x.arch.move none) [x.flight 0 lat v] [] [] s.fcore.mat)

/-- As Computes, with the effects acts: by itself i completes with the registers a, the results fs, the gated stores gs, the
accesses as and the matrix unit m. -/
def Effects (s : State) (x : Ctx) (i : Instr) (names reads : List RegRef) (acts : List Act) (a : Arch) (fs : List Flight)
    (gs : List GateEnt) (as : List Access) (m : MatUnit) : Prop :=
  Joins s i names reads acts ∧ (s.bundle = none → Clear x i names reads → Completes s x i a fs gs as m)

/-- The vector slot i computes r under the rounding c: where no element traps, its whole register, and the flags it raises,
are in flight for lat steps, and RNGS holds the state after the draw, if it draws (05 R149, R150; 02 R68; 01 R32). -/
def VComputes (s : State) (x : Ctx) (i : Instr) (names reads : List RegRef) (lat : Nat) (d : BitVec 5)
    (c : RCtx × List Act) (r : VRes) : Prop :=
  r.trap = none →
    Effects s x i names reads (c.2 ++ vecAct lat d r.data r.side :: flagActs lat r.fl)
      (({ x.arch with rngs := c.1.s } : Arch).move none)
      (x.flight 0 lat (.vec d.toNat r.data (BitVec.allOnes 16384) r.side (BitVec.allOnes 512)) ::
        if r.fl = 0 then [] else [x.flight 1 lat (.flags r.fl)]) [] [] s.fcore.mat

/-- The state a handoff given to exec is judged in: by itself it takes a restart mark first (07 R209 step 1). -/
def State.marked (s : State) : State := if s.bundle = none then s.takeMark s.fc s.fp else s

/-- The handoff i has the effects acts: in an open bundle it takes its place with them; by itself, where its context x (which
has taken its first mark) passes checks 6 to 8, it takes its step, to the registers a, its stores are published, eff takes
place, a second mark is taken, and after follows (07 R209; 04 R140). -/
def Hands (s : State) (x : Ctx) (i : Instr) (names reads : List RegRef) (acts : List Act) (a : Arch)
    (eff after : State → State) : Prop :=
  Joins s i names reads acts ∧ (s.bundle = none → Clear x i names reads →
    ∃ t y, Stepped s.marked t x y ∧ y.arch = a ∧ y.flights = x.flights ∧ y.gate = x.gate ∧ y.acc = x.acc ∧
      t.fcore.mat = s.marked.fcore.mat ∧
      exec i s = .next
        (after (((eff (t.publishGate s.fc s.fp)).closeWindow s.fc s.fp).takeMark s.fc s.fp)))

/-- The event i, whose occasion the state s holds, leads to a state as P says. -/
def Leads (s : State) (i : Instr) (P : State → Prop) : Prop := ∃ t, exec i s = .next t ∧ P t

/-- The events: every instruction that is no slot operation. -/
def Instr.isEvent : Instr → Bool
  | .hostevt _ _ _ | .actionResume _ _ | .actionHandler _ _ | .actionAbort _ _ | .syncRelease _ | .tailWrite _ _
  | .heldArrivalEntry _ | .dogPost _ | .dogDecide _ | .inval _ | .migrateToDevice _ | .migrateToHost _
  | .migrationRefuse _ | .celdecPlace _ | .celdecDrop _ | .celdecRefuse _ | .channelData _ | .credit _
  | .barrierArrival _ | .barrierRelease _ | .absenceToken _ | .presenceToken _ | .abortFlit _ | .mismatch _ | .put _
  | .putAccumulate _ | .getRequest _ | .getReply _ | .remoteCounterAdd _ | .completionAcknowledgement _ | .retrain _
  | .channelConfigure _ _ | .counterWrite _ _ _ | .entryArmWrite _ _ _ | .trellisRefire _ _ | .groupStart _
  | .groupAbort _ | .groupStartComplete _ | .hostWindowAccess _ | .hostTabdatAccess _ | .pcapWrite _ | .dryClear _
  | .grantWrite _ _ | .thcmd _ | .devidWrite _ | .deviceReset _ | .registerWrite _ _ | .eqheadWrite _ | .stallStep
  | .bundleNullified | .resultDue | .globalReply _ _ _ | .translationResolved _ _ | .takePendingTrap | .breakpoint
  | .detectedError _ _ _ | .matrixBeatRetry _ _ | .freezeTimeoutBeforeCommit _ _ | .freezeTimeoutAtDue _ _
  | .atomicReplyTimeout _ _ | .coreHung _ | .syncTimeout _ _ | .barrierTimeout _ _ | .quantumExpiry | .timer _ _
  | .claimGrant _ | .rampDownStep _ | .queueResident _ | .queueSwitchOut _ | .recordForward _ | .placementDecision
  | .contextStart _ _ | .preemptionRound | .saveComplete _ | .groupRetirement _ _ | .sheepdogDecision
  | .energyEstimate _ _ | .regionFillComplete _ _ _ | .migrationComplete _ _ | .faultQueueRetry _
  | .invalidationComplete | .copyFire _ | .copyComplete _ _ _ | .shapeLoadComplete _ _ | .pressFire _
  | .pressComplete _ _ | .stashFire _ | .stashStored _ _ | .fetchFire _ _ | .fetchComplete _ _ | .dropFire _
  | .sendFire _ | .sendComplete _ _ | .armFire _ | .ctraddFire _ | .rmapFire _ | .rflushFire _ | .rinvFire _
  | .cellarPrefetchMove _ | .nvmeCompletion _ _ | .hostRequest _ | .hostReply _ | .flitCrcFailure _ _
  | .portRetrainEnd _ _ | .tabdatLowRead | .tabdatHighRead | .balanceWindowEnd _ | .powerCapCheck | .junctionSample
  | .thermalEvaluation _ | .valveStep _ | .coolantDryCondition _ | .coolantFlowCondition _ | .evacuationFlushEnd _
  | .attcmd | .attestationReportDone _ | .drainSatisfied _ _ | .preemptionReplyTimeout _ _ | .reservedKindFlit _ => true
  | _ => false

/-- The state does not hold the occasion of an event: what the event acts on is not there, or is not at the point at which it
acts (log entry 58: such an event changes nothing). Events that may always happen lack no occasion. -/
def State.lacks (s : State) : Instr → Prop
  | .stallStep => ∀ x, s.fctx? = some x → x.stalls = 0
  | .bundleNullified => ∀ x, s.fctx? = some x → x.arch.pc.n = false
  | .resultDue => s.fctx? = none
  | .takePendingTrap => ∀ x, s.fctx? = some x → x.nextPend = none
  | .breakpoint => ∀ x, s.fctx? = some x → x.atBreakpoint = false
  | .quantumExpiry => ∀ x, s.fctx? = some x → s.quantumUp s.fc x = false
  | .translationResolved c p => ∀ f, (s.core c).freeze = some f → f.place = p → ∀ va, f.kind ≠ .xlate va
  | .timer c p => ∀ x, s.ctx? c p = some x → bit x.ctl 4 = false ∨ s.cycle < x.tcmp.toNat ∨ x.hasPend .timer = true
  | .hostevt c p _ => s.ctx? c p = none
  | .drainSatisfied c p => ∀ x, s.ctx? c p = some x → ∀ b n, x.run ≠ .blocked b n
  | .syncTimeout c p => ∀ x n, s.ctx? c p = some x → x.run = .blocked .sync n →
    s.cycle - n + x.syncWait ≤ 4096 * fld (s.core c).watchdog 31 0 ∨ x.hasPend .syncTimeout = true
  | .barrierTimeout c p => (s.ctx? c p).bind s.barLate = none
  | .freezeTimeoutBeforeCommit c p => ∀ f, (s.core c).freeze = some f →
    f.place ≠ p ∨ s.cycle < f.since + f.bound ∨ ∃ i, f.kind = .reply i
  | .freezeTimeoutAtDue c p => ∀ f, (s.core c).freeze = some f →
    f.place ≠ p ∨ s.cycle < f.since + f.bound ∨ ∀ i, f.kind ≠ .reply i
  | .atomicReplyTimeout c p => ∀ x i n, s.ctx? c p = some x → x.run = .awaitAtomic i n →
    s.cycle < n + 16 * fld (s.core c).watchdog 31 0
  | .coreHung c => ∀ f, (s.core c).freeze = some f → s.cycle - f.since ≤ 64 * fld (s.core c).watchdog 31 0
  | .matrixBeatRetry c _ => (s.core c).mat.holder = none
  | .preemptionReplyTimeout c p => ∀ x g, s.ctx? c p = some x → Tab.find? s.dev.gangs x.gang = some g → g.st ≠ .saving
  | .actionResume c p | .actionHandler c p | .actionAbort c p => ∀ x, s.ctx? c p = some x → x.hostParked = false
  | .contextStart c p => s.dev.coresHeld = true ∨ ∀ x, s.ctx? c p = some x → p ∉ s.starters c x.gang
  | .placementDecision => s.dev.coresHeld = true
  | .hostTabdatAccess _ | .tabdatLowRead | .tabdatHighRead => s.dev.refused = true
  | .registerWrite o _ => s.dev.refused = true ∧ 0x10000 ≤ o.offset
  | .flitCrcFailure p _ => (Tab.get s.dev.ports Port.reset p).state ≠ 2
  | .syncRelease g => Tab.find? s.dev.gangs g = none ∨ s.syncReady g = false
  | .claimGrant k => s.rampDue k = false
  | .tailWrite q _ => s.dev.qcount ≤ q
  | .queueResident q => s.dev.pendingQ.head? ≠ some q ∨ 64 ≤ s.dev.resident.length
  | .queueSwitchOut q => q ∉ s.dev.resident ∨ s.queueDone q = false ∧ s.queueDriven ≠ some q
  | .recordForward q => s.mayForward q.queue = false
  | .preemptionRound => s.blockedHead = none
  | .saveComplete g => ∀ q, Tab.find? s.dev.gangs g = some q → s.saveReady g q = false
  | .groupRetirement g c => Tab.find? s.dev.gangs g = none ∨ s.groupEnded g c = false
  | .energyEstimate c _ => s.gangOn c = none
  | .heldArrivalEntry q => ∀ h ∈ s.dev.heldArr, h.1 ≠ q
  | .regionFillComplete c t _ => ∀ r, Tab.find? (s.core c).tiles t = some r → r.filling = false
  | .migrationComplete p _ => ∀ g ∈ s.dev.migs, g.page ≠ p
  | .migrationRefuse _ => s.dev.migs ≠ []
  | .migrateToDevice w => s.dev.migs ≠ [] ∨ s.movable (cmdPage w) false = false
  | .migrateToHost w => s.dev.migs ≠ [] ∨ s.movable (cmdPage w) true = false
  | .inval _ => s.dev.invBusy.isSome = true
  | .invalidationComplete => s.dev.invBusy = none
  | .shapeLoadComplete c p => ∀ x g a n k, s.ctx? c p = some x → x.run ≠ .blocked (.shapes g a n) k
  | .copyFire c => s.nextFor c 0 = none
  | .copyComplete c i _ => ∀ m, (s.core c).cmd? i = some m → m.fn ≠ 0 ∨ m.st ≠ .fired
  | .pressFire c => s.nextFor c 1 = none
  | .pressComplete c i => ∀ m ∈ (s.core c).cmds, m.fn = 1 → m.st = .fired → m.id ≠ i
  | .stashFire c => s.nextFor c 2 = none
  | .dropFire c => s.readyDrop c = none ∧ s.nextFor c 2 = none
  | .stashStored c i => ∀ m, (s.core c).cmd? i = some m → m.fn ≠ 2 ∨ m.st ≠ .fired ∧ m.st ≠ .storing
  | .fetchFire c i => ∀ m, (s.core c).cmd? i = some m → m.fn ≠ 3 ∨ m.st ≠ .aside ∧ (s.nextFor c 2).map Cmd.id ≠ some i
  | .fetchComplete c i => ∀ m, (s.core c).cmd? i = some m → m.fn ≠ 3 ∨ m.st ≠ .fired
  | .sendFire c | .armFire c | .ctraddFire c => s.nextFor c 3 = none
  | .sendComplete c i => ∀ m, (s.core c).cmd? i = some m → m.fn ≠ 5 ∨ m.st ≠ .storing
  | .rmapFire c | .rflushFire c | .rinvFire c => s.nextFor c 4 = none
  | .celdecPlace w | .celdecDrop w | .celdecRefuse w => s.celdecFor w = none
  | .cellarPrefetchMove k => ∀ p ∈ s.dev.prefs, p.key ≠ k.toNat
  | .nvmeCompletion i _ => ∀ o ∈ s.dev.nvmeOps, o.id ≠ i ∨ o.pair = none
  | .trellisRefire d e => e ∉ (s.die d).due
  | .groupStartComplete g => (s.dev.group g).startMet = false ∨ (s.dev.group g).state ≠ 1
  | .retrain p => s.dev.portDown p = false
  | .portRetrainEnd p _ => (Tab.get s.dev.ports Port.reset p).state ≠ 1
  | .devidWrite _ => s.dev.devidSet = true
  | .attcmd => bit s.dev.attStatus 0 = true
  | .attestationReportDone _ => bit s.dev.attStatus 0 = false
  | .coolantDryCondition z => (s.dev.sensor (4 * z)).due 6000000 s.cycle = false ∨ s.sensorHolds (4 * z) = false
  | .evacuationFlushEnd z => ∀ e, Tab.find? s.dev.evacs z = some e → e.failed = true ∨ s.cycle < e.flushFrom + 60000000
  | .dryClear z => bit (Tab.get s.dev.valveTab 0 (4 * z + 3)) 63 = false
  | .hostRequest m => m.src = s.dev.id ∧ s.dev.bridge = false
  | _ => False

/-- Some traps made pending for a context, in order (10 R313). -/
def Ctx.withPend (x : Ctx) (c : Cause) (info : Word) : Ctx := { x with pends := x.pends ++ [⟨c, info⟩] }

/-- The slot operation i, given to exec by itself, does not commit: it spends a cycle, and its context takes the trap, which
names its slot alone (03 R82; 10 R315). m is the state in which its checks are judged. -/
def Traps (m s : State) (i : Instr) (cause : Cause) (info : Word) : Prop :=
  exec i s = .next ((m.spend m.fc).trapEnter m.fc m.fp cause info (slotfaultWord (2 ^ homeSlotOf i.word) (homeSlotOf i.word)))

/-- The slot operation i fails a check of its own, check 9 of 03 R82: in an open bundle it takes its place with that fault and no
effect, and is judged with the bundle's other slots; by itself, where the context x passes checks 6 to 8, it traps. -/
def Fails (m s : State) (x : Ctx) (i : Instr) (names reads : List RegRef) (cause : Cause) (info : Word) : Prop :=
  (s.bundle.isSome = true → exec i s = .next (s.stage i ((slotOf names reads []).fail cause info))) ∧
    (s.bundle = none → Clear x i names reads → Traps m s i cause info)

/-- The slot operation i, given to exec by itself, blocks the context x, which takes no step and is otherwise as it was; m is
the state in which its checks are judged (07 R218, R238 to R247). -/
def Blocks (m s : State) (x : Ctx) (i : Instr) (b : Block) : Prop :=
  ∃ t n, exec i s = .next t ∧ t.fctx? = some { x with run := .blocked b n } ∧ t.cycle = m.cycle ∧ t.dev = m.dev ∧
    t.die0 = m.die0 ∧ t.die1 = m.die1 ∧ t.fcore.spool = m.fcore.spool ∧ t.fcore.sp = m.fcore.sp ∧
    t.fcore.rings = m.fcore.rings ∧ t.fcore.cmds = m.fcore.cmds

/-- The special registers a context holds for itself (01 R28). -/
def csrOwn (n : Nat) : Bool := n != 0x407 && n != 0x409 && n != 0x807 && n != 0x808 && n != 0x809

/-- An f32 or bf16 element as the f32 element of the same value (02 R51). -/
def wideF32 (t : VType) (x : Nat) : Nat := if t = .bf16 then x * 2 ^ 16 else x

/-- An f32 element is finite (02 R52). -/
def finiteF32 (x : Nat) : Prop := x / 2 ^ 23 % 256 ≠ 255

/-- The value of a finite f32 element in units of 2^-149 (02 R51). -/
def valF32 (x : Nat) : Int :=
  let e := x / 2 ^ 23 % 256
  let m : Nat := if e = 0 then x % 2 ^ 23 else (2 ^ 23 + x % 2 ^ 23) * 2 ^ (e - 1)
  if x / 2 ^ 31 % 2 = 1 then -(m : Int) else m

/-- The low 32 bits of a result, sign-extended, as a W form writes them (04 R110). -/
def low32 (x : Word) : Word := (x.setWidth 32).signExtend 64

end Sys2Proof.Machine
end

