-- ==== Sys2Proof/Certificates/Slice0/Obligations.lean ====
section
/-! DEFINITION. The statements about this hardware, for the provers. -/

open Sys2Proof
open Sys2Proof.Machine

/-! The slot operations. -/

/-- 04 R112: the register-to-register integer operations of one cycle; by 04 R110 a W form writes the low 32 bits of the
result, sign-extended, and takes bits 4:0 of an amount. An operation given to exec with no bundle open is a bundle of one (the
model's choice, log entry 1). The conclusion is that exec answers a next state with these effects, under hypotheses on state
and operands alone: the checks of 03 R82 passed (Clear), the rest as named. -/
def Obligations.IntegerOperationsCompute : Prop :=
  ∀ (s : State) (x : Ctx) (d a b : SReg), s.fctx? = some x →
    let u := s.sreg a
    let v := s.sreg b
    let does (i : Instr) (w : Word) : Prop := Computes s x i [rS d, rS a, rS b] [rS a, rS b] 1 (.scalar d.toNat w)
    does (.add d a b false) (u + v) ∧ does (.add d a b true) (low32 (u + v)) ∧
    does (.sub d a b false) (u - v) ∧ does (.sub d a b true) (low32 (u - v)) ∧
    does (.and d a b) (u &&& v) ∧ does (.or d a b) (u ||| v) ∧ does (.xor d a b) (u ^^^ v) ∧
    does (.andn d a b) (u &&& ~~~v) ∧ does (.orn d a b) (u ||| ~~~v) ∧
    does (.shl d a b false) (u <<< (v.toNat % 64)) ∧ does (.shl d a b true) (low32 (u <<< (v.toNat % 32))) ∧
    does (.shr d a b false) (u >>> (v.toNat % 64)) ∧ does (.shr d a b true) (low32 (u.setWidth 32 >>> (v.toNat % 32) |>.setWidth 64)) ∧
    does (.sra d a b false) (u.sshiftRight (v.toNat % 64)) ∧ does (.sra d a b true) ((low32 u).sshiftRight (v.toNat % 32)) ∧
    does (.rot d a b) (u.rotateRight (v.toNat % 64)) ∧
    does (.slt d a b) (if u.toInt < v.toInt then 1 else 0) ∧ does (.sltn d a b) (if u.toNat < v.toNat then 1 else 0) ∧
    does (.seq d a b) (if u = v then 1 else 0) ∧
    does (.min d a b) (if v.toInt < u.toInt then v else u) ∧ does (.max d a b) (if u.toInt < v.toInt then v else u) ∧
    does (.minn d a b) (if v.toNat < u.toNat then v else u) ∧ does (.maxn d a b) (if u.toNat < v.toNat then v else u)

/-- 04 R112, R113: products after 3 steps, quotients and remainders after 20; a division never traps. An operation given to
exec with no bundle open is a bundle of one (the model's choice, log entry 1). The conclusion is that exec answers a next
state with these effects, under hypotheses on state and operands alone: the checks of 03 R82 passed (Clear), the rest as
named. -/
def Obligations.ProductsAndQuotientsCompute : Prop :=
  ∀ (s : State) (x : Ctx) (d a b : SReg), s.fctx? = some x →
    let u := s.sreg a
    let v := s.sreg b
    let u32 := u.setWidth 32
    let v32 := v.setWidth 32
    let does (i : Instr) (lat : Nat) (w : Word) : Prop :=
      Computes s x i [rS d, rS a, rS b] [rS a, rS b] lat (.scalar d.toNat w)
    does (.mul d a b false) 3 (u * v) ∧ does (.mul d a b true) 3 (low32 (u * v)) ∧
    does (.mulh d a b) 3 (BitVec.ofInt 64 (u.toInt * v.toInt / 2 ^ 64)) ∧
    does (.mulhn d a b) 3 (BitVec.ofNat 64 (u.toNat * v.toNat / 2 ^ 64)) ∧
    does (.div d a b false) 20 (if v = 0 then BitVec.allOnes 64 else u.sdiv v) ∧
    does (.div d a b true) 20 (if v32 = 0 then BitVec.allOnes 64 else (u32.sdiv v32).signExtend 64) ∧
    does (.divn d a b false) 20 (if v = 0 then BitVec.allOnes 64 else u / v) ∧
    does (.divn d a b true) 20 (if v32 = 0 then BitVec.allOnes 64 else (u32 / v32).signExtend 64) ∧
    does (.rem d a b false) 20 (if v = 0 then u else u.srem v) ∧
    does (.rem d a b true) 20 (if v32 = 0 then u32.signExtend 64 else (u32.srem v32).signExtend 64) ∧
    does (.remn d a b false) 20 (if v = 0 then u else u % v) ∧
    does (.remn d a b true) 20 (if v32 = 0 then u32.signExtend 64 else (u32 % v32).signExtend 64)

/-- 04 R112, R114: the counts of bits, the reversal of bytes, and sel, which reads its old destination. An operation given to
exec with no bundle open is a bundle of one (the model's choice, log entry 1). The conclusion is that exec answers a next
state with these effects, under hypotheses on state and operands alone: the checks of 03 R82 passed (Clear), the rest as
named. -/
def Obligations.BitCountsAndSelectionCompute : Prop :=
  ∀ (s : State) (x : Ctx) (d a b : SReg), s.fctx? = some x →
    let u := s.sreg a
    let does (i : Instr) (w : Word) : Prop := Computes s x i [rS d, rS a] [rS a] 1 (.scalar d.toNat w)
    does (.clz d a) (BitVec.ofNat 64 ((List.range 64).findIdx fun k => u.getMsbD k)) ∧
    does (.ctz d a) (BitVec.ofNat 64 ((List.range 64).findIdx fun k => u.getLsbD k)) ∧
    does (.popc d a) (BitVec.ofNat 64 ((List.range 64).countP fun k => u.getLsbD k)) ∧
    (∃ w : Word, does (.bswap d a) w ∧ ∀ k, k < 8 → w.extractLsb' (8 * (7 - k)) 8 = u.extractLsb' (8 * k) 8) ∧
    Computes s x (.sel d a b) [rS d, rS a, rS b] [rS a, rS b, rS d] 1
      (.scalar d.toNat (if u ≠ 0 then s.sreg b else s.sreg d))

/-- 04 R115 to R120, and nop: the operations with an immediate, which a header may lengthen (04 R111), the address form, the
bit fields and the fields of WID. An operation given to exec with no bundle open is a bundle of one (the model's choice, log
entry 1). The conclusion is that exec answers a next state with these effects, under hypotheses on state and operands alone:
the checks of 03 R82 passed (Clear), the rest as named. -/
def Obligations.ImmediateOperationsCompute : Prop :=
  ∀ (s : State) (x : Ctx) (d a b : SReg) (i : BitVec 14) (n p l : BitVec 6), s.fctx? = some x →
    let u := s.sreg a
    let m := immS s.ext 14 i
    let does (i : Instr) (w : Word) : Prop := Computes s x i [rS d, rS a] [rS a] 1 (.scalar d.toNat w)
    does (.addi d a i) (u + m) ∧ does (.andi d a i) (u &&& m) ∧ does (.ori d a i) (u ||| m) ∧ does (.xori d a i) (u ^^^ m) ∧
    does (.slti d a i) (if u.toInt < m.toInt then 1 else 0) ∧ does (.sltni d a i) (if u.toNat < m.toNat then 1 else 0) ∧
    does (.shli d a false n) (u <<< n.toNat) ∧ does (.shli d a true n) (low32 (u <<< n.toNat)) ∧
    does (.shri d a false n) (u >>> n.toNat) ∧
    does (.shri d a true n) (low32 (u.setWidth 32 >>> n.toNat |>.setWidth 64)) ∧
    does (.srai d a false n) (u.sshiftRight n.toNat) ∧ does (.srai d a true n) ((low32 u).sshiftRight n.toNat) ∧
    does (.roti d a false n) (u.rotateRight n.toNat) ∧
    does (.roti d a true n) (((u.setWidth 32).rotateRight n.toNat).signExtend 64) ∧
    (∀ j : BitVec 20, Computes s x (.li d j) [rS d] [] 1 (.scalar d.toNat (immS s.ext 20 j))) ∧
    (∀ j : BitVec 20, Computes s x (.lih d j) [rS d] [rS d] 1
      (.scalar d.toNat ((s.sreg d <<< 20) ||| j.setWidth 64))) ∧
    (∀ (sc : BitVec 2) (j : BitVec 6), Computes s x (.lea d a b sc j) [rS d, rS a, rS b] [rS a, rS b] 1
      (.scalar d.toNat (u + (s.sreg b <<< sc.toNat) + immS s.ext 6 j))) ∧
    (p.toNat + l.toNat + 1 ≤ 64 →
      does (.extf d a p l) ((u.extractLsb' p.toNat (l.toNat + 1)).signExtend 64) ∧
      does (.extfn d a p l) ((u.extractLsb' p.toNat (l.toNat + 1)).setWidth 64) ∧
      ∃ w : Word, Computes s x (.insf d a p l) [rS d, rS a] [rS a, rS d] 1 (.scalar d.toNat w) ∧
        ∀ k, k < 64 → w.getLsbD k = if p.toNat ≤ k ∧ k ≤ p.toNat + l.toNat then u.getLsbD (k - p.toNat)
          else (s.sreg d).getLsbD k) ∧
    (∀ k : BitVec 3, Computes s x (.widf d k) [rS d] [] 1 (.scalar d.toNat (widField x.arch.wid x.arch.widw k.toNat))) ∧
    Effects s x .nop [] [] [] (x.arch.move none) [] [] [] s.fcore.mat

/-- 05 R149, R150, R153, R154: the vector arithmetic of v, element by element where the mask is 1; a slot with an active
element of a rounding operation draws under mode sr (02 R66). And of floating sums, differences and products (02 R51, R52, R64,
R71): an element whose exact result is an element of the type is that one under every mode, a NaN operand gives the canonical
NaN, and some that are rounded, overflow or have no value. An operation given to exec with no bundle open is a bundle of
one (the model's choice, log entry 1). The conclusion is that exec answers a next state with these effects, under hypotheses
on state and operands alone: the checks of 03 R82 passed (Clear), the rest as named. -/
def Obligations.VectorArithmeticCompletes : Prop :=
  (∀ (s : State) (x : Ctx) (d a b : BitVec 5) (m : BitVec 3) (t : VType), s.fctx? = some x →
    let w := VType.width t
    let c (fn : VFn) := s.rctx s.ext .ieee (fn.rounds t && anyActive (s.mreg m) w (2048 / w))
    let old := if m = 0 then [] else [rV d]
    let two (i : Instr) (fn : VFn) : Prop :=
      VComputes s x i [rV d, rV a, rV b, rM m] ([rV a, rV b, rM m] ++ old)
        (if fn = .mul ∨ fn = .mulh then 5 else 3) d (c fn)
        (vOp fn t (c fn).1 (s.mreg m) (s.vreg a).data (s.vreg b).data (s.vreg d).data)
    let one (i : Instr) (fn : VFn) : Prop :=
      VComputes s x i [rV d, rV a, rM m] ([rV a, rM m] ++ old) 3 d (s.rctx s.ext .ieee false)
        (vOp fn t (s.rctx s.ext .ieee false).1 (s.mreg m) (s.vreg a).data 0 (s.vreg d).data)
    two (.vadd d a b m t) .add ∧ two (.vsub d a b m t) .sub ∧ two (.vmul d a b m t) .mul ∧ two (.vmulh d a b m t) .mulh ∧
    two (.vmin d a b m t) .min ∧ two (.vmax d a b m t) .max ∧ one (.vabs d a m t) .abs ∧ one (.vneg d a m t) .neg ∧
    two (.vand d a b m t) .and ∧ two (.vor d a b m t) .or ∧ two (.vxor d a b m t) .xor ∧ two (.vandn d a b m t) .andn ∧
    two (.vshl d a b m t) .shl ∧ two (.vshr d a b m t) .shr ∧ two (.vsra d a b m t) .sra ∧
    two (.vadds d a b m t) .adds ∧ two (.vsubs d a b m t) .subs ∧ two (.vabsd d a b m t) .absd ∧
    one (.vclz d a m t) .clz ∧ one (.vpopc d a m t) .popc ∧ two (.vcopysign d a b m t) .copysign ∧
    two (.vscale d a b m t) .scale) ∧
  ∀ (t : VType) (c : RCtx) (m : VMask) (a b old : VData) (i : Nat), t = .f32 ∨ t = .bf16 → c.ftz = false →
    let w := VType.width t
    let u := wideF32 t (elem w a i)
    let v := wideF32 t (elem w b i)
    let is (fn : VFn) (y : Nat) : Prop := elem w (vOp fn t c m a b old).data i = y
    i < 2048 / w → m.getLsbD (w * i) = true →
    (∀ z, z < 2 ^ (8 * w) → finiteF32 u → finiteF32 v → finiteF32 (wideF32 t z) → valF32 (wideF32 t z) ≠ 0 →
      (valF32 u + valF32 v = valF32 (wideF32 t z) → is .add z) ∧
      (valF32 u - valF32 v = valF32 (wideF32 t z) → is .sub z) ∧
      (valF32 u * valF32 v = valF32 (wideF32 t z) * 2 ^ 149 → is .mul z)) ∧
    (0x7F800000 < u % 2 ^ 31 ∨ 0x7F800000 < v % 2 ^ 31 → ∀ fn ∈ [VFn.add, .sub, .mul],
      is fn (if t = .f32 then 0x7FC00000 else 0x7FC0)) ∧
    (t = .f32 →
      let cases : List (VFn × RMode × Nat × Nat × Nat) :=
        [(.add, .rne, 0x3F800000, 0x33800000, 0x3F800000), (.add, .rna, 0x3F800000, 0x33800000, 0x3F800001),
         (.add, .rup, 0x3F800000, 0x33800000, 0x3F800001), (.add, .rdn, 0x3F800000, 0x33800000, 0x3F800000),
         (.add, .rtz, 0x3F800001, 0x33800000, 0x3F800001), (.add, .rne, 0x3F800001, 0x33800000, 0x3F800002),
         (.sub, .rne, 0x3F800000, 0x3F800000, 0), (.sub, .rdn, 0x3F800000, 0x3F800000, 0x80000000),
         (.add, .rne, 0x7F800000, 0xFF800000, 0x7FC00000), (.sub, .rne, 0x7F800000, 0x3F800000, 0x7F800000),
         (.mul, .rne, 0x7F7FFFFF, 0x40000000, 0x7F800000), (.mul, .rtz, 0x7F7FFFFF, 0x40000000, 0x7F7FFFFF),
         (.mul, .rup, 0x7F7FFFFF, 0xC0000000, 0xFF7FFFFF), (.mul, .rdn, 0x7F7FFFFF, 0xC0000000, 0xFF800000),
         (.mul, .rne, 0x7F800000, 0, 0x7FC00000), (.mul, .rne, 0x00800000, 0x3F000000, 0x00400000)]
      ∀ r ∈ cases, c.md = r.2.1 → elem 4 a i = r.2.2.1 → elem 4 b i = r.2.2.2.1 → is r.1 r.2.2.2.2)

/-- 05 R149, R153, R156, R160 to R162: each element of an integer operation, in a type of w bytes: the old destination's where
the mask is 0; which operations clip and raise SAT; each mask bit of an integer comparison, the whole register of an integer
reduction and each element of an integer scan. -/
def Obligations.VectorIntegerElementsAreRight : Prop :=
  ∀ (t : VType) (c : RCtx) (m : VMask) (a b old : VData) (i : Nat), VType.fmt? t = none →
    let w := VType.width t
    let n := 8 * w
    let u := elem w a i
    let v := elem w b i
    let signed (y : Nat) : Int := if VType.signed t then (if 2 ^ (n - 1) ≤ y then (y : Int) - 2 ^ n else y) else y
    let lo : Int := if VType.signed t then -2 ^ (n - 1) else 0
    let hi : Int := if VType.signed t then 2 ^ (n - 1) - 1 else 2 ^ n - 1
    let is (fn : VFn) (y : Int) : Prop :=
      (elem w (vOp fn t c m a b old).data i : Int) = if m.getLsbD (w * i) then y % 2 ^ n else elem w old i
    i < 2048 / w →
    is .add (u + v) ∧ is .sub (u - v) ∧ is .mul (u * v) ∧ is .mulh (signed u * signed v / 2 ^ n) ∧
    is .min (if signed u ≤ signed v then u else v) ∧ is .max (if signed u ≤ signed v then v else u) ∧
    is .abs (if signed u < 0 then -signed u else u) ∧ is .neg (-(u : Int)) ∧
    is .shl (u * 2 ^ (v % n)) ∧ is .shr (u / 2 ^ (v % n) : Nat) ∧
    is .absd (if signed u ≤ signed v then signed v - signed u else signed u - signed v) ∧
    is .and (u &&& v : Nat) ∧ is .or (u ||| v : Nat) ∧ is .xor (u ^^^ v : Nat) ∧ is .andn (u &&& (2 ^ n - 1 - v) : Nat) ∧
    is .sra ((if 2 ^ (n - 1) ≤ u then (u : Int) - 2 ^ n else u) / (2 ^ (v % n) : Nat)) ∧
    is .adds (max lo (min hi (signed u + signed v))) ∧ is .subs (max lo (min hi (signed u - signed v))) ∧
    is .clz ((List.range n).findIdx fun k => u.testBit (n - 1 - k) : Nat) ∧
    is .popc ((List.range n).countP fun k => u.testBit k : Nat) ∧
    (∀ fn, (vOp fn t c m a b old).side = sideOne ∧ (vOp fn t c m a b old).trap = none ∧
      ((vOp fn t c m a b old).fl ≠ 0 ↔ ∃ j < 2048 / w, m.getLsbD (w * j) = true ∧
        let y := if fn = .subs then signed (elem w a j) - signed (elem w b j) else signed (elem w a j) + signed (elem w b j)
        (fn = .adds ∨ fn = .subs) ∧ (y < lo ∨ hi < y)) ∧
      ((vOp fn t c m a b old).fl = 0 ∨ (vOp fn t c m a b old).fl = flSAT)) ∧
    (∀ (r : CmpRel) (z : Bool) (k : Nat), k < w →
      (((vCmp r t z m a b).1.getLsbD (w * i + k) = true ↔ m.getLsbD (w * i) = true ∧ match r with
        | .eq => u = v | .ne => u ≠ v | .lt => signed u < signed v | .le => signed u ≤ signed v
        | .gt => signed v < signed u | .ge => signed v ≤ signed u | .un => False) ∧
      (vCmp r t z m a b).2 = 0)) ∧
    (let xs (k : Nat) := ((List.range k).filter fun j => m.getLsbD (w * j)).map (elem w a);
      let all := xs (2048 / w);
      let red (fn : RedFn) (y : Nat) : Prop := (vRed fn t c m a).data = BitVec.ofNat 16384 y;
      let greatest (l : List Nat) (y : Nat) : Prop := (l = [] → (y : Int) = lo % 2 ^ n) ∧
        (l ≠ [] → y ∈ l ∧ ∀ z ∈ l, signed z ≤ signed y);
      red .sum (all.sum % 2 ^ n) ∧ (∃ y, red .max y ∧ greatest all y) ∧
      (∃ y, red .min y ∧ (all = [] → (y : Int) = hi) ∧ (all ≠ [] → y ∈ all ∧ ∀ z ∈ all, signed y ≤ signed z)) ∧
      (∃ y, red .and y ∧ ∀ k, y.testBit k = (decide (k < n) && all.all fun z => z.testBit k)) ∧
      (∃ y, red .or y ∧ ∀ k, y.testBit k = all.any fun z => z.testBit k) ∧
      (∃ y, red .xor y ∧ ∀ k, y.testBit k = decide ((all.countP fun z => z.testBit k) % 2 = 1)) ∧
      red .sumw (BitVec.ofInt 64 (all.map signed).sum).toNat ∧
      elem w (vScan .sumi t c m a).data i = (xs (i + 1)).sum % 2 ^ n ∧
      greatest (xs (i + 1)) (elem w (vScan .max t c m a).data i))

/-- 05 R155 to R158: the fused products, the comparisons and the conversions; and the elements of a fused product and of a
conversion between f32, bf16 and i32 whose exact result is an element of the type (02 R51, R64). An operation given to exec with
no bundle open is a bundle of one (the model's choice, log entry 1). The conclusion is that exec answers a next state with these
effects, under hypotheses on state and operands alone: the checks of 03 R82 passed (Clear), the rest as named. -/
def Obligations.FusedCompareAndConvertComplete : Prop :=
  (∀ (s : State) (x : Ctx) (d a b : BitVec 5) (k m : BitVec 3) (t : VType) (p q : EType), s.fctx? = some x →
    let mk := s.mreg m
    let u := (s.vreg a).data
    let v := (s.vreg b).data
    let w := VType.width t
    let c := s.rctx s.ext .ieee (anyActive mk w (2048 / w))
    let fused (i : Instr) (np nc : Bool) : Prop :=
      VComputes s x i [rV d, rV a, rV b, rM m] [rV a, rV b, rV d, rM m] 5 d c (vFma np nc t c.1 mk u v (s.vreg d).data)
    let cmp (i : Instr) (r : CmpRel) : Prop :=
      let o := vCmp r t (bit x.arch.rmode 3) mk u v
      Effects s x i [rM k, rV a, rV b, rM m] [rV a, rV b, rM m] (.result 3 (.mask k.toNat o.1) :: flagActs 3 o.2)
        (x.arch.move none) (x.flight 0 3 (.mask k.toNat o.1) :: if o.2 = 0 then [] else [x.flight 1 3 (.flags o.2)]) [] []
        s.fcore.mat
    let e := s.rctx s.ext (effPol x.arch.ovpol s.ext)
      (convRounds p q && anyActive mk (EType.width p) (2048 / max (EType.width p) (EType.width q)))
    fused (.vfma d a b m t) false false ∧ fused (.vfms d a b m t) false true ∧ fused (.vfnma d a b m t) true false ∧
    fused (.vfnms d a b m t) true true ∧
    cmp (.vcmpEq k a b m t) .eq ∧ cmp (.vcmpNe k a b m t) .ne ∧ cmp (.vcmpLt k a b m t) .lt ∧ cmp (.vcmpLe k a b m t) .le ∧
    cmp (.vcmpGt k a b m t) .gt ∧ cmp (.vcmpGe k a b m t) .ge ∧ cmp (.vcmpUn k a b m t) .un ∧
    VComputes s x (.vcvt d a m p q) [rV d, rV a, rM m] ([rV a, rM m] ++ if m = 0 then [] else [rV d]) 4 d e
      (vCvt p q e.1 mk u (s.vreg d).data)) ∧
  ∀ (t : VType) (c : RCtx) (m : VMask) (a b old : VData) (i : Nat), c.ftz = false →
    (t = .f32 ∨ t = .bf16 → let w := VType.width t
      let u := wideF32 t (elem w a i)
      let v := wideF32 t (elem w b i)
      let d := wideF32 t (elem w old i)
      i < 2048 / w → m.getLsbD (w * i) = true → ∀ z, z < 2 ^ (8 * w) → finiteF32 u → finiteF32 v → finiteF32 d →
      finiteF32 (wideF32 t z) → valF32 (wideF32 t z) ≠ 0 → ∀ np nc,
      (if np then -1 else 1) * (valF32 u * valF32 v) + (if nc then -1 else 1) * (valF32 d * 2 ^ 149) =
        valF32 (wideF32 t z) * 2 ^ 149 → elem w (vFma np nc t c m a b old).data i = z) ∧
    (∀ z, i < 512 → m.getLsbD (4 * i) = true → finiteF32 z → valF32 z ≠ 0 → z < 2 ^ 32 →
      let n := elem 4 a i
      let k : Int := if 2 ^ 31 ≤ n then (n : Int) - 2 ^ 32 else n
      (k * 2 ^ 149 = valF32 z → elem 4 (vCvt .f32 .i32 c m a old).data i = z) ∧
      (elem 4 a i = z → ∀ j : Int, -2 ^ 31 ≤ j → j < 2 ^ 31 → valF32 z = j * 2 ^ 149 →
        (elem 4 (vCvt .i32 .f32 c m a old).data i : Int) = j % 2 ^ 32) ∧
      (m.getLsbD (2 * i) = true → ∀ y, z = y * 2 ^ 16 →
        (elem 2 a i = y → elem 4 (vCvt .f32 .bf16 c m a old).data i = z) ∧
        (elem 4 a i = z → elem 2 (vCvt .bf16 .f32 c m a old).data i = y)))

/-- 05 R160 to R163: reductions, scans and permutations; and floating sums over no active element, over one, and over two whose
exact sum is an element of the type (02 R72 to R74). An operation given to exec with no bundle open is a bundle of one
(the model's choice, log entry 1). The conclusion is that exec answers a next state with these effects, under hypotheses on
state and operands alone: the checks of 03 R82 passed (Clear), the rest as named. -/
def Obligations.ReductionsScansAndPermutationsComplete : Prop :=
  (∀ (s : State) (x : Ctx) (d a b h : BitVec 5) (m l : BitVec 3) (t : VType) (e : ElemW), s.fctx? = some x →
    let mk := s.mreg m
    let u := (s.vreg a).data
    let w := VType.width t
    let any := anyActive mk w (2048 / w)
    let red (i : Instr) (fn : RedFn) : Prop :=
      let c := s.rctx s.ext .ieee (fn == .sum && (VType.fmt? t).isSome && any)
      VComputes s x i [rV d, rV a, rM m] [rV a, rM m] 9 d c (vRed fn t c.1 mk u)
    let scan (i : Instr) (fn : ScanFn) : Prop :=
      let c := s.rctx s.ext .ieee (fn == .sumf && any)
      VComputes s x i [rV d, rV a, rM m] [rV a, rM m] 10 d c (vScan fn t c.1 mk u)
    let old := if m = 0 then [] else [rV d]
    let perm (i : Instr) (srcs : List (BitVec 5)) (fn : PermFn) (imm : Nat) (v : VData) (names : List RegRef) : Prop :=
      VComputes s x i names (srcs.map rV ++ [rM m] ++ old) 4 d (s.rctx none .ieee false)
        (vPerm fn (ElemW.bytes e) imm mk (if srcs = [] then (s.vreg 0).data else u) v (s.vreg d).data)
    let imm := immU s.ext 8 (h ++ l)
    red (.vredSum d a m t) .sum ∧ red (.vredMax d a m t) .max ∧ red (.vredMin d a m t) .min ∧ red (.vredAnd d a m t) .and ∧
    red (.vredOr d a m t) .or ∧ red (.vredXor d a m t) .xor ∧ red (.vredSumw d a m t) .sumw ∧
    scan (.vscanSumi d a m t) .sumi ∧ scan (.vscanSumf d a m t) .sumf ∧ scan (.vscanMax d a m t) .max ∧
    (imm < 2048 / ElemW.bytes e → perm (.vpermBcast d a h m e l) [a] .bcast imm 0 [rV d, rV a, rM m]) ∧
    perm (.vpermIota d m e) [] .iota 0 (s.vreg 0).data [rV d, rM m] ∧
    perm (.vpermSlideup d a h m e l) [a] .slideup imm 0 [rV d, rV a, rM m] ∧
    perm (.vpermSlidedn d a h m e l) [a] .slidedn imm 0 [rV d, rV a, rM m] ∧
    perm (.vpermPerm d a b m e) [a, b] .perm 0 (s.vreg b).data [rV d, rM m, rV a, rV b] ∧
    perm (.vpermZip d a b m e) [a, b] .zip 0 (s.vreg b).data [rV d, rM m, rV a, rV b] ∧
    perm (.vpermUnzip d a b m e) [a, b] .unzip 0 (s.vreg b).data [rV d, rM m, rV a, rV b] ∧
    perm (.vpermRev d a m e) [a] .rev 0 (s.vreg 0).data [rV d, rM m, rV a]) ∧
  ∀ (t : VType) (c : RCtx) (m : VMask) (a : VData) (k : Nat), t = .f32 ∨ t = .bf16 → c.ftz = false →
    let w := VType.width t
    let ix := (List.range (2048 / w)).filter fun i => m.getLsbD (w * i)
    let red (y : Nat) : Prop := elem w (vRed .sum t c m a).data 0 = y
    let scan (y : Nat) : Prop := elem w (vScan .sumf t c m a).data k = y
    let u (i : Nat) : Nat := elem w a i
    k < 2048 / w →
    (ix = [] → red 0 ∧ scan 0) ∧
    (∀ i, ix = [i] → finiteF32 (wideF32 t (u i)) → red (u i) ∧ scan (if k < i then 0 else u i)) ∧
    ∀ i j z, ix = [i, j] → z < 2 ^ (8 * w) → finiteF32 (wideF32 t (u i)) → finiteF32 (wideF32 t (u j)) →
      finiteF32 (wideF32 t z) → valF32 (wideF32 t z) ≠ 0 →
      valF32 (wideF32 t (u i)) + valF32 (wideF32 t (u j)) = valF32 (wideF32 t z) →
      red z ∧ scan (if k < i then 0 else if k < j then u i else z)

/-- 05 R163, R168, R169: what each element of a permutation is, n elements of a type of w bytes in a register; and each
byte-lane of a selection, each element after an insertion of any width; 05 R172, R176, R177: the greatest exponent of a
block's active lanes, and the bit planes that are packed and unpacked. 05 R164, R165: the elements of the transcendental
functions, where the exact result is an element of the type, at the special operands, and at some that round. 05 R173 to
R175; 02 R59 to R63, R68, R70: the elements, sidecar and flags of vblk.anc, the elements of vblk.unanc that are exact, and
of vblk.bscale, exact or rounded to nearest. 06 R191, R192, R197; 02 R75 to R78: a column of a beat in every mode, with
integer accumulation, and with that of f32 where no term is truncated and the sum is an element, or a term has no value.
That a NaN block of vblk.unanc gives NaN at inactive elements too, and that vblk.anc converts no element of a NaN block, is
the model's choice (log entry 60). -/
def Obligations.PermutedElementsAreRight : Prop :=
  (∀ (e : ElemW) (imm : Nat) (m : VMask) (a b old : VData) (i : Nat),
    let w := ElemW.bytes e
    let n := 2048 / w
    let is (fn : PermFn) (y : Nat) : Prop :=
      elem w (vPerm fn w imm m a b old).data i = if m.getLsbD (w * i) then y else elem w old i
    i < n →
    is .iota (i % 2 ^ (8 * w)) ∧ is .bcast (elem w a imm) ∧
    is .slideup (if imm ≤ i then elem w a (i - imm) else 0) ∧ is .slidedn (if i + imm < n then elem w a (i + imm) else 0) ∧
    is .zip (if i % 2 = 0 then elem w a (i / 2) else elem w b (i / 2)) ∧
    is .unzip (if 2 * i < n then elem w a (2 * i) else elem w b (2 * i - n)) ∧ is .rev (elem w a (n - 1 - i)) ∧
    (w = 4 → is .perm (elem w a (elem w b i % 512))) ∧ (w = 2 → is .perm (elem w a (elem w b i % 1024))) ∧
    (w = 1 → is .perm (elem w a (256 * (i / 256) + elem w b i % 256))) ∧
    (w = 1 → elem 1 (vSel m a b) i = if m.getLsbD i then elem 1 a i else elem 1 b i) ∧
    (∀ j y, elem w (vIns w j y a) i = if i = j then y % 2 ^ (8 * w) else elem w a i) ∧
    (w = 4 →
      let lanes := (List.range 128).map fun l => 128 * (i / 128) + l
      let expo (l : Nat) : Nat := if m.getLsbD (4 * l) then elem 4 a l / 2 ^ 23 % 256 else 0
      (∃ l ∈ lanes, elem 4 (vBexp m a) i = expo l) ∧ ∀ l ∈ lanes, expo l ≤ elem 4 (vBexp m a) i) ∧
    (w = 1 → ∀ k ≤ 8, ∀ y < 8,
      (i < 256 * k → (elem 1 (vPlpack k m a b) i).testBit y =
        (m.getLsbD (8 * (i % 256) + y) && (elem 1 a (8 * (i % 256) + y)).testBit (7 - i / 256))) ∧
      (256 * k ≤ i → elem 1 (vPlpack k m a b) i = elem 1 b i) ∧
      (elem 1 (vPlunpk k m a) i).testBit y =
        (m.getLsbD i && decide (7 - y < k) && (elem 1 a (256 * (7 - y) + i / 8)).testBit (i % 8)))) ∧
  (∀ (g : Width) (a : VData) (i j y : Nat), let w := Width.insBytes g
    w = (match g with | .w0 => 4 | .w1 => 2 | .w2 => 1 | .w3 => 8) ∧
    (i < 2048 / w → elem w (vIns w j y a) i = if i = j then y % 2 ^ (8 * w) else elem w a i)) ∧
  (∀ (t : VType) (c : RCtx) (m : VMask) (a old : VData) (i : Nat), t = .f32 ∨ t = .bf16 → c.ftz = false →
    let w := VType.width t
    let u := wideF32 t (elem w a i)
    let y (fn : MathFn) : Nat := elem w (vMath fn t c m a old).data i
    i < 2048 / w →
    (m.getLsbD (w * i) = false → ∀ fn, y fn = elem w old i) ∧
    (m.getLsbD (w * i) = true →
      (0x7F800000 < u % 2 ^ 31 → ∀ fn, wideF32 t (y fn) = 0x7FC00000) ∧
      (finiteF32 u → valF32 u < 0 → ∀ fn ∈ [MathFn.log2, .rsqrt, .sqrt], wideF32 t (y fn) = 0x7FC00000) ∧
      (let fns : List MathFn := [.exp2, .log2, .rcp, .rsqrt, .tanh, .sqrt]
       let cases : List (Nat × List Nat) :=
         [(0xFF800000, [0, 0x7FC00000, 0x80000000, 0x7FC00000, 0xBF800000, 0x7FC00000]),
          (0x80000000, [0x3F800000, 0xFF800000, 0xFF800000, 0xFF800000, 0x80000000, 0x80000000]),
          (0, [0x3F800000, 0xFF800000, 0x7F800000, 0x7F800000, 0, 0]),
          (0x7F800000, [0x7F800000, 0x7F800000, 0, 0, 0x3F800000, 0x7F800000])]
       ∀ r ∈ cases, u = r.1 → ∀ q ∈ fns.zip r.2, wideF32 t (y q.1) = q.2) ∧
      (∀ z, z < 2 ^ (8 * w) → finiteF32 u → finiteF32 (wideF32 t z) →
        let x := valF32 u
        let v := valF32 (wideF32 t z)
        x ≠ 0 → v ≠ 0 →
        (x * v = 2 ^ 298 → y .rcp = z) ∧ (0 < v → v * v = x * 2 ^ 149 → y .sqrt = z) ∧
        (0 < v → v * v * x = 2 ^ 447 → y .rsqrt = z) ∧
        ∀ n : Nat, (v = 2 ^ n → x = ((n : Int) - 149) * 2 ^ 149 → y .exp2 = z) ∧
          (x = 2 ^ n → v = ((n : Int) - 149) * 2 ^ 149 → y .log2 = z)) ∧
      (t = .f32 →
        let cases : List (MathFn × Nat × Nat) :=
          [(.exp2, 0x3F000000, 0x3FB504F3), (.log2, 0x40400000, 0x3FCAE00D), (.rcp, 0x40400000, 0x3EAAAAAB),
           (.rsqrt, 0x40000000, 0x3F3504F3), (.tanh, 0x3F800000, 0x3F42F7D6)]
        (∀ r ∈ cases, u = r.2.1 → y r.1 = r.2.2) ∧
        (u = 0x40000000 → (c.md = .rne ∨ c.md = .rtz ∨ c.md = .rdn → y .sqrt = 0x3FB504F3) ∧
          (c.md = .rup → y .sqrt = 0x3FB504F4))))) ∧
  (∀ (m : VMask) (a b : VData),
    let r := vAnc m a b
    let lane (l : Nat) : Nat := if m.getLsbD (4 * l) then elem 4 a l else 0
    let expo (l : Nat) : Nat := lane l / 2 ^ 23 % 256
    let e (j : Nat) : Nat := elem 4 b (128 * j) % 256
    let void (j : Nat) : Prop := e j = 255 ∨ ∃ i < 128, expo (128 * j + i) = 255
    let above (l : Nat) : Prop := l < 256 ∧ e (l / 128) < expo l ∧ expo l < 255
    let n (l : Nat) : Int := if 2 ^ 63 ≤ elem 8 r.data l then (elem 8 r.data l : Int) - 2 ^ 64 else elem 8 r.data l
    let d (l : Nat) : Int := n l * 2 ^ (e (l / 128) - 24) - valF32 (lane l) * 2 ^ (24 - e (l / 128))
    let side (k : Nat) : Nat := (r.side.extractLsb' (8 * k) 8).toNat
    (r.trap = none ↔ ∀ l, ¬above l) ∧ (∀ l, r.trap = some l ↔ above l ∧ ∀ k, k < l → ¬above k) ∧
    (∀ j < 2, (void j → side (32 * j) = 255) ∧ (¬void j → side (32 * j) = e j) ∧ side (32 * j + 1) = 1 ∧
      ∀ k, 2 ≤ k → k < 32 → side (32 * j + k) = 0) ∧
    (∀ l, l < 256 → (void (l / 128) → elem 8 r.data l = 0) ∧
      (¬void (l / 128) → ¬above l → 2 * (d l).natAbs ≤ 2 ^ (e (l / 128) - 24) ∧
        (2 * (d l).natAbs = 2 ^ (e (l / 128) - 24) → n l % 2 = 0))) ∧
    (r.trap = none → (r.fl = flNX ∨ r.fl = 0) ∧ (r.fl = flNX ↔ ∃ l < 256, ¬void (l / 128) ∧ d l ≠ 0))) ∧
  (∀ (c : RCtx) (m : VMask) (a : VData) (sd : VSide) (l z : Nat),
    let y := elem 4 (vUnanc c m a sd).data l
    let e := (sd.extractLsb' (256 * (l / 128)) 8).toNat
    let n : Int := if 2 ^ 63 ≤ elem 8 a l then (elem 8 a l : Int) - 2 ^ 64 else elem 8 a l
    (256 ≤ l → l < 512 → y = 0) ∧
    (l < 256 → (e = 255 → y = 0x7FC00000) ∧ (e ≠ 255 → m.getLsbD (8 * l) = false ∨ n = 0 → y = 0) ∧
      (e ≠ 255 → m.getLsbD (8 * l) = true → z < 2 ^ 32 → finiteF32 z → valF32 z ≠ 0 →
        n * 2 ^ (e - 24) = valF32 z * 2 ^ (24 - e) → y = z))) ∧
  (∀ (c : RCtx) (m : VMask) (a : VData) (k : Nat), c.ftz = false → k < 16 →
    let r := vBscale c m a
    let lanes := ((List.range 32).map fun i => 32 * k + i).filter fun l => m.getLsbD (4 * l)
    let f := (lanes.map fun l => elem 4 a l / 2 ^ 23 % 256).foldl max 0
    let side (k : Nat) : Nat := (r.side.extractLsb' (8 * k) 8).toNat
    side k = f ∧ (∀ j, 16 ≤ j → j < 64 → side j = 0x7F) ∧ (∀ y, 512 ≤ y → y < 2048 → elem 1 r.data y = 0) ∧
    ∀ l, l / 32 = k → let q := elem 1 r.data l
      let v := valF32 (elem 4 a l)
      (f = 255 ∨ l ∉ lanes → q = 0) ∧
      (f ≠ 255 → l ∈ lanes → ∀ n : Int, -128 ≤ n → n ≤ 127 →
        (n * 2 ^ (16 + f) = v → (q : Int) = n % 256) ∧
        (c.md = .rne → 2 * (n * 2 ^ (16 + f) - v).natAbs ≤ 2 ^ (16 + f) →
          (2 * (n * 2 ^ (16 + f) - v).natAbs = 2 ^ (16 + f) → n % 2 = 0) → (q : Int) = n % 256))) ∧
  ∀ (c : MatCfg) (a l : Line) (ls : List Line) (row : AccRow) (j z : Nat), ls[j]? = some l → j < 128 → 2 ≤ c.planes →
    c.planes ≤ 8 →
    let y := ((beat c a ls row).1.extractLsb' (32 * j) 32)
    let old := (row.extractLsb' (32 * j) 32)
    let byte (x : Line) (k : Nat) : Nat := (x.data.extractLsb' (8 * k) 8).toNat
    let half (x : Line) (k : Nat) : Nat := byte x (k / 2) / 16 ^ (k % 2) % 16
    let sc (k : Nat) : Nat := (a.sc.extractLsb' (8 * k) 8).toNat + (l.sc.extractLsb' (8 * k) 8).toNat
    let dead (k : Nat) : Prop := a.sc.extractLsb' (8 * k) 8 = 255#8 ∨ l.sc.extractLsb' (8 * k) 8 = 255#8
    let sgn (n v : Nat) : Int := if 2 ^ (n - 1) ≤ v then (v : Int) - 2 ^ n else v
    let p := c.planes
    let small := c.mode = .i4 ∨ c.mode = .pni ∧ p ≤ 4
    let num (x : Line) (k : Nat) : Int := match c.mode with
      | .i4 => sgn 4 (half x k)
      | .pni => if p ≤ 4 then sgn p (half x k / 2 ^ (4 - p)) * 2 ^ (8 - p) else sgn p (byte x k / 2 ^ (8 - p)) * 2 ^ (8 - p)
      | _ => sgn 8 (byte x k)
    let dot (b : Nat) : Int := ((List.range 32).map fun i => num a (32 * b + i) * num l (32 * b + i)).sum
    let tiny (bits x : Nat) : Int :=
      let ex := x % 128 / 2 ^ bits
      let mag : Nat := if ex = 0 then x % 2 ^ bits else (2 ^ bits + x % 2 ^ bits) * 2 ^ (ex - 1)
      if 128 ≤ x then -(mag : Int) else mag
    let wide (x : Line) (k : Nat) : Nat := (byte x (2 * k) + 256 * byte x (2 * k + 1)) * 2 ^ 16
    (c.acci = true → c.mode = .i8 ∨ c.mode = .i4 ∨ c.mode = .pni → ∀ n, (small → n = 16) → (¬small → n = 8) →
      y.toInt = max (-2 ^ 31) (min (2 ^ 31 - 1) (old.toInt + ((List.range n).map dot).sum))) ∧
    (c.acci = false →
      (0x7F800000 < old.toNat % 2 ^ 31 → y = 0x7FC00000#32) ∧ (c.mode ≠ .bf16 → (∃ b < 8, dead b) → y = 0x7FC00000#32) ∧
      (finiteF32 old.toNat → ∀ (ts : List Int) (unit Q : Nat),
        (match c.mode with
          | .bf16 => unit = 149 ∧ (∀ k < 128, finiteF32 (wide a k) ∧ finiteF32 (wide l k)) ∧
              ts = (List.range 128).map fun k => valF32 (wide a k) * valF32 (wide l k)
          | .e4m3 => unit = 123 ∧ (∀ k < 256, byte a k % 128 ≠ 127 ∧ byte l k % 128 ≠ 127) ∧ (∀ b < 8, ¬dead b) ∧
              ts = (List.range 256).map fun k => tiny 3 (byte a k) * tiny 3 (byte l k) * 2 ^ sc (k / 32)
          | .e5m2 => unit = 137 ∧ (∀ k < 256, byte a k % 128 < 124 ∧ byte l k % 128 < 124) ∧ (∀ b < 8, ¬dead b) ∧
              ts = (List.range 256).map fun k => tiny 2 (byte a k) * tiny 2 (byte l k) * 2 ^ sc (k / 32)
          | _ => unit = 117 ∧ (∀ b < 8, ¬dead b) ∧ (small → ts = (List.range 16).map fun b => dot b * 2 ^ sc (b / 2)) ∧
              (¬small → ts = (List.range 8).map fun b => dot b * 2 ^ sc b)) →
        let all := valF32 old.toNat * 2 ^ unit :: ts
        (∀ t ∈ all, (2 ^ Q : Int) ∣ t ∧ t.natAbs < 2 ^ (Q + 37)) →
        (all.sum = 0 → y = 0) ∧
        (z < 2 ^ 32 → finiteF32 z → valF32 z ≠ 0 → all.sum = valF32 z * 2 ^ unit → y.toNat = z)))

/-- 05 R164 to R170: the transcendental functions, masks, selection, and moves between the register files. An operation
given to exec with no bundle open is a bundle of one (the model's choice, log entry 1). The conclusion is that exec answers
a next state with these effects, under hypotheses on state and operands alone: the checks of 03 R82 passed (Clear), the rest
as named. That vins writes back its whole destination register, the element replaced and the rest as read, is the model's
choice (log entry 27). -/
def Obligations.MathMasksAndMovesComplete : Prop :=
  ∀ (s : State) (x : Ctx) (d a b : BitVec 5) (j k m : BitVec 3) (t : VType) (r : SReg) (w : Width) (i : BitVec 11)
    (z : BitVec 6), s.fctx? = some x →
    let mk := s.mreg m
    let u := (s.vreg a).data
    let math (i : Instr) (fn : MathFn) : Prop :=
      let c := s.rctx none .ieee
        ((fn == .sqrt || t == .bf16) && anyActive mk (VType.width t) (2048 / VType.width t))
      VComputes s x i [rV d, rV a, rM m] ([rV a, rM m] ++ if m = 0 then [] else [rV d]) 8 d c
        (vMath fn t c.1 mk u (s.vreg d).data)
    let vec (i : Instr) (names reads : List RegRef) (lat : Nat) (v : VData) (dm : VData) (sd : VSide) : Prop :=
      Computes s x i names reads lat (.vec d.toNat v dm sd (BitVec.allOnes 512))
    math (.vmathExp2 d a m t) .exp2 ∧ math (.vmathLog2 d a m t) .log2 ∧ math (.vmathRcp d a m t) .rcp ∧
    math (.vmathRsqrt d a m t) .rsqrt ∧ math (.vmathTanh d a m t) .tanh ∧ math (.vmathSqrt d a m t) .sqrt ∧
    Computes s x (.mand j k m) [rM j, rM k, rM m] [rM k, rM m] 3 (.mask j.toNat (s.mreg k &&& mk)) ∧
    Computes s x (.mor j k m) [rM j, rM k, rM m] [rM k, rM m] 3 (.mask j.toNat (s.mreg k ||| mk)) ∧
    Computes s x (.mxor j k m) [rM j, rM k, rM m] [rM k, rM m] 3 (.mask j.toNat (s.mreg k ^^^ mk)) ∧
    Computes s x (.mnot j k) [rM j, rM k] [rM k] 3 (.mask j.toNat (~~~s.mreg k)) ∧
    Computes s x (.mcnt r m) [rS r, rM m] [rM m] 3
      (.scalar r.toNat (BitVec.ofNat 64 ((List.range 2048).countP fun q => mk.getLsbD q))) ∧
    Computes s x (.mfirst r m) [rS r, rM m] [rM m] 3
      (.scalar r.toNat (BitVec.ofNat 64 ((List.range 2048).findIdx fun q => mk.getLsbD q))) ∧
    (∃ v : VMask, Computes s x (.mset r j) [rM j, rS r] [rS r] 3 (.mask j.toNat v) ∧
      ∀ q, q < 2048 → v.getLsbD q = decide (q < (s.sreg r).toNat)) ∧
    vec (.vsel d a b m) [rV d, rV a, rV b, rM m] [rV a, rV b, rM m] 2 (vSel mk u (s.vreg b).data) (BitVec.allOnes 16384)
      sideOne ∧
    vec (.vins d r w i) [rV d, rS r] [rV d, rS r] 3 (vIns (Width.insBytes w) i.toNat (s.sreg r).toNat (s.vreg d).data)
      (BitVec.allOnes 16384) sideOne ∧
    Computes s x (.vext a r w i) [rS r, rV a] [rV a] 3 (.scalar r.toNat (BitVec.ofNat 64 (elem (Width.insBytes w) u i.toNat))) ∧
    vec (.vmv d a) [rV d, rV a] [rV a] 3 u (BitVec.allOnes 16384) sideOne ∧
    Computes s x (.vscRd a r z) [rS r, rV a] [rSide a] 3
      (.scalar r.toNat ((s.vreg a).side.extractLsb' (8 * z.toNat) 8 |>.setWidth 64)) ∧
    ∃ v : VSide, vec (.vscWr d r z) [rV d, rS r] [rSide d, rS r] 3 0 0 v ∧
      ∀ q, q < 64 → v.extractLsb' (8 * q) 8 =
        if q = z.toNat then (s.sreg r).setWidth 8 else (s.vreg d).side.extractLsb' (8 * q) 8

/-- 05 R171 to R177: the block operations. An operation given to exec with no bundle open is a bundle of one (the model's
choice, log entry 1). The conclusion is that exec answers a next state with these effects, under hypotheses on state and
operands alone: the checks of 03 R82 passed (Clear), the rest as named. Which of R171, R173 and R174 holds where they overlap
is the model's choice (log entry 60). -/
def Obligations.BlockOperationsComplete : Prop :=
  ∀ (s : State) (x : Ctx) (d a b k : BitVec 5) (m : BitVec 3), s.fctx? = some x →
    let mk := s.mreg m
    let u := s.vreg a
    let v := s.vreg b
    let blk (i : Instr) (names reads : List RegRef) (data : VData) (side : VSide) : Prop :=
      Computes s x i (rV d :: names) reads 6 (.vec d.toNat data (BitVec.allOnes 16384) side (BitVec.allOnes 512))
    let c (w n : Nat) := s.rctx s.ext (effPol x.arch.ovpol s.ext) (anyActive mk w n)
    blk (.vblkBexp d a m) [rV a, rM m] [rV a, rM m] (vBexp mk u.data) sideOne ∧
    VComputes s x (.vblkAnc d a b m) [rV d, rV a, rV b, rM m] [rV a, rV b, rM m] 6 d (s.rctx none .ieee false)
      (vAnc mk u.data v.data) ∧
    VComputes s x (.vblkUnanc d a m) [rV d, rV a, rM m] [rV a, rSide a, rM m] 6 d (c 8 256) (vUnanc (c 8 256).1 mk u.data u.side) ∧
    blk (.vblkPlpack d a b m k) [rV a, rV b, rM m] [rV a, rSide a, rV b, rM m] (vPlpack k.toNat mk u.data v.data) u.side ∧
    blk (.vblkPlunpk d a m k) [rV a, rM m] [rV a, rSide a, rM m] (vPlunpk k.toNat mk u.data) u.side ∧
    VComputes s x (.vblkBscale d a m) [rV d, rV a, rM m] [rV a, rM m] 6 d (c 4 512) (vBscale (c 4 512).1 mk u.data)

/-- 01 R27, R28; 04 R121: special registers read and, those that a context holds for itself, written: csrs and csrc with s0
only read. TABDAT and the registers of a core are stated below. An operation given to exec with no bundle open is a bundle of
one (the model's choice, log entry 1). The conclusion is that exec answers a next state with these effects, under hypotheses
on state and operands alone: the checks of 03 R82 passed (Clear), the rest as named. -/
def Obligations.SpecialRegisterAccessCompletes : Prop :=
  ∀ (s : State) (x : Ctx) (d a : SReg) (n : BitVec 12), s.fctx? = some x → csrKnown n.toNat = true → n ≠ 0x812 →
    let k := n.toNat
    let old := s.csrRead k
    let v := s.sreg a
    let reads (i : Instr) (ra : SReg) : Prop := csrBarred k x.arch.priv false = false →
      Computes s x i [rS d, rS ra] [rS ra] 2 (.scalar d.toNat old)
    let writes (i : Instr) (new : Word) : Prop := csrBarred k x.arch.priv true = false → csrOwn k = true →
      Effects s x i [rS d, rS a] [rS a] [.result 2 (.scalar d.toNat old), .csr k new]
        ((x.arch.csrPut x.dueFlags k new).move none) [x.flight 0 2 (.scalar d.toNat old)] [] [] s.fcore.mat
    reads (.csrr d n) 0 ∧ (a = 0 → reads (.csrs d a n) a ∧ reads (.csrc d a n) a) ∧
    writes (.csrw d a n) v ∧ (a ≠ 0 → writes (.csrs d a n) (old ||| v) ∧ writes (.csrc d a n) (old &&& ~~~v))

/-- 01 R33, R34, R37 to R40; 04 R121: csrw, csrs and csrc to SKEW, SLOTMASK, TVEC, WATCHDOG and FUNCMODE by the supervisor,
and the TABDAT port, whose accesses move TABIDX. The old value is in flight; by itself the operation leads one step past the
state with the register written (one operation given to exec alone is a bundle of one, log entry 1). -/
def Obligations.SharedRegisterWritesComplete : Prop :=
  ∀ (s : State) (x : Ctx) (d a : SReg) (n : BitVec 12), s.fctx? = some x → x.arch.priv = true →
    let old := s.csrRead n.toNat
    let v := s.sreg a
    let tab : Arch := { x.arch with tabidx := (x.arch.tabidx + 1) &&& 0xFFFFFFFF#64 }
    let takes (i : Instr) (ra : SReg) (act : Act) (B : State) (ar : Arch) : Prop :=
      Joins s i [rS d, rS ra] [rS ra] [.result 2 (.scalar d.toNat old), act] ∧
      (s.bundle = none → Clear x i [rS d, rS ra] [rS ra] →
        ∃ t y, exec i s = .next t ∧ Stepped B t x y ∧ y.arch = ar.move none ∧
          y.flights = x.flights ++ [x.flight 0 2 (.scalar d.toNat old)] ∧ y.gate = x.gate ∧ y.acc = x.acc)
    let news : List (Instr × Word) := (.csrw d a n, v) ::
      if a = 0 then [] else [(.csrs d a n, old ||| v), (.csrc d a n, old &&& ~~~v)]
    ∀ iw ∈ news,
      let v := iw.2
      let writes (B : State) : Prop := takes iw.1 a (.csr n.toNat v) B x.arch
      (n = 0x407 → writes (s.modCore s.fc fun k => { k with skew := v })) ∧
      (n = 0x409 → 4 < fld v 2 0 → writes s) ∧
      (n = 0x409 → fld v 2 0 ≤ 4 → writes (s.modCore s.fc fun k => Core.relimit { k with sup := fld v 2 0 })) ∧
      (n = 0x807 → writes (s.modCore s.fc fun k => { k with tvec := v &&& 0x00FFFFFFFFFFF800#64 })) ∧
      (n = 0x809 → writes (s.modCore s.fc fun k => { k with watchdog := watchdogWrite v })) ∧
      (n = 0x808 → writes
        (s.modDev fun e => { e with
          funcmode := v &&& 0x3F3F#64,
          funcPast := (s.cycle, e.funcmode) :: e.funcPast.filter fun q => decide (q.1 + 64 > s.cycle) })) ∧
      (n = 0x812 → old = s.tableRead (fld x.arch.tabsel 7 0) (fld x.arch.tabidx 31 0) ∧
        takes iw.1 a (.tabdat (some v)) (s.tableWrite (fld x.arch.tabsel 7 0) (fld x.arch.tabidx 31 0) v) tab ∧
        takes (.csrr d n) 0 (.tabdat none) s tab ∧
        (a = 0 → takes (.csrs d a n) a (.tabdat none) s tab ∧ takes (.csrc d a n) a (.tabdat none) s tab))

/-- 04 R124 to R130; 01 R25: the control transfers, from the bundle at B = PC: a branch's condition, the target B + 16 × disp
within 0 to 2^56 - 1, the link B + 48, the pad at an indirect target, and which delay slots are nullified. An operation given
to exec with no bundle open is a bundle of one (the model's choice, log entry 1). The conclusion is that exec answers a next
state with these effects, under hypotheses on state and operands alone: the checks of 03 R82 passed (Clear), the rest as
named. -/
def Obligations.ControlTransfersComplete : Prop :=
  ∀ (s : State) (x : Ctx), s.fctx? = some x →
    let pc := x.arch.pc.addr.toNat * 16
    let goes (i : Instr) (names reads : List RegRef) (acts : List Act) (fs : List Flight) (q : Xfer) : Prop :=
      Effects s x i names reads (acts ++ [.xfer q]) (x.arch.move (some q)) fs [] [] s.fcore.mat
    let dest (y : Int) (taken nul : Bool) : Xfer := ⟨taken, BitVec.ofNat 52 (y / 16).toNat, nul⟩
    let link := FlightVal.scalar 63 (BitVec.ofNat 64 (pc + 48))
    (∀ (c : Cond) (a b : SReg) (i : BitVec 11) (taken : Bool),
      let u := s.sreg a
      let v := s.sreg b
      let y := (pc : Int) + 16 * i.toInt
      (taken = true ↔ match c with
        | .eq => u = v | .ne => u ≠ v | .lt => u.toInt < v.toInt | .ge => v.toInt ≤ u.toInt
        | .ltn => u.toNat < v.toNat | .gen => v.toNat ≤ u.toNat | .bs => u &&& v ≠ 0 | .bc => u &&& v = 0) →
      (taken = true → 0 ≤ y ∧ y < 2 ^ 56) →
      goes (.br c a b i) [rS a, rS b] [rS a, rS b] [] [] (dest y taken false) ∧
      goes (.brl c a b i) [rS a, rS b] [rS a, rS b] [] [] (dest y taken !taken) ∧
      goes (.bru c a b i) [rS a, rS b] [rS a, rS b] [] [] (dest y taken taken)) ∧
    (∀ i : BitVec 26, 0 ≤ (pc : Int) + 16 * i.toInt → (pc : Int) + 16 * i.toInt < 2 ^ 56 →
      goes (.j i) [] [] [] [] (dest (pc + 16 * i.toInt) true false) ∧
      goes (.jl i) [] [] [.link (BitVec.ofNat 64 (pc + 48))] [x.flight 0 1 link] (dest (pc + 16 * i.toInt) true false)) ∧
    (∀ (y : Word) (pa : Nat), y.toNat < 2 ^ 56 → y.toNat % 16 = 0 → s.translate s.fc x .fetch y.toNat = .ok pa →
      let q : Xfer := ⟨true, BitVec.ofNat 52 (y.toNat / 16), false⟩
      (∀ (a : SReg) (p : BitVec 12), s.sreg a = y → x.landsAt pa p = true →
        goes (.jr a p) [rS a] [rS a] (s.conflictActs y) [] q ∧
        goes (.jlr a p) [rS a] [rS a] (.link (BitVec.ofNat 64 (pc + 48)) :: s.conflictActs y) [x.flight 0 1 link] q) ∧
      (s.sreg 63 = y → goes .ret [] [rS 63] (s.conflictActs y) [] q) ∧
      (∀ (i t b : SReg) (pl : BitVec 8) (e : Nat), (s.sreg i).toNat < (s.sreg b).toNat →
        (s.sreg t + 8 * s.sreg i).toNat = e → e < 2 ^ 56 → e % 8 = 0 →
        ∀ pe, s.dataXlate .read e 8 = .ok pe → x.tableWaits e pe (isWindow e) = false → s.tableWord e pe = y →
        x.landsAt pa (0xF00#12 + pl.setWidth 12) = true →
        let rs := [rS i, rS t, rS b]
        let acts := s.conflictActs (s.sreg t + 8 * s.sreg i) ++ s.tableActs e pe ++ s.conflictActs y
        (s.tableActs e pe = [] → goes (.jtab i t b pl) rs rs acts [] q) ∧
        (s.tableActs e pe ≠ [] → Joins s (.jtab i t b pl) rs rs (acts ++ [.xfer q]) ∧
          (s.bundle = none → Clear x (.jtab i t b pl) rs rs →
            ∃ u y, exec (.jtab i t b pl) s = .next u ∧ Stepped (s.windowLoad (e % 0x1000000)).2 u x y ∧
              y.arch = x.arch.move (some q) ∧ y.flights = x.flights ∧ y.gate = x.gate ∧ y.acc = x.acc)))) ∧
    ∀ p : BitVec 12, Effects s x (.land p) [] [] [] (x.arch.move none) [] [] [] s.fcore.mat

/-- 01 R25; 04 R125, R131: the queue after a transfer: two delay slots, DC at 2, then the target, or, where the transfer is
not taken, the bundle that follows; the slots of a transfer that nullifies carry N, as those of a brl that is not taken do.
-/
def Obligations.TransfersTakeEffectAfterTwoDelaySlots : Prop :=
  ∀ (a : Arch) (y : BitVec 52) (nul : Bool),
    let m := a.move (some ⟨true, y, nul⟩)
    m.pc.addr = a.q1.addr ∧ m.pc.n = (a.q1.n || nul) ∧ m.q1.addr = a.q2.addr ∧ m.q1.n = (a.q2.n || nul) ∧
    m.q2 = ⟨y, false⟩ ∧ m.dc = 2 ∧ m.step = a.step + 1 ∧
    ((m.move none).move none).pc = ⟨y, false⟩ ∧ ((m.move none).move none).dc = 0 ∧
    ((m.move none).move none).q1 = ⟨y + 1, false⟩ ∧
    (a.move none).pc = a.q1 ∧ (a.move none).q1 = a.q2 ∧ (a.move none).q2 = ⟨a.q2.addr + 1, false⟩ ∧
    (a.move none).dc = a.dc - 1 ∧
    let k := a.move (some ⟨false, y, nul⟩)
    k.pc.addr = a.q1.addr ∧ k.pc.n = (a.q1.n || nul) ∧ k.q1.addr = a.q2.addr ∧ k.q1.n = (a.q2.n || nul) ∧
    k.q2 = ⟨a.q2.addr + 1, false⟩ ∧ k.dc = 2 ∧ k.step = a.step + 1 ∧
    ((k.move none).move none).pc = ⟨a.q2.addr + 1, false⟩ ∧ ((k.move none).move none).dc = 0

/-- 04 R135 to R137: ld and st of scratchpad where every check of R146 passes: the value loaded, extended, is due 4 steps on;
a store waits in the gated store buffer. An operation given to exec with no bundle open is a bundle of one (the model's
choice, log entry 1). The conclusion is that exec answers a next state with these effects, under hypotheses on state and
operands alone: the checks of 03 R82 passed (Clear), the rest as named. -/
def Obligations.ScratchpadAccessesComplete : Prop :=
  ∀ (s : State) (x : Ctx) (r b : SReg) (w : Width) (n : Bool) (o : BitVec 11) (offs : List Nat), s.fctx? = some x →
    let e := s.sreg b + immS s.ext 11 o
    let k := Width.bytes w
    let bs := s.spLoad (isSwz e.toNat) offs
    let v := extendLoad k n (numLE bs)
    let g : GateEnt :=
      .sp ((offs.zip (bytesLE k (s.sreg r).toNat)).map fun c => ⟨c.1, c.2, BitVec.allOnes 8, isSwz e.toNat⟩) false
    e.toNat < 2 ^ 23 → viewOffs x.banks e.toNat k = some offs → e.toNat % k = 0 →
    (∀ q ∈ offs, s.fcore.engineOwns (tileOf q) = false) → s.fcore.unfilledOf offs = [] →
    Effects s x (.ld r b w n o) [rS r, rS b] [rS b] (.result 4 (.scalar r.toNat v) :: s.viewActs e offs)
      (x.arch.move none) [x.flight 0 4 (.scalar r.toNat v)] [] [] s.fcore.mat ∧
    (x.gate.length < 16 →
      Effects s x (.st r b w o) [rS r, rS b] [rS r, rS b] [.gate g] (x.arch.move none) [] [g] [] s.fcore.mat)

/-- 04 R138 to R140: ldg, lda, stg and str of global memory and of the register window where every check of R146 passes. str
takes a restart mark first and publishes what its context has stored. An operation given to exec with no bundle open is a
bundle of one (the model's choice, log entry 1). The conclusion is that exec answers a next state with these effects, under
hypotheses on state and operands alone: the checks of 03 R82 passed (Clear), the rest as named. -/
def Obligations.GlobalAccessesComplete : Prop :=
  ∀ (s : State) (x : Ctx) (r b : SReg) (w : Width) (n : Bool) (o : BitVec 11) (pa : Nat),
    let k := Width.bytes w
    let ea (s : State) : Word := s.sreg b + immS s.ext 11 o
    let win (s : State) : Bool := isWindow (ea s).toNat
    let fine (s : State) (u : Use) : Prop :=
      (ea s).toNat < 2 ^ 56 ∧ (ea s).toNat % k = 0 ∧ s.dataXlate u (ea s).toNat k = .ok pa
    let loads (i : Instr) (kind : AccKind) : Prop :=
      Effects s x i [rS r, rS b] [rS b] (.load kind r.toNat (ea s).toNat pa k n (win s) :: s.conflictActs (ea s))
        (x.arch.move none) [x.flight 0 24 (.load r.toNat x.nextId none)] []
        [{ id := x.nextId, ord := x.nextId, kind := kind, va := (ea s).toNat, pa := pa, len := k, zext := n, bytes := [],
           fwd := (List.range k).map fun i => gateGlobal x.gate (pa + i), got := none, win := win s, acq := false, rel := false,
           atom := none }] s.fcore.mat
    let entry (s : State) (rel : Bool) : GateEnt :=
      if win s then .win ((ea s).toNat % 0x1000000) (s.sreg r) rel
      else .gl (ea s).toNat pa (bytesLE k (s.sreg r).toNat) rel 0
    (s.fctx? = some x → fine s .read → loads (.ldg r b w n o) .ldg ∧ loads (.lda r b w n o) .lda) ∧
    (s.fctx? = some x → fine s .write → x.gate.length < 16 →
      Effects s x (.stg r b w o) [rS r, rS b] [rS r, rS b] (.gate (entry s false) :: s.conflictActs (ea s))
        (x.arch.move none) [] [entry s false] [] s.fcore.mat) ∧
    (s.fctx?.isSome = true → s.marked.fctx? = some x → fine s.marked .write →
      Joins s (.str r b w o) [rS r, rS b] [rS r, rS b] (.gate (entry s true) :: s.conflictActs (ea s)) ∧
      (s.bundle = none → Clear x (.str r b w o) [rS r, rS b] [rS r, rS b] →
        ∃ t y, Stepped s.marked t x y ∧ y.arch = x.arch.move none ∧ y.flights = x.flights ∧ y.acc = x.acc ∧
          y.gate = x.gate ++ [entry s.marked true] ∧
          exec (.str r b w o) s = .next ((t.publishGate s.fc s.fp).closeWindow s.fc s.fp)))

/-- 04 R141 to R145: the atomics. By itself one takes a restart mark, is published, and every access of its context that may be
performed is, in program order (log entry 61); the old value is in flight, and a second mark follows. Where no earlier access
and no held store keeps it waiting, the n bits of memory at the address have by then been replaced in one act. An operation
given to exec with no bundle open is a bundle of one (the model's choice, log entry 1). The conclusion is that exec answers a
next state with these effects, under hypotheses on state and operands alone: the checks of 03 R82 passed (Clear), the rest as
named. -/
def Obligations.AtomicsComplete : Prop :=
  ∀ (s : State) (x z0 : Ctx) (d b c : SReg) (w q e : Bool) (sc : Scope) (pa : Nat),
    let k := if w then 4 else 8
    let n := 8 * k
    let s1 := s.marked
    let ea := s1.sreg b
    s.fctx?.isSome = true → s1.fctx? = some x → ea.toNat < 2 ^ 56 → ea.toNat % k = 0 →
    s1.dataXlate .readWrite ea.toNat k = .ok pa → isWindow ea.toNat = false →
    let P := s1.performAll s.fc s.fp
    P.fctx? = some z0 →
    let m := numLE (P.dev.paBytes pa k)
    let u := (s1.sreg d).toNat % 2 ^ n
    let does (i : Instr) (fn : AmoFn) (names : List RegRef) (v : Word) (new : Option Nat) : Prop :=
      Joins s i names names (.atomic d.toNat ea.toNat pa k ⟨fn, s.sreg d, v⟩ q e :: s.conflictActs ea) ∧
      (s.bundle = none → Clear x i names names →
        let A : Access :=
          { id := x.nextId, ord := x.nextId, kind := .atomic, va := ea.toNat, pa := pa, len := k, zext := false, bytes := [],
            fwd := [], got := none, win := false, acq := q, rel := e, atom := some ⟨fn, s1.sreg d, v⟩ }
        let Q := (s1.modCtx s.fc s.fp fun x => { x with acc := x.acc ++ [A], nextId := x.nextId + 1 }).performAll s.fc s.fp
        ∃ z t y, Q.fctx? = some z ∧ Stepped Q t z y ∧ y.arch = z.arch.move none ∧ y.gate = z.gate ∧ y.acc = z.acc ∧
          y.flights = z.flights ++ [z.flight 0 32 (.load d.toNat x.nextId none)] ∧
          exec i s = .next (((t.publishGate s.fc s.fp).closeWindow s.fc s.fp).takeMark s.fc s.fp) ∧
          ((∀ a ∈ x.acc, a.id < x.nextId ∧ a.ord < x.nextId) → (∀ a ∈ z0.acc, a.pending = true → a.holds A = false) →
            (∀ h ∈ P.heldBy z0, h.holds A = false) →
            Q.dev = (match new with
              | some y => P.dev.paPut pa (bytesLE k y)
              | none => P.dev) ∧
            z.acc = z0.acc ++ [{ A with got := some (extendLoad k false m) }]))
    let amo (i : Instr) (fn : AmoFn) (y : Nat) : Prop := does i fn [rS d, rS b] 0 (some y)
    amo (.amoAdd d b w q e sc) .add ((m + u) % 2 ^ n) ∧ amo (.amoAnd d b w q e sc) .and (m &&& u) ∧
    amo (.amoOr d b w q e sc) .or (m ||| u) ∧ amo (.amoXor d b w q e sc) .xor (m ^^^ u) ∧
    amo (.amoMin d b w q e sc) .min (if sint n m ≤ sint n u then m else u) ∧
    amo (.amoMax d b w q e sc) .max (if sint n u ≤ sint n m then m else u) ∧
    amo (.amoMinn d b w q e sc) .minn (min m u) ∧ amo (.amoMaxn d b w q e sc) .maxn (max m u) ∧
    amo (.amoSwp d b w q e sc) .swp u ∧
    does (.cas d b c w q e sc) .cas [rS d, rS b, rS c] (s1.sreg c)
      (if m = u then some ((s1.sreg c).toNat % 2 ^ n) else none)

/-- 06 R189, R193 to R201: the matrix operations by the context that holds the array: their effects wait in the matrix unit
for their latencies; a beat takes its row after every update issued before it. What each effect does as it falls due; and a
beat of mode i8 with integer accumulation, column by column. An operation given to exec with no bundle open is a bundle of one
(the model's choice, log entry 1). The conclusion is that exec answers a next state with these effects, under hypotheses on
state and operands alone: the checks of 03 R82 passed (Clear), the rest as named. -/
def Obligations.MatrixOperationsComplete : Prop :=
  ∀ (s : State) (x : Ctx) (v : BitVec 5) (e : BitVec 3) (j : BitVec 7) (r n : BitVec 8) (q : BitVec 2), s.fctx? = some x →
    let m := s.fcore.mat
    let f (k lat : Nat) (op : MatOp) : MatFlight := ⟨x.stepNo + lat, x.arch.lvl, x.ord + k, op⟩
    let pends (fs : List MatFlight) : MatUnit := { m with pend := m.pend ++ fs }
    let line := eighthOf (s.vreg v).data (s.vreg v).side e.toNat
    let eighth : List RegRef := [rEighth v e.toNat, { cls := .side, num := v.toNat, part := some e.toNat }]
    let row := x.aBase + r.toNat
    (m.holder = some s.fp → m.mode.isSome = true →
      Effects s x (.mpush v e j) [rV v] eighth [.mat 2 (.push (!m.active) j.toNat line v.toNat)] (x.arch.move none) [] [] []
        (pends [f 0 2 (.push (!m.active) j.toNat line v.toNat)])) ∧
    (m.holder = some s.fp →
      (s.swapStall = none → Effects s x .mswap [] [] [.mat 1 .swap] (x.arch.move none) [] [] [] (pends [f 0 1 .swap])) ∧
      (bit x.arch.check 0 = false → s.bundle = none → Clear x .mswap [] [] →
        Completes s x .mswap (x.arch.move none) [] [] [] (pends [f 0 1 .swap]))) ∧
    (m.holder = some s.fp → ∀ (k : MatMode) (pl : BitVec 4) (a t : Bool),
      Effects s x (.mmode k pl a t) [] [] [.mat 1 (.mode ⟨k, pl.toNat, a, t⟩)] (x.arch.move none) [] [] []
        (pends [f 0 1 (.mode ⟨k, pl.toNat, a, t⟩)])) ∧
    Effects s x (.mzero r n) ((List.range (n.toNat + 1)).map fun i => rA (r.toNat + i)) []
      ((List.range (n.toNat + 1)).map fun i => .mat 1 (.row (row + i) 0)) (x.arch.move none) [] [] []
      (pends ((List.range (n.toNat + 1)).map fun i => f i 1 (.row (row + i) 0))) ∧
    (∀ c, m.mode = some c →
      let o := beat c line m.lines (m.rowNow row)
      Effects s x (.macc v e r) [rV v, rA r.toNat] eighth
        (.mat 140 (.row row o.1) :: match o.2 with
          | some col => [.result 140 (.sat r.toNat (some col) c.satt)]
          | none => [])
        (x.arch.move none)
        (match o.2 with
          | some col => [x.flight 1 140 (.sat r.toNat (some col) c.satt)]
          | none => []) [] [] (pends [f 0 140 (.row row o.1)])) ∧
    (let val : FlightVal :=
        .vec v.toNat (BitVec.ofNat 16384 ((Tab.get m.rows 0 row).toNat * 2 ^ (4096 * q.toNat))) (quarterMask q.toNat) sideOne
          (quarterSide q.toNat);
      ((∀ g, m.lastRow row = some g → g.lvl = x.arch.lvl ∧ g.due ≤ x.stepNo) →
        Effects s x (.mdrain v q r) [rV v, rA r.toNat] [] [.result 6 val] (x.arch.move none) [x.flight 0 6 val] [] [] m ∧
        Effects s x (.mdrainz v q r) [rV v, rA r.toNat] [] [.result 6 val, .mat 1 (.row row 0)] (x.arch.move none)
          [x.flight 0 6 val] [] [] (pends [f 1 1 (.row row 0)])) ∧
      (bit x.arch.check 0 = false → s.bundle = none →
        (Clear x (.mdrain v q r) [rV v, rA r.toNat] [] →
          Completes s x (.mdrain v q r) (x.arch.move none) [x.flight 0 6 val] [] [] m) ∧
        (Clear x (.mdrainz v q r) [rV v, rA r.toNat] [] → Completes s x (.mdrainz v q r) (x.arch.move none)
          [x.flight 0 6 val] [] [] (pends [f 1 1 (.row row 0)])))) ∧
    (∀ (u : MatUnit) (due lvl ord : Nat),
      let does (op : MatOp) (w : MatUnit) : Prop := ∀ n, lvl = n → ∀ k, due ≤ k →
        MatUnit.applyDue n k 1 { u with pend := [⟨due, lvl, ord, op⟩] } = { w with pend := [] }
      does .swap { u with active := !u.active } ∧
      (∀ k l w, does (.push true k l w) { u with bank1 := Tab.set u.bank1 k l } ∧
        does (.push false k l w) { u with bank0 := Tab.set u.bank0 k l }) ∧
      (∀ c, does (.mode c) { u with mode := some c, bank0 := [], bank1 := [] } ∧
        (∀ k, Tab.get ([] : Tab Line) Line.zero k = ⟨0, 0x7F7F7F7F7F7F7F7F#64⟩) ∧
        ∀ g ∈ (u.applyOp ⟨due, lvl, ord, .mode c⟩).pend, ord < g.ord ∨ ∀ j k l w, g.op ≠ .push j k l w) ∧
      (∀ k w, does (.row k w) { u with rows := Tab.set u.rows k w } ∧
        ∀ g ∈ (u.applyOp ⟨due, lvl, ord, .row k w⟩).pend, ord < g.ord ∨ ∀ v, g.op ≠ .row k v) ∧
      ∀ op n k, lvl ≠ n ∨ k < due → MatUnit.applyDue n k 1 { u with pend := [⟨due, lvl, ord, op⟩] } =
        { u with pend := [⟨due, lvl, ord, op⟩] }) ∧
    ∀ (c : MatCfg) (a l : Line) (ls : List Line) (w : AccRow) (k : Nat), c.mode = .i8 → c.acci = true → k < 128 →
      ls[k]? = some l →
      let sum : Int := (w.extractLsb' (32 * k) 32).toInt + ((List.range 256).map fun i =>
        (a.data.extractLsb' (8 * i) 8).toInt * (l.data.extractLsb' (8 * i) 8).toInt).sum
      let o := beat c a ls w
      (o.1.extractLsb' (32 * k) 32).toInt = max (-2 ^ 31) (min (2 ^ 31 - 1) sum) ∧
      (o.2 = some k → sum < -2 ^ 31 ∨ 2 ^ 31 - 1 < sum) ∧
      (sum < -2 ^ 31 ∨ 2 ^ 31 - 1 < sum → ∃ j, j ≤ k ∧ o.2 = some j)

/-- 07 R217 to R223: ring instructions: the waits that find what they wait for, the advance and the release, owner bits, a
ring initialised, and vjoin. An operation given to exec with no bundle open is a bundle of one (the model's choice, log entry
1). The conclusion is that exec answers a next state with these effects, under hypotheses on state and operands alone: the
checks of 03 R82 passed (Clear), the rest as named. A vjoin precedes the stores of its own bundle (the model's choice, log
entry 63). -/
def Obligations.RingInstructionsComplete : Prop :=
  ∀ (s : State) (x : Ctx) (q : BitVec 5) (a : SReg), s.fctx?.isSome = true → s.marked.fctx? = some x →
    let k := s.marked.fcore
    let r := k.ring q.toNat
    let w := s.marked.sreg a
    let hands (i : Instr) (names reads : List RegRef) (act : Act) (eff : State → State) : Prop :=
      Hands s x i names reads [act] (x.arch.move none) eff id
    let init (new : Ring) : Prop :=
      hands (.rinit q a) [rQ q, rS a] [rS a] (.rinit q.toNat new) fun t =>
        t.modCore t.fc fun k => (k.setOwner new.tiles false).setRing q.toNat new
    (s.fctx? = some x → (s.fcore.ring q.toNat).cside = false → (s.fcore.ring q.toNat).occ ≠ 0 →
      Effects s x (.waitf q) [rQ q] [] [] (x.arch.move none) [] [] [] s.fcore.mat) ∧
    (s.fctx? = some x → (s.fcore.ring q.toNat).pside = false →
      (s.fcore.ring q.toNat).occ ≠ (s.fcore.ring q.toNat).count →
      Effects s x (.waitr q) [rQ q] [] [] (x.arch.move none) [] [] [] s.fcore.mat) ∧
    (r.valid = true → r.cside = false → r.occ ≠ 0 →
      hands (.rels q) [rQ q] [] (.rels q.toNat) fun t => t.ringRelease t.fc q.toNat) ∧
    (r.valid = true → r.pside = false → r.occ ≠ r.count →
      hands (.radv q) [rQ q] [] (.radv q.toNat) fun t => t.modCore t.fc fun k => k.ringProduce q.toNat 1) ∧
    (∀ ts, rangePhys x.banks w = some ts → (∀ t ∈ ts, t ∉ k.engineRingTiles) →
      hands (.own a) [rS a] [rS a] (.own ts (bit w 24)) fun t => t.modCore t.fc fun k => k.setOwner ts (bit w 24)) ∧
    ((∀ c ∈ k.cmds, q.toNat ∉ c.rings) →
      (bit w 63 = false → init Ring.reset) ∧
      ∀ ts, bit w 63 = true → fld w 46 41 ≤ fld w 40 35 → fld w 40 35 ≠ 0 →
        ((List.range ((fld w 40 35 + 1) * (fld w 34 30 + 1))).map fun i => fld w 29 21 + i).mapM (viewTile x.banks) = some ts →
        init { Ring.reset with
          valid := true, perm1 := fld w 46 41, countm1 := fld w 40 35, slotm1 := fld w 34 30, first := ts.headD 0,
          tiles := ts }) ∧
    (s.fctx? = some x → Joins s .vjoin [] [] [.vjoin] ∧ (s.bundle = none → Clear x .vjoin [] [] →
      ∃ t y, exec .vjoin s = .next t ∧ Stepped s t x y ∧ y.arch = x.arch.move none ∧ y.flights = x.flights ∧
        y.acc = x.acc ∧ y.views = [] ∧
        y.gate = x.gate.map fun e => match e with | .sp bs _ => .sp bs true | e => e))

/-- 07 R236 to R243, R247, R248: sync objects, the gang and cross-device synchronisation once released, drain with nothing
outstanding, end with no command outstanding, and yield; an arrival joins the updates of its cycle, and the bank controller
tests the sums of a cycle's updates of an object once: below zero they are discarded, at zero the phase flips and the counts
are reloaded, else the counts fall. That a cycle's updates apply as it ends is the model's choice (log entry 55). An operation
given to exec with no bundle open is a bundle of one (the model's choice, log entry 1). The conclusion is that exec answers a
next state with these effects, under hypotheses on state and operands alone: the checks of 03 R82 passed (Clear), the rest as
named. A drain of any scope waits alike (the model's choice, log entry 61). -/
def Obligations.SynchronisationCompletes : Prop :=
  ∀ (s : State) (x : Ctx) (a b : SReg) (ph : Bool) (c : BitVec 8) (sc : Scope) (o : Nat), s.fctx?.isSome = true →
    s.marked.fctx? = some x →
    let k := s.marked.fcore
    let w := s.marked.sreg a
    let hands (i : Instr) (names : List RegRef) (acts : List Act) (eff after : State → State) : Prop :=
      Hands s x i names names acts (x.arch.move none) eff after
    let fine : Prop :=
      w.toNat < 2 ^ 23 ∧ w.toNat % 16 = 0 ∧ ∃ offs, viewOffs x.banks w.toNat 16 = some offs ∧ offs.headD 0 = o ∧
        (∀ q ∈ offs, k.engineOwns (tileOf q) = false) ∧ k.unfilledOf offs = []
    (fine →
      hands (.arrive a) [rS a] [.arrive o none w] (fun t => t.actArrive o none w) id ∧
      hands (.arriveb a b) [rS a, rS b] [.arrive o (some (s.marked.sreg b)) w]
        (fun t => t.actArrive o (some (s.marked.sreg b)) w) id ∧
      (bit (k.spWord o) 63 ≠ ph → hands (.waitph a ph) [rS a] [] id id)) ∧
    (x.actIn = true → hands .sync [] [.joined none]
      (fun t => t.modCtx t.fc t.fp fun x => { x with actIn := false, syncIn := false, syncWait := 0 }) id) ∧
    ((∃ e, (c.toNat, e, true) ∈ x.barSent) → hands (.barx c) [] [.joined (some c.toNat)]
      (fun t => t.modCtx t.fc t.fp fun x => { x with barSent := x.barSent.filter fun b => b.1 != c.toNat }) id) ∧
    (s.marked.drained s.fc s.fp = true → hands (.drain sc) [] [] id id) ∧
    (s.marked.ownCmds = [] → x.engineFault = false → hands .endTask [] [.retire] id fun t =>
      (t.modCtx t.fc t.fp fun x => { x with run := .retired }).endTurn t.fc) ∧
    hands .yield [] [.yield] id (fun t => t.endTurn t.fc) ∧
    (∀ (t : State) (bytes : Option Word) (sa : Word), (t.actArrive o bytes sa).fcore.sobj =
      let p := t.performAll t.fc t.fp
      p.fcore.sobj ++ [⟨o, 1, (bytes.getD 0).toNat, .context p.fctx.gang p.fctx.coreIdx p.fctx.field0 p.fctx.nextId sa⟩]) ∧
    (∀ (q : Core) (arr bytes : Nat), Memory.wf q.sp = true →
      let w0 := q.spWord o
      let w1 := q.spWord (o + 8)
      let r := q.syncPut o arr bytes
      (fld w0 62 40 < arr ∨ fld w0 39 0 < bytes → r = (q, false)) ∧
      (fld w0 62 40 = arr → fld w0 39 0 = bytes → r.2 = true ∧ bit (r.1.spWord o) 63 = !bit w0 63 ∧
        fld (r.1.spWord o) 62 40 = fld w1 62 40 ∧ fld (r.1.spWord o) 39 0 = fld w1 39 0) ∧
      (arr ≤ fld w0 62 40 → bytes ≤ fld w0 39 0 → arr < fld w0 62 40 ∨ bytes < fld w0 39 0 → r.2 = true ∧
        bit (r.1.spWord o) 63 = bit w0 63 ∧ fld (r.1.spWord o) 62 40 = fld w0 62 40 - arr ∧
        fld (r.1.spWord o) 39 0 = fld w0 39 0 - bytes)) ∧
    (∀ (t : State) (n : Nat), (t.core n).unfilled (tileOf o) = false →
      let us := (t.core n).sobj.filter fun u => u.off == o && t.sobjReady u
      let r := (t.core n).syncPut o (us.foldl (fun m u => m + u.arr) 0) (us.foldl (fun m u => m + u.bytes) 0)
      (∀ u ∈ us, ∃ g i f ord sa, u.who = .context g i f ord sa) → r.2 = true →
        t.sobjCycle n o = t.setCore n { r.1 with sobj := r.1.sobj.filter fun u => u.off != o || !t.sobjReady u })

/-- 07 R244 to R246: trap commits and then its context takes BREAK with its number; eret and idle of the supervisor commit and
then return from the handler, or block. An operation given to exec with no bundle open is a bundle of one (the model's choice,
log entry 1). -/
def Obligations.TrapReturnAndIdleComplete : Prop :=
  ∀ (s : State) (x : Ctx) (n : BitVec 16), s.fctx? = some x →
    let does (i : Instr) (act : Act) (after : State → State) : Prop :=
      Joins s i [] [] [act] ∧ (s.bundle = none → Clear x i [] [] →
        ∃ t y, Stepped s t x y ∧ y.arch = x.arch.move none ∧ y.flights = x.flights ∧ y.gate = x.gate ∧ y.acc = x.acc ∧
          t.fcore.mat = s.fcore.mat ∧ exec i s = .next (after (t.closeWindow s.fc s.fp)))
    does (.trap n) (.trap n.toNat) (fun t => t.trapEnter t.fc t.fp .brk (BitVec.ofNat 64 n.toNat) 1) ∧
    (x.arch.priv = true →
      does .eret .eret (fun t => t.trapReturn t.fc t.fp) ∧
      does .idle .idle fun t => (t.modCtx t.fc t.fp fun x => { x with run := .blocked .idle t.cycle }).endTurn t.fc)

/-- 07 R210, R211, R224 to R233; 11 R340, R341: engine commands enter their queues where every check passes and a place is
free: each is captured as its bundle commits, after its rings' sides become engine sides. A shape load enters the records
that the copy engine has read. An operation given to exec with no bundle open is a bundle of one (the model's choice, log
entry 1). The conclusion is that exec answers a next state with these effects, under hypotheses on state and operands alone:
the checks of 03 R82 passed (Clear), the rest as named. What a ninth entry of the region table meets is the model's choice
(log entry 64). That a copy takes its bank formats element by element, its sizes from element 0, and a draw where any
element converts, is the model's choice (log entry 18), as is that a shape load adds one to its queue's count of commands
(log entry 17). -/
def Obligations.EngineCommandsComplete : Prop :=
  ∀ (s : State) (x : Ctx) (a b : SReg) (h : BitVec 4) (q p : BitVec 5) (c : BitVec 8), s.fctx?.isSome = true →
    s.marked.fctx? = some x →
    let s1 := s.marked
    let k := s1.fcore
    let u := s1.sreg a
    let v := s1.sreg b
    let room (e : Nat) : Prop := (k.cmds.countP fun m => m.eng == e) + s1.stagedCmds e < 32
    let hands (i : Instr) (names reads : List RegRef) (acts : List Act) (ar : Arch) (eff : State → State) : Prop :=
      Hands s x i names reads acts (ar.move none) eff id
    let side (q : Nat) (prod : Bool) (t : State) : State :=
      t.modCore t.fc fun k => if prod then k.ringPside q else k.ringCside q
    let queues (i : Instr) (names reads : List RegRef) (m : Cmd) : Prop :=
      hands i names reads [.cmd m] x.arch fun t => t.actCmd m
    let rings (i : Instr) (names reads : List RegRef) (q : BitVec 5) (prod : Bool) (m : Cmd) : Prop :=
      hands i names reads [.ringSide q.toNat prod, .cmd m] x.arch fun t => (side q.toNat prod t).actCmd m
    let cmd (fn : Nat) (sa sb : Word) (qa qb : Nat) : Cmd := s1.newCmd fn sa sb qa qb
    let ws := x.arch.shape h.toNat
    let e := Shape.parse ws
    let cnames := [rS a, rS b] ++ if e.kind = 1 ∧ e.cmode = 0 then [rQ q] else []
    (∀ sa sb : Side, e.kind ≠ 0 → sideOf (s1.gangCores x.gang s1.fc).length u = some sa →
      sideOf (s1.gangCores x.gang s1.fc).length v = some sb → shapeOk x.banks ws = true →
      (if e.cmode = 0 then (k.ring q.toNat).valid = true else q = 0) → room 0 →
      let fmts (i : Nat) := (s1.sideFmt s1.fc x.banks x.gang sa (sa.addr e.src i),
        s1.sideFmt s1.fc x.banks x.gang sb (sb.addr e.dst i))
      let z := copySizes (copyKind (fmts 0).1 (fmts 0).2) e
      sideBad s1.dev x.banks h.toNat sa u e.src z.1 = none → sideBad s1.dev x.banks h.toNat sb v e.dst z.2 = none →
      let m := s1.cmdMode e.rnd ((List.range (extents e.src)).any fun i => match copyKind (fmts i).1 (fmts i).2 with
        | .convert _ _ => true
        | _ => false)
      let cm : Cmd := { cmd 0 u v 0 q.toNat with shape := ws, md := m.1, sr := m.2.1 }
      hands (.cpy a b h q) cnames [rS a, rS b]
        (m.2.2 ++ (if e.cmode = 0 then [.ringSide q.toNat true] else []) ++ [.cmd cm])
        { x.arch with rngs := if m.2.2 = [] then x.arch.rngs else m.2.1 }
        (fun t => (if e.cmode = 0 then side q.toNat true t else t).actCmd cm)) ∧
    (∀ recs ad, e.kind = 0 → v = 0 → q = 0 → h.toNat + e.nm1 ≤ 15 → sideOf 0 u = some (.glob ad) →
      ad + 256 * (e.nm1 + 1) ≤ 2 ^ 56 → s1.loadBar ad (256 * (e.nm1 + 1)) = none →
      x.recordsOf true ad (256 * (e.nm1 + 1)) = some recs →
      (∀ i, i < recs.length / 32 → recordOk x.banks ((recs.drop (32 * i)).take 32) = true) →
      hands (.cpy a b h q) [rS a, rS b] [rS a, rS b] (s1.pageConflicts ad (256 * (e.nm1 + 1)) ++ [.shapes h.toNat recs]) x.arch
        fun t =>
          t.modCtx t.fc t.fp fun x =>
            { x with arch := { x.arch with shapes := Tab.setFrom x.arch.shapes (32 * h.toNat) recs }, cmds := x.cmds + 1 }) ∧
    (∀ recs ad offs, e.kind = 0 → v = 0 → q = 0 → h.toNat + e.nm1 ≤ 15 → sideOf 0 u = some (.own ad) →
      viewOffs x.banks ad (256 * (e.nm1 + 1)) = some offs → k.unfilledOf offs = [] →
      x.recordsOf false ad (256 * (e.nm1 + 1)) = some recs →
      (∀ i, i < recs.length / 32 → recordOk x.banks ((recs.drop (32 * i)).take 32) = true) →
      hands (.cpy a b h q) [rS a, rS b] [rS a, rS b] [.shapes h.toNat recs] x.arch fun t =>
        t.modCtx t.fc t.fp fun x =>
          { x with arch := { x.arch with shapes := Tab.setFrom x.arch.shapes (32 * h.toNat) recs }, cmds := x.cmds + 1 }) ∧
    (pressOk u q.toNat p.toNat = true → (k.ring q.toNat).valid = true → (k.ring p.toNat).valid = true → room 1 →
      let m := s1.cmdMode (fld u 6 4) true
      let cm : Cmd := { cmd 1 u 0 q.toNat p.toNat with md := m.1, sr := m.2.1 }
      hands (.press a q p) [rS a, rQ q, rQ p] [rS a]
        (m.2.2 ++ [.ringSide q.toNat false, .ringSide p.toNat true, .cmd cm])
        { x.arch with rngs := if m.2.2 = [] then x.arch.rngs else m.2.1 }
        (fun t => (side p.toNat true (side q.toNat false t)).actCmd cm)) ∧
    ((k.ring q.toNat).valid = true → room 2 →
      rings (.stash a b q) [rS a, rS b, rQ q] [rS a, rS b] q false (cmd 2 u v q.toNat 0) ∧
      rings (.fetch a q) [rS a, rQ q] [rS a] q true (cmd 3 u 0 0 q.toNat)) ∧
    (room 2 → queues (.drop a) [rS a] [rS a] (cmd 4 u 0 0 0)) ∧
    ((k.ring q.toNat).valid = true → s1.dev.chanOk c.toNat = true → room 3 →
      rings (.send c q) [rQ q] [] q false { cmd 5 0 0 q.toNat 0 with aux := c.toNat }) ∧
    (∀ offs, v.toNat ≤ 4095 → u.toNat < 2 ^ 23 → viewOffs x.banks u.toNat 64 = some offs → u.toNat % 64 = 0 →
      (∀ o ∈ offs, k.engineOwns (tileOf o) = false) → k.unfilledOf offs = [] → room 3 →
      queues (.arm a b) [rS a, rS b] [rS a, rS b] { cmd 6 u v 0 0 with aux := offs.headD 0 }) ∧
    (u.toNat ≤ 1023 → room 3 → queues (.ctradd a b) [rS a, rS b] [rS a, rS b] (cmd 7 u v 0 0)) ∧
    (∀ ts base, rangePhys x.banks u = some ts → (∀ t ∈ ts, k.engineOwns t = false) → v.toNat < 2 ^ 56 → v.toNat % 64 = 0 →
      s1.rmapBase (bit u 31) v = some base → room 4 → s1.regionsNow.length < 8 →
      let r : Region := ⟨fld u 8 0, fld u 17 9 + 1, base.toNat, bit u 31⟩
      (∀ g ∈ s1.regionsNow, r.meets g = false) →
      hands (.rmap a b) [rS a, rS b] [rS a, rS b] [.regionMap r, .cmd { cmd 8 u v 0 0 with range := ts }] x.arch
        fun t => (t.actRegion r).actCmd { cmd 8 u v 0 0 with range := ts }) ∧
    (∀ ts, rangePhys x.banks u = some ts → room 4 →
      (∀ t ∈ rangeTiles u, ∃ r ∈ x.regions, r.first ≤ t ∧ t < r.first + r.count) →
      queues (.rflush a) [rS a] [rS a] { cmd 9 u 0 0 0 with range := ts } ∧
      queues (.rinv a) [rS a] [rS a] { cmd 10 u 0 0 0 with range := ts })

/-- 05 R178 to R188: vld, vst, vgath and vscat of scratchpad where every check of R184 passes: what a load gives its
register is in flight; what a store writes waits in the gated store buffer; the flags raised are due with a load, and a step
after a store (01 R32). An operation given to exec with no bundle open is a bundle of one (the model's choice, log entry 1).
The conclusion is that exec answers a next state with these effects, under hypotheses on state and operands alone: the
checks of 03 R82 passed (Clear), the rest as named. The bytes that a gathered pni element counts as reaching are the model's
choice (log entry 62). That vst and vscat take the mask by the width of TYPE (log entry 11), and that VIEW_ALIGN names the
lowest element that fails (log entry 25), is the model's choice. -/
def Obligations.VectorMemoryAccessesComplete : Prop :=
  ∀ (s : State) (x : Ctx) (v j : BitVec 5) (b : SReg) (m : BitVec 3) (t : EType) (o : BitVec 8), s.fctx? = some x →
    let mk := s.mreg m
    let w := EType.width t
    let u := s.vreg v
    let e := s.sreg b + 64 * immS s.ext 8 o
    let old := if m = 0 then [] else [rV v]
    let ix (i : Nat) : Nat := elem 4 (s.vreg j).data i
    let at_ (i : Nat) : Word := s.sreg b + BitVec.ofNat 64 (ix i)
    let raised (n lat : Nat) (f : Fl) : List Flight := if f = 0 then [] else [x.flight n lat (.flags f)]
    let drawn (c : RCtx × List Act) : Arch := ({ x.arch with rngs := c.1.s } : Arch).move none
    let loads (i : Instr) (names reads : List RegRef) (lat : Nat) (c : RCtx × List Act) (r : VRes) (after : List Act) : Prop :=
      r.trap = none → Effects s x i names reads (c.2 ++ vecAct lat v r.data r.side :: flagActs lat r.fl ++ after) (drawn c)
        (x.flight 0 lat (.vec v.toNat r.data (BitVec.allOnes 16384) r.side (BitVec.allOnes 512)) :: raised 1 lat r.fl)
        [] [] s.fcore.mat
    let stores (i : Instr) (names reads : List RegRef) (c : RCtx × List Act) (cells : List SpStore) (f : Fl) : Prop :=
      x.gate.length < 16 → Effects s x i names reads (c.2 ++ .gate (.sp cells false) :: flagActs 1 f) (drawn c)
        (raised 0 1 f) [.sp cells false] [] s.fcore.mat
    (∀ a, s.vCheck e t false = .ok a → s.fcore.unfilledOf a.offs = [] →
      let c := s.memRctx (vRounds a.fmt t false a.kind && anyActive mk w (2048 / w))
      loads (.vld v b m t o) [rV v, rS b, rM m] ([rS b, rM m] ++ old) (if a.fmt.elem = 7 then 8 else 6) c
        (vLoadRes a.fmt t c.1 mk u.data (numLE (s.spLoad (isSwz e.toNat) a.offs)) a.kind)
        (s.viewActs e ((vUsed a.fmt t (active mk w) a.kind).filterMap fun j => a.offs[j]?))) ∧
    (∀ a, s.vCheck e t true = .ok a → s.fcore.unfilledOf a.offs = [] →
      let c := s.memRctx (vRounds a.fmt t true a.kind && anyActive mk w (2048 / w))
      let swz := isSwz e.toNat
      let r := vStoreRes a.fmt t c.1 mk u.data u.side a.kind
      trapOf r.rs = none →
      stores (.vst v b m t o) [rV v, rS b, rM m] ((if a.kind = .whole then [rSide v] else []) ++ [rV v, rS b, rM m]) c
        (r.cells.filterMap fun q => (a.offs[q.1]?).map fun o =>
          ⟨o, BitVec.ofNat 8 q.2, storeMask a.fmt a.kind (active mk w) q.1, swz⟩) (flagsOf r.rs)) ∧
    (∀ es,
      let pni := s.pniBase (s.sreg b)
      gatherAll (((List.range 512).filter (active mk w)).map fun i =>
        (at_ i, match pni with
          | some f => s.pniCheck f t (s.sreg b) i (ix i)
          | none => s.elemCheck t i (at_ i))) none [] = .ok es →
      s.fcore.unfilledOf (es.flatMap GElem.offs) = [] →
      let c := s.memRctx (pni.isNone && es.any fun g => (g.ty.map (convRounds t)).getD false)
      let swz (g : GElem) : Bool := if pni.isSome then isSwz (s.sreg b).toNat else isSwz g.ea.toNat
      let val (g : GElem) : RRes := gatherVal pni t c.1 (swz g) s.spLoad g (ix g.i)
      (∀ g ∈ es, (val g).trap = false) →
      loads (.vgath v b j m t) [rV v, rS b, rV j, rM m] ([rS b, rV j, rM m] ++ old) (if pni.isSome then 12 else 10) c
        (vresOf w ((List.range (2048 / w)).map fun i =>
          if i ≥ 512 then .ok 0 else (Tab.find? (es.map fun g => (g.i, val g)) i).getD (.ok (elem w u.data i))))
        (es.findSome? fun g => if s.fcore.loadBad s.fctx s.free (swz g) g.offs
          then some (Act.viewBad g.ea.toNat) else none).toList) ∧
    (∀ es,
      gatherAll (((List.range 512).filter (active mk w)).map fun i => (at_ i, s.elemCheck t i (at_ i))) none [] = .ok es →
      s.fcore.unfilledOf (es.flatMap GElem.offs) = [] →
      let c := s.memRctx (es.any fun g => (g.ty.map fun d => convRounds d t).getD false)
      let val (g : GElem) : RRes := match g.ty with
        | some d => convMem d t c.1 g.i (elem w u.data g.i)
        | none => .ok (elem w u.data g.i)
      (∀ g ∈ es, (val g).trap = false) →
      stores (.vscat v b j m t) [rV v, rS b, rV j, rM m] [rV v, rS b, rV j, rM m] c
        (es.flatMap fun g => (g.offs.zip (bytesLE g.offs.length (val g).bits)).map fun o =>
          ⟨o.1, o.2, BitVec.allOnes 8, isSwz g.ea.toNat⟩)
        (flagsOf (es.map val)))

/-! The events. -/

/-- 01 R25, R42 to R44, R47, R49: a stall step, the step of a nullified bundle, the results due written, a reply that reaches
its results in flight and ends the freeze that waited for it, a walk kept and installed; and of every event: where the state
does not hold its occasion, it leaves the state as it is (the model's choice, log entry 58). -/
def Obligations.StepsResultsAndRepliesHappen : Prop :=
  (∀ (s : State) (i : Instr), s.lacks i → exec i s = .next s) ∧
  ∀ (s : State) (c p : Nat) (x : Ctx), s.ctx? c p = some x →
    (s.focus = (c, p) →
      (x.stalls ≠ 0 → Leads s .stallStep fun t => Around s t ∧ t.bundle = s.bundle ∧ ∃ y, t.fctx? = some y ∧
        y.stepNo = x.stepNo + 1 ∧ y.stalls = x.stalls - 1 ∧ y.arch = { x.arch with step := x.arch.step + 1 } ∧
        y.flights = x.flights ∧ y.gate = x.gate ∧ y.acc = x.acc) ∧
      (x.arch.pc.n = true → Leads s .bundleNullified fun t => Around s t ∧ t.bundle = s.bundle ∧ ∃ y, t.fctx? = some y ∧
        y.stepNo = x.stepNo + 1 ∧ y.arch = { x.arch.move none with bpExempt := x.arch.bpExempt } ∧ y.flights = x.flights ∧
        y.gate = x.gate ∧ y.acc = x.acc) ∧
      Leads s .resultDue fun t => t.dev = s.dev ∧ t.fcore.sp = s.fcore.sp ∧ ∃ y, t.fctx? = some y ∧
        y.flights = x.leftFlights (sortFlights (x.flights.filter fun f => x.isDue f && !f.val.late)) ∧
        y.stepNo = x.stepNo ∧ y.gate = x.gate ∧
        y.acc = x.acc ∧ y.arch.pc = x.arch.pc) ∧
    (∀ id a v, x.acc.find? (fun a => a.id == id) = some a → a.got = some v → (∀ b ∈ x.acc, b.pending = false) →
      x.run = .ready → Leads s (.globalReply c p id) fun t => t.dev = s.dev ∧
        t.ctx? c p = some { x with
          acc := x.acc.filter fun a => a.id != id, flights := fillLoad id v x.flights,
          mark := x.mark.map fun m => { m with flights := fillLoad id v m.flights } } ∧
        (t.core c).freeze = (s.core c).freeze.filter fun f => !(f.place == p && f.kind == .reply id)) ∧
    (∀ f va, (s.core c).freeze = some f → f.place = p → f.kind = .xlate va →
      (s.dev.walk va = none → Leads s (.translationResolved c p) fun t =>
        t.ctx? c p = some { x with walks := x.walks ++ [(va / 0x10000, .fault .pageNotPresent)] }) ∧
      ∀ e, s.dev.walk va = some e → Leads s (.translationResolved c p) fun t =>
        t.ctx? c p = some { x with walks := x.walks ++ [(va / 0x10000, .ok e)] } ∧ (t.core c).utlb.head? = some e ∧
        (t.die (dieOf c)).tlb.head? = some e)

/-- 10 R313, R314, R333, R334, R337; 09 R295; 07 R240 to R243: pending and debug traps taken, the quantum's end, traps that
become pending, the end of waits and of host parks. Each event leads to a next state from every state where its occasion
stands; otherwise see the clause of log entry 58 in StepsResultsAndRepliesHappen (the model's choice). A trap taken spends a
cycle (10 R311), and the host's resumption of a parked context is trapReturn and then a restart mark, which is the model's
choice (log entry 51; R245 and R337 give the return and no mark). When an event happens, and how long what it ends lasts, is
the model's choice (log entry 40). -/
def Obligations.TrapAndWaitEventsHappen : Prop :=
  ∀ (s : State) (c p : Nat) (x : Ctx), s.ctx? c p = some x →
    let pends (i : Instr) (k : Cause) (w : Word) : Prop := Leads s i fun t => t = s.setCtx c p (x.withPend k w)
    (s.focus = (c, p) →
      (∀ q, x.nextPend = some q →
        let y : Ctx := { x with
          pends := dropPend q x.pends, ctl := if q.cause = .timer then x.ctl &&& ~~~0x10#64 else x.ctl }
        (q.cause.isMachineCheck = false →
          Leads s .takePendingTrap fun t => t = (s.setCtx c p y).trapEnter c p q.cause q.info 0) ∧
        (q.cause.isMachineCheck = true → Leads s .takePendingTrap fun t => t = (s.rollback c p).takePending c p)) ∧
      (x.arch.priv = false → x.arch.inHandler = false → x.arch.bpExempt = false → x.arch.pc.n = false → bit x.ctl 1 = true →
        x.arch.pc.addr.toNat = fld x.bpaddr 55 4 →
        Leads s .breakpoint fun t => t = (s.spend c).trapEnter c p .breakpoint x.bpaddr 0) ∧
      (x.arch.inHandler = false → x.arch.quantum ≠ 0 → x.arch.quantum.toNat ≤ (s.core c).turnSteps →
        (x.qtrap = true → Leads s .quantumExpiry fun t => t = s.trapEnter c p .quantum x.arch.quantum 0) ∧
        (x.qtrap = false → Leads s .quantumExpiry fun t => t.ctx? c p = some x ∧ t.dev = s.dev ∧
          (t.core c).turn = ((s.core c).turn + 1) % 4 ∧ (t.core c).turnSteps = 0))) ∧
    (bit x.ctl 4 = true → x.tcmp.toNat ≤ s.cycle → x.hasPend .timer = false →
      pends (.timer c p) .timer (BitVec.ofNat 64 s.cycle)) ∧
    (∀ w, x.hasPend .hostEvent = false → pends (.hostevt c p w) .hostEvent w) ∧
    (∀ w, x.hasPend .hostEvent = true → Leads s (.hostevt c p w) fun t => t = s.setCtx c p
      { x with pends := x.pends.map fun q => if q.cause = .hostEvent then ⟨.hostEvent, w⟩ else q }) ∧
    (∀ since g, x.run = .blocked .sync since → 4096 * fld (s.core c).watchdog 31 0 < s.cycle - since + x.syncWait →
      x.hasPend .syncTimeout = false → Tab.find? s.dev.gangs x.gang = some g →
      pends (.syncTimeout c p) .syncTimeout (BitVec.ofNat 64 g.line)) ∧
    (∀ since ch, x.run = .blocked (.barx ch) since → fld (s.dev.chanWord ch 2) 15 0 ≠ 0 →
      65536 * fld (s.dev.chanWord ch 2) 15 0 < s.cycle - since → x.hasPend .barrierTimeout = false →
      (∀ b ∈ x.barSent, b.1 = ch → s.dev.absent (s.dev.chanGroup ch) b.2.1 = false) →
      pends (.barrierTimeout c p) .barrierTimeout (BitVec.ofNat 64 ch)) ∧
    (x.hostParked = true →
      Leads s (.actionResume c p) (fun t => t = ((s.trapReturn c p).recordMark c p).tellPresence c p) ∧
      Leads s (.actionHandler c p) fun t => t = s.enterHandler c p (causeGroup (x.arch.ecause.setWidth 6))) ∧
    (∀ b since, x.run = .blocked b since →
      let done := s.performAll c p
      (∀ k, b = .drain k → done.drained c p = true →
        Leads s (.drainSatisfied c p) fun t => t = done.modCtx c p fun x => { x with run := .ready }) ∧
      (b = .sync → done.allPerformed c p = true →
        Leads s (.drainSatisfied c p) fun t => t = done.modCtx c p fun x => { x with syncIn := true }) ∧
      ∀ ch, b = .barx ch → (∀ q ∈ x.barSent, q.1 ≠ ch) → done.allPerformed c p = true →
        Leads s (.drainSatisfied c p) fun t => t = done.barSend c p ch)

/-- 10 R321 to R328; 04 R145; 06 R207; 10 R329: freezes that expire, replies that do not come, hung cores, detected errors
and failed beats: rollbacks, parks and traps. Each event leads to a next state from every state where its occasion stands;
otherwise see the clause of log entry 58 in StepsResultsAndRepliesHappen (the model's choice). When an event happens, and
how long what it ends lasts, is the model's choice (log entry 40). The row number in EINFO is the architectural one (the
model's choice, log entry 63). That the results of a split access are settled before a rollback (log entry 66), that a hung
core's context that has not started is put at its start (log entry 50), and the step at which an error of a retry window is
met (log entry 59) are the model's choices. -/
def Obligations.FreezesAndErrorsAreHandled : Prop :=
  ∀ (s : State) (c p : Nat) (x : Ctx), s.ctx? c p = some x →
    let r := s.rollback c p
    let dog := fld (s.core c).watchdog 31 0
    (∀ f, (s.core c).freeze = some f → f.place = p → f.since + f.bound ≤ s.cycle →
      let parks (y : Ctx) (run : Run) : Prop := Leads s (.freezeTimeoutBeforeCommit c p) fun t => (t.core c).freeze = none ∧
        ((s.core c).turn = p → (t.core c).turn = (p + 1) % 4) ∧
        t.ctx? c p = some { y with run := run, turnStart := true, absent := some (x.absent.getD (s.dev.tokensOf x.barChs)) }
      (∀ va, f.kind = .xlate va ∨ (∃ l, f.kind = .read va l) ∨ (f.kind = .migrate va ∧ s.hostDecides (pageOf va) = true) →
        x.hasPend .freezeTimeout = false → parks (x.withPend .freezeTimeout (BitVec.ofNat 64 va)) .ready) ∧
      (∀ va, f.kind = .migrate va → s.hostDecides (pageOf va) = false → parks x (.migrating (pageOf va))) ∧
      (∀ id a, f.kind = .reply id → x.acc.find? (fun a => a.id == id) = some a →
        (a.kind = .atomic → Leads s (.freezeTimeoutAtDue c p) fun t => t = r.parkSilent c p (.awaitAtomic id s.cycle)) ∧
        (a.kind ≠ .atomic → s.pageHere (pageOf a.va) = false → s.hostDecides (pageOf a.va) = false →
          Leads s (.freezeTimeoutAtDue c p) fun t => t = r.parkSilent c p (.migrating (pageOf a.va))) ∧
        (a.kind ≠ .atomic → s.pageHere (pageOf a.va) = true ∨ s.hostDecides (pageOf a.va) = true →
          Leads s (.freezeTimeoutAtDue c p) fun t => t = r.pendFreeze c p a.va)) ∧
      (64 * dog < s.cycle - f.since →
        let n := s.cycle - f.since
        let hung (u : State) (q : Nat) : State := ((u.settleSplit c q).rollback c q).trapEnter c q .coreHung
          (BitVec.ofNat 64 (c % 512 * 2 ^ 32 + min n 0xFFFFFFFF)) 0
        Leads s (.coreHung c) fun t => t = (((s.core c).ctxs.filter fun q => q.2.run != .retired).foldl (fun u q =>
          match u.ctx? c q.1 with
          | none => u
          | some y => match y.run with
            | .starting _ => hung (u.startTask c q.1) q.1
            | _ => hung u q.1) (s.modCore c fun k => { k with freeze := none })).post 8 c 0 (BitVec.ofNat 64 n) 0 0)) ∧
    (∀ id since a, x.run = .awaitAtomic id since → x.acc.find? (fun a => a.id == id) = some a → since + 16 * dog ≤ s.cycle →
      Leads s (.atomicReplyTimeout c p) fun t => t = ((s.modCtx c p fun x => x.dropAtomic id).rollback c p).trapEnter c p
        .mcData (BitVec.ofNat 64 (9 * 2 ^ 60 + a.va % 2 ^ 56)) 0) ∧
    (let z := s.settleSplit c p;
      let back := z.rollback c p;
      (∀ (e : DetErr) (y : Ctx), e.source ≠ 9 → z.ctx? c p = some y →
        (y.window = none → y.run ≠ .parked → Leads s (.detectedError c p e) fun t =>
          t = (back.modCtx c p fun v => { v with window := some (y.errorStep e) }).tellPresence c p) ∧
        (y.window = none → y.run = .parked → Leads s (.detectedError c p e) fun t =>
          t = back.modCtx c p fun v => { v with window := some (y.errorStep e) }) ∧
        (y.window.isSome = true → e.source ≠ 5 → e.source ≠ 8 →
          Leads s (.detectedError c p e) fun t => ∃ u v, (z.takeFree 1).rollback c p = u ∧ u.ctx? c p = some v ∧
            t = u.trapEnter c p (if e.source = 6 ∨ e.source = 7 then .mcLogic else .mcData)
              (BitVec.ofNat 64 (e.source.toNat * 2 ^ 60 + e.detail.toNat)) 0) ∧
        (e.source ≠ 4 → e.source ≠ 5 → e.source ≠ 8 → y.errorStep e = y.arch.step.toNat)) ∧
      (∀ f : BeatFail, (s.core c).mat.holder = some p →
        (f.retryOk = true → Leads s (.matrixBeatRetry c f) fun t => t = s.countTransient c p) ∧
        ∀ y, z.ctx? c p = some y → f.retryOk = false → f.afterMark = true → Leads s (.matrixBeatRetry c f) fun t =>
          t = back.trapEnter c p (if f.ecc then .mcData else .mcLogic)
            (BitVec.ofNat 64 (6 * 2 ^ 60 + (f.row.toNat - y.aBase) % 256)) 0) ∧
      ∀ g a, Tab.find? s.dev.gangs x.gang = some g → g.st = .saving → x.saveCycle.toNat + dog ≤ s.cycle → a ∈ x.awaited →
        a.kind ≠ .atomic → x.markOrd ≤ a.ord →
        ((∀ b ∈ x.awaited, b.kind ≠ .atomic) → Leads s (.preemptionReplyTimeout c p) fun t => t = back) ∧
        ∀ b, x.awaited.find? (fun b => b.kind == .atomic) = some b → x.saveCycle.toNat + 16 * dog ≤ s.cycle →
          (∀ i n, x.run ≠ .awaitAtomic i n) → Leads s (.preemptionReplyTimeout c p) fun t =>
            t = ((z.modCtx c p fun v => v.dropAtomic b.id).rollback c p).trapEnter c p .mcData
              (BitVec.ofNat 64 (9 * 2 ^ 60 + b.va % 2 ^ 56)) 0)

/-- 09 R286 to R293, R296, R310; 10 R329, R337; 07 R240; 13 R406, R407, R420, R421: gangs placed, started, chosen for
pre-emption, saved, retired and aborted, their sync lines released, their energy counted, and the slew limiter's steps. Each
event leads to a next state from every state where its occasion stands; otherwise see the clause of log entry 58 in
StepsResultsAndRepliesHappen (the model's choice). When an event happens, and how long what it ends lasts, is the model's
choice (log entry 40). Which heads are considered while victims are saved is the model's choice (log entry 73). That a
gang's start fixes its code as device and host memory stand then (log entry 50), which gang pays for a core's energy (log
entry 47), and that no gang is placed while BOOTST holds the cores in reset (log entry 42) are the model's choices. -/
def Obligations.GangEventsHappen : Prop :=
  ∀ (s : State),
    (s.dev.coresHeld = true → Leads s .placementDecision (fun t => t = s) ∧
      ∀ c p, Leads s (.contextStart c p) fun t => t = s) ∧
    (∀ k q rest r, s.dev.coresHeld = false → k < 8 → s.dev.preempt = [] → (∀ j, j < k → s.classQueue j = []) → s.classQueue k = q :: rest →
      q.saved = none → taskOk (s.wantOf q).tt (s.wantOf q).cpc = true → s.chooseRect [] (s.wantOf q) = some r →
      Leads s .placementDecision fun t => t.dev.placeDue = true ∧ ∃ g, Tab.find? t.dev.gangs s.dev.nextGang = some g ∧
        g.st = .placed ∧ g.launch = q ∧ g.die = r.die ∧ g.row = r.row ∧ g.col = r.col ∧ g.w = q.width ∧ g.h = q.height) ∧
    (s.dev.coresHeld = false → (∀ j, j < 8 → s.classQueue j = []) → Leads s .placementDecision fun t =>
      t.dev.placeDue = false ∧ t.cores = s.cores ∧ t.dev.gangs = s.dev.gangs ∧ t.dev.classq = s.dev.classq) ∧
    (∀ c p x n, s.dev.coresHeld = false → s.ctx? c p = some x → x.run = .starting n → n ≤ s.cycle → c ∈ s.gangCores x.gang c →
      Leads s (.contextStart c p) fun t => t.ctx? c p = some { x with
        run := .ready,
        code := x.code.orElse fun _ => some { mem := s.dev.mem, undef := s.dev.memUndef, host := s.dev.hostMem } }) ∧
    (∀ k w vs, s.blockedHead = some (k, w) →
      let going := s.dev.going k
      (going = [] ∨ s.chooseRect going w = none) → s.victims w going [] (s.eligible k) = some vs →
      Leads s .preemptionRound fun t =>
        ({ cls := k, head := (s.classQueue k).head?, victims := going ++ vs } : Preempting) ∈ t.dev.preempt ∧ ∀ v ∈ vs, ∀ g, Tab.find? s.dev.gangs v = some g →
        g.st = .placed → ∃ h, Tab.find? t.dev.gangs v = some h ∧ h.st = .saving) ∧
    (∀ g q, Tab.find? s.dev.gangs g = some q → s.saveReady g q = true →
      (s.reclaimWait g q = none → Leads s (.saveComplete g) fun t => t = s.saveGang g q) ∧
      ∀ e, s.reclaimWait g q = some e → Leads s (.saveComplete g) fun t => t = s.wbHold e.1 e.2) ∧
    (∀ g q c, Tab.find? s.dev.gangs g = some q → s.groupEnded g c = true → q.st = .placed →
      s.wbWait c (s.core c).wbFails (s.reclaimCells g c) = none →
      let B := (s.writeBack c (s.reclaimCells g c)).freeGroup g c
      let left := q.coresLeft.filter fun i => q.cores.getD i 0 != c
      let h : Gang := { (Tab.find? B.dev.gangs g).getD q with coresLeft := left }
      (left = [] → Leads s (.groupRetirement g c) fun t => t = B.retireGang g h) ∧
      (left ≠ [] → Leads s (.groupRetirement g c) fun t => t = B.setGang g h ∧
        ∀ p y, t.ctx? c p = some y → y.gang ≠ g)) ∧
    (∀ c p x g, s.ctx? c p = some x → x.hostParked = true → Tab.find? s.dev.gangs x.gang = some g →
      Leads s (.actionAbort c p) fun t => (∃ h, Tab.find? t.dev.gangs x.gang = some h ∧ h.st = .aborting) ∧
        ∀ d ∈ g.cores, ∀ q y, t.ctx? d q = some y → y.gang = x.gang → y.run = .retired ∧ y.gate = []) ∧
    (∀ g q, Tab.find? s.dev.gangs g = some q → s.syncReady g = true → Leads s (.syncRelease g) fun t =>
      ∀ c ∈ q.cores, ∀ p y, s.ctx? c p = some y → y.gang = g → y.atSync = true →
        t.ctx? c p = some { y with run := .ready, syncIn := false, actIn := true }) ∧
    (∀ c uj id g, s.gangOn c = some (id, g) → Tab.find? s.dev.gangs id = some g →
      let i := 2 * (16 * g.die + g.line)
      let sum := (Tab.get s.dev.energyTab 0 i).toNat + uj
      Leads s (.energyEstimate c uj) fun t =>
        (sum < 2 ^ 64 → Tab.get t.dev.energyTab 0 i = BitVec.ofNat 64 sum) ∧
        (2 ^ 64 ≤ sum → Tab.get t.dev.energyTab 0 i = BitVec.allOnes 64 ∧ bit (Tab.get t.dev.energyTab 0 (i + 1)) 63 = true) ∧
        ∀ b, g.budget = some b → ∃ h, Tab.find? t.dev.gangs id = some h ∧
          (uj < g.ebal.toNat → h.ebal = g.ebal - BitVec.ofNat 64 uj ∧ h.cls = g.cls) ∧
          (g.ebal.toNat ≤ uj → h.ebal = b ∧ h.cls = min (g.cls + 1) 7)) ∧
    (∀ k q, (s.dev.cluster k).claims = [q] → s.rampDue k = true → Leads s (.claimGrant k) fun t =>
      (t.dev.cluster k).claims = [] ∧
        (t.core q.core).skew = if s.dev.slewOn then BitVec.ofNat 64 (s.cycle - q.made) else 0) ∧
    ∀ k, let b := s.beatsFrom k (s.cycle / 4 * 4)
      let e := fld (Tab.get s.dev.rampTab 0 16) 15 0
      let q := s.dev.cluster k
      let add := min (fillersNeeded e b q.lastEst (s.dev.rampDown q.downRun)) (s.fillerRoom k (s.cycle / 4 * 4))
      Leads s (.rampDownStep k) fun t => (t.dev.cluster k).lastEst = e * (b + if s.dev.slewOn then add else 0) ∧
        (t.dev.cluster k).fillers = q.fillers + if s.dev.slewOn then add else 0

/-- 09 R276 to R281: doorbells, queues made resident and switched out, head records forwarded. Each event leads to a next
state from every state where its occasion stands; otherwise see the clause of log entry 58 in StepsResultsAndRepliesHappen
(the model's choice). When an event happens, and how long what it ends lasts, is the model's choice (log entry 40). A queue
that PENDING drives out, the one resident longest without a record that waits, leaves 2^20 cycles after the last that was
driven out, and the first at once (the model's choice, log entry 71). -/
def Obligations.LaunchQueueEventsHappen : Prop :=
  ∀ (s : State) (q : Nat),
    let r := s.dev.lqueue q
    (∀ tl : BitVec 32,
      (s.dev.qcount ≤ q → Leads s (.tailWrite q tl) fun t => t = s) ∧
      (q < s.dev.qcount → q ∈ s.dev.resident →
        let fine := r.error = false ∧ tailOk (fld r.base 4 0) r.progress r.head tl = true
        (fine → Leads s (.tailWrite q tl) fun t => (t.dev.lqueue q).tail = tl ∧ (t.dev.lqueue q).head = r.head ∧
          (t.dev.lqueue q).progress = r.progress ∧ (t.dev.lqueue q).error = false) ∧
        (¬fine → Leads s (.tailWrite q tl) fun t => (t.dev.lqueue q).error = true ∧ (t.dev.lqueue q).tail = r.tail)) ∧
      (q < s.dev.qcount → q ∉ s.dev.resident → ∀ a b c u, s.queueEntry q = some (a, b, c) → bit a 6 = false →
        tailOk (fld a 4 0) (BitVec.ofNat 32 (fld b 63 32)) (BitVec.ofNat 32 (fld c 31 0)) tl = true →
        s.hostqPut (s.dev.qentry q 1) (bytesLE 4 tl.toNat) = some u → tl.toNat ≠ fld c 31 0 →
        Leads s (.tailWrite q tl) fun t => q ∈ t.dev.pendingQ)) ∧
    (∀ a b c, s.dev.pendingQ.head? = some q → s.dev.resident.length < 64 → s.queueEntry q = some (a, b, c) →
      2 ≤ fld a 4 0 → fld a 4 0 ≤ 15 → Leads s (.queueResident q) fun t => q ∈ t.dev.resident ∧ q ∉ t.dev.pendingQ ∧
        (t.dev.lqueue q).tail = BitVec.ofNat 32 (fld b 31 0) ∧ (t.dev.lqueue q).progress = BitVec.ofNat 32 (fld b 63 32) ∧
        (t.dev.lqueue q).head = BitVec.ofNat 32 (fld c 31 0) ∧ (t.dev.lqueue q).error = bit a 6) ∧
    (q ∈ s.dev.resident → s.queueDone q = true → ∀ u, s.hostqPut (s.dev.qentry q 0)
      (bytesLE 8 (r.base.toNat + r.error.toNat * 64) ++ bytesLE 4 r.tail.toNat ++ bytesLE 4 r.progress.toNat ++
        bytesLE 8 r.head.toNat) = some u →
      Leads s (.queueSwitchOut q) fun t => t = u.modDev fun d => { d with resident := d.resident.filter fun i => i != q }) ∧
    (q ∈ s.dev.resident → s.queueDone q = false → s.queueDriven = some q → ∀ u, s.hostqPut (s.dev.qentry q 0)
      (bytesLE 8 (r.base.toNat + r.error.toNat * 64) ++ bytesLE 4 r.tail.toNat ++ bytesLE 4 r.progress.toNat ++
        bytesLE 8 r.head.toNat) = some u →
      Leads s (.queueSwitchOut q) fun t => t = u.modDev fun d => { d with
        resident := d.resident.filter fun i => i != q, lastSwitch := some s.cycle }) ∧
    (q ∈ s.dev.resident → s.queueDone q = false → s.queueDriven ≠ some q → Leads s (.queueSwitchOut q) fun t => t = s) ∧
    (let late : Prop := ∀ n, s.dev.lastSwitch = some n → n + 2 ^ 20 ≤ s.cycle
     let waits (i : Nat) : Prop := ∃ c < 8, ∃ rec ∈ s.classQueue c, rec.queue = some i
     (s.dev.pendingQ ≠ [] → 64 ≤ s.dev.resident.length → late → ∀ l m, s.dev.resident = l ++ q :: m → (∀ i ∈ l, waits i) →
       ¬waits q → s.queueDriven = some q) ∧
     (s.dev.pendingQ = [] ∨ s.dev.resident.length < 64 ∨ ¬late ∨ (∀ i ∈ s.dev.resident, waits i) → s.queueDriven = none)) ∧
    (s.mayForward q = true →
      (∀ o, Leads s (.recordForward ⟨q, some o⟩) fun t => let P := s.poisonPage (r.headAt + o % 128)
        t = (P.queueError q).postQueue q (P.dev.lqueue q).head.toNat) ∧
      (s.headRecord q = none → Leads s (.recordForward ⟨q, none⟩) fun t => t = (s.queueError q).postQueue q r.head.toNat) ∧
      ∀ rec, s.headRecord q = some rec →
        (s.waitMet rec = false → Leads s (.recordForward ⟨q, none⟩) fun t => t = s) ∧
        (s.waitMet rec = true → s.recordOk rec = false →
          Leads s (.recordForward ⟨q, none⟩) fun t => t = (s.queueError q).postQueue q rec.count) ∧
        (s.waitMet rec = true → s.recordOk rec = true → Leads s (.recordForward ⟨q, none⟩) fun t =>
          (t.dev.lqueue q).head = r.head + 1 ∧ (t.dev.lqueue q).waitPlace = some rec.count ∧ rec.count = r.head.toNat ∧
            t.classQueue rec.cls = s.classQueue rec.cls ++ [rec]))

/-- 09 R297, R299, R300, R305: arrivals, the Sheepdog's own decision and the host's. Each event leads to a next state from
every state where its occasion stands; otherwise see the clause of log entry 58 in StepsResultsAndRepliesHappen (the model's
choice). A pre-empted pass in a class queue is no waiting launch (the model's choice, log entry 72). DECIDE launches
whatever FUNCMODE.MBSEL is, and with MBSEL = 1 an occasion is posted whatever SCTL.EN is (the model's choice, log entry 46);
a DECIDE that names no entry, or a FWD tag that cannot be bound, or that finds a launch waiting, sets ERR and launches
nothing. -/
def Obligations.SheepdogEventsHappen : Prop :=
  ∀ (s : State) (k : Nat) (w : Word),
    (∀ h, s.dev.heldArr.find? (fun h => h.1 == k) = some h → (s.dev.arrivalsOf k).length < 512 →
      Leads s (.heldArrivalEntry k) fun t => h.2 ∈ t.dev.arrivalsOf k ∧ t.dev.heldArr = s.dev.heldArr.erase h) ∧
    (let a : Arrival := ⟨fld w 15 0, fld w 47 32⟩;
      let l := s.dev.arrivalsOf (fld w 63 62);
      (l.length < 512 → Leads s (.dogPost w) fun t => a ∈ t.dev.arrivalsOf (fld w 63 62) ∧ t.dev.sctl = s.dev.sctl) ∧
      (512 ≤ l.length → a ∉ l → Leads s (.dogPost w) fun t =>
        t.dev.arrivalsOf (fld w 63 62) = l ∧ bit t.dev.sctl 61 = true)) ∧
    (let row := fld w 4 0;
      let a : Arrival := ⟨fld w 31 16, fld w 47 32⟩;
      let q := fld (s.dev.polWord row 1) 63 62;
      (q = 0 → (s.dev.canBind a = true ↔ ∃ i v, s.dev.stageSlot a.stage = some i ∧ s.dev.boundTo i a.tag = none ∧
        s.dev.bindTarget i = some v)) ∧
      (s.dogWaiting = true ∨ a ∉ s.dev.arrivalsOf q ∨ q = 0 ∧ s.dev.canBind a = false → Leads s (.dogDecide w) fun t => bit t.dev.sctl 62 = true ∧
        t.dev.arrivals = s.dev.arrivals ∧ t.dev.classq = s.dev.classq) ∧
      ∀ i, s.dogWaiting = false → (q = 0 → s.dev.canBind a = true) → (s.dev.arrivalsOf q).findIdx? (· == a) = some i →
        Leads s (.dogDecide w) fun t => t = s.dogLaunch row i a) ∧
    (let u := (s.modDev fun d => { d with dogDue := false }).vintagesReady;
      (bit u.funcMode 0 = true → Leads s .sheepdogDecision fun t => t = u.post 3 0 0 u.socc u.sinfl 0) ∧
      (bit u.funcMode 0 = false → bit u.dev.sctl 63 = false → Leads s .sheepdogDecision fun t => t = u) ∧
      (bit u.dev.sctl 63 = true → bit u.funcMode 0 = false → u.dogWaiting = false → ∀ row e, row < 32 →
        (∀ j, j < row → u.rowHolds j = true → u.dev.rowPick j = none) → u.rowHolds row = true → u.dev.rowPick row = some e →
        Leads s .sheepdogDecision fun t => t = u.dogLaunch row e.1 e.2))

/-- 07 R233; 08 R256, R257, R263 to R265; 11 R365 to R370: region commands, fills, migrations, the fault queue and
invalidations. Each event leads to a next state from every state where its occasion stands; otherwise see the clause of log
entry 58 in StepsResultsAndRepliesHappen (the model's choice). When an event happens, and how long what it ends lasts, is the
model's choice (log entry 40). -/
def Obligations.MapUnitEventsHappen : Prop :=
  ∀ (s : State) (c page : Nat) (w : Word),
    let d := dieOf c
    (∀ tile r, Tab.find? (s.core c).tiles tile = some r → r.filling = true →
      let B := s.noteConflict d r.base 0x2000
      (∀ g bad, s.migrateNeed d r.priv .read r.base 0x2000 = some g →
        Leads s (.regionFillComplete c tile bad) fun t => t = s.requestPage g) ∧
      (s.migrateNeed d r.priv .read r.base 0x2000 = none →
        (∀ bad e, B.engineRead d r.priv r.base 0x2000 = .error e →
          Leads s (.regionFillComplete c tile bad) fun t => t = B.fillFault c tile e.1 e.2) ∧
        ∀ bs, B.engineRead d r.priv r.base 0x2000 = .ok bs →
          (∀ o, let a := r.base + o % 0x2000
            Leads s (.regionFillComplete c tile (some o)) fun t => t = (B.poisonPage a).fillFault c tile .poison a) ∧
          Leads s (.regionFillComplete c tile none) fun t => t = B.fillTile c tile bs ∧ (r.held = [] →
            Tab.find? (t.core c).tiles tile = some { r with filled := true, filling := false, dirty := 0, flushed := 0 }))) ∧
    (∀ g, s.dev.migs.find? (fun g => g.page == page) = some g →
      let P := if g.toHost then s.performEvery else s
      let uses : Prop := g.toHost = true ∧
        ((∃ q ∈ P.allCtxs, q.2.2.usesPage page = true) ∨ ∃ x ∈ P.savedCtxs, x.usesPage page = true)
      let left (v : Dev) : Dev := { v with migs := v.migs.filter fun h => h.page != page }
      (uses → ∀ ok, Leads s (.migrationComplete page ok) fun t => t = P) ∧
      (¬uses → Leads s (.migrationComplete page false) fun t => t = (P.modDev left).migrationFails g) ∧
      let B := (P.modDev left).modDev fun v => { v with migFail := false }
      (¬uses → g.toHost = true → Leads s (.migrationComplete page true) fun t => t = B.sendPage page) ∧
      (g.toHost = false → Leads s (.migrationComplete page true) fun t =>
        t = (((B.bringPage page).takeQueued page).1.performHeld ((B.bringPage page).takeQueued page).2).wakePage page)) ∧
    (Leads s (.faultQueueRetry page) fun t => t.cores = s.cores ∧ t.dev = s.dev ∧ ∀ e v, v < 2 →
      let q := (s.die v).faultq
      e ∈ q → e.page = page → e.queued = false →
        ((q.filter FqEnt.queued).length < 256 → q.find? (fun e => !e.queued) = some e →
          { e with queued := true } ∈ (t.die v).faultq) ∧
        (256 ≤ (q.filter FqEnt.queued).length → { e with refusedAt := s.cycle } ∈ (t.die v).faultq)) ∧
    (s.dev.invBusy = some w →
      let P := s.performEvery
      let uses (lo n : Nat) : Prop :=
        (∃ q ∈ P.allCtxs, q.2.2.usesRange lo n = true) ∨ ∃ x ∈ P.savedCtxs, x.usesRange lo n = true
      let B := P.modDev fun v => { v with invBusy := none }
      (bit w 63 = true →
        (uses 0 (2 ^ 56) → Leads s .invalidationComplete fun t => t = P) ∧
        (¬uses 0 (2 ^ 56) → Leads s .invalidationComplete fun t => t.dev.invBusy = none ∧ t.dev.ptroot = t.dev.ptrootNew ∧
          t = ((B.dropXlate 0 (2 ^ 56)).forgetWalks 0 (2 ^ 56)).modDev fun v => { v with ptroot := v.ptrootNew })) ∧
      ∀ n, bit w 63 = false → invSize w = n → 0 < n →
        let lo := cmdPage w / n * n
        (uses lo n → Leads s .invalidationComplete fun t => t = P) ∧
        (¬uses lo n → Leads s .invalidationComplete fun t => t = (B.dropXlate lo n).forgetWalks lo n)) ∧
    (s.dev.invBusy = none → Leads s (.inval w) fun t => t = s.modDev fun v => { v with invBusy := some w }) ∧
    (s.dev.invBusy.isSome = true → Leads s (.inval w) fun t => t = s) ∧
    (s.dev.migs = [] →
      (s.movable (cmdPage w) false = true → Leads s (.migrateToDevice w) fun t => ⟨cmdPage w, false⟩ ∈ t.dev.migs) ∧
      (s.movable (cmdPage w) false = false → Leads s (.migrateToDevice w) fun t => t = s) ∧
      (s.movable (cmdPage w) true = true → Leads s (.migrateToHost w) fun t => ⟨cmdPage w, true⟩ ∈ t.dev.migs) ∧
      (s.movable (cmdPage w) true = false → Leads s (.migrateToHost w) fun t => t = s) ∧
      Leads s (.migrationRefuse w) fun t => t = ((s.takeQueued (cmdPage w)).1.discardHeld (cmdPage w)
        (s.takeQueued (cmdPage w)).2).pageFails (cmdPage w) .hostOwned) ∧
    ∀ m, s.nextFor c 4 = some m →
      (m.fn = 8 → Leads s (.rmapFire c) fun t => t = s.dropCmd c m.id) ∧
      (m.fn = 9 →
        (∀ g, s.wbWait c [] m.cells = some g →
          Leads s (.rflushFire c) fun t => t = (s.requestPage g).setCmd c { m with page := some g }) ∧
        (s.wbWait c [] m.cells = none →
          let bad := s.wbBad c [] m.cells
          let B := (s.wbPut c m.cells).modCore c fun k => k.redirty (bad.map Prod.fst)
          (m.bad = none → bad = [] → Leads s (.rflushFire c) fun t => t = B.dropCmd c m.id) ∧
          (∀ b bs, m.bad = none → bad = b :: bs → Leads s (.rflushFire c) fun t => t = B.engFault c m b.2.2 b.2.1) ∧
          ∀ b, m.bad = some b → Leads s (.rflushFire c) fun t => t = B.engFault c m b.1 b.2)) ∧
      (m.fn = 10 → Leads s (.rinvFire c) fun t => (∀ tile ∈ m.range, Tab.find? (t.core c).tiles tile = none) ∧
        ∀ q ∈ (t.core c).cmds, q.id ≠ m.id)

/-- 11 R341 to R352; 07 R213: copies, shape loads and presses fire and complete. Each event leads to a next state from every
state where its occasion stands; otherwise see the clause of log entry 58 in StepsResultsAndRepliesHappen (the model's
choice). When an event happens, and how long what it ends lasts, is the model's choice (log entry 40). A copy completes in one
act, and takes the bank formats element by element (the model's choice, log entries 18 and 20). -/
def Obligations.CopyAndPressEventsHappen : Prop :=
  ∀ (s : State) (c : Nat),
    let k := s.core c
    let fired (i : Instr) (m : Cmd) (data : List Byte) : Prop := Leads s i fun t =>
      ∃ n ∈ (t.core c).cmds, n.id = m.id ∧ n.st = .fired ∧ n.data = data
    (∀ m, s.nextFor c 0 = some m →
      (k.ringsAdmit m = true → fired (.copyFire c) m m.data) ∧
      (k.ringsAdmit m = false → Leads s (.copyFire c) fun t => t = s)) ∧
    (∀ m q src dst, k.cmd? m.id = some m → m.fn = 0 → m.st = .fired → s.nvmeBusy c m = false →
      s.copyHeld c m.gang = false → s.copyOf c m = some q →
      let sx (i : Nat) : Nat := q.src.addr q.shape.src i
      let dx (i : Nat) : Nat := q.dst.addr q.shape.dst i
      (q.elems = (List.range (extents q.shape.src)).map fun i =>
        let k := copyKind (s.sideFmt c m.banks m.gang q.src (sx i)) (s.sideFmt c m.banks m.gang q.dst (dx i))
        { kind := k, sn := (copySizes k q.shape).1, dn := (copySizes k q.shape).2 }) ∧
      let fits (i : Nat) (e : ElemPlan) : Prop :=
        e.kind ≠ .bad ∧ ((∃ x y, e.kind = .convert x y) → sx i % e.sn = 0 ∧ dx i % e.dn = 0)
      ((∃ i e, q.elems[i]? = some e ∧ ¬fits i e) →
        Leads s (.copyComplete c m.id none) fun t => ∃ a, t = s.engFault c m .bankFormat a) ∧
      ((∀ i e, q.elems[i]? = some e → fits i e) → s.copySrc c m q = .ok src → s.copyDst c m q = .ok dst →
        let d := dieOf c
        let B := s.spotConflicts d (src ++ dst)
        let data := ((B.copyRead d m q src dst).zip (List.range src.length)).map fun e => q.convert m e.2 e.1
        B.firstReach d m.priv .read src = .ok → B.firstReach d m.priv .write dst = .ok →
        Leads s (.copyComplete c m.id none) fun t => t =
          (((B.copyWrite d m (dst.zip data)).takeFree 1).tellRivals (dst.flatMap fun p => p.1.keys p.2)).copySignal c m q.shape
            (q.elems.foldl (fun n e => n + e.dn) 0))) ∧
    (∀ p x y glob a n since, s.ctx? c p = some x → x.run = .blocked (.shapes glob a n) since →
      let P := s.performAll c p
      P.ctx? c p = some y → P.copyHeld c x.gang = false → P.heldBy x = [] → ∀ bs : List Byte,
      (glob = false → ∃ os, viewOffs x.banks a n = some os ∧ (∀ o ∈ os, (P.core c).engineOwns (tileOf o) = true) ∧
        bs = os.map (P.core c).spByte) →
      (glob = true → bs.length = n ∧ ∀ i, i < n → ∃ pa, P.translate c x .read (a + i) = .ok pa ∧
        bs[i]? = some (byteAt P.dev.mem P.dev.memUndef pa)) →
      Leads s (.shapeLoadComplete c p) fun t => t.ctx? c p = some { y with
        run := .ready, loaded := y.loaded ++ [((glob, a, n), (pieces 8 n bs).map fun b => BitVec.ofNat 64 (numLE b))] }) ∧
    (∀ m, s.nextFor c 1 = some m → k.ringsAdmit m = true →
      let slots := k.inSlots m.qa
      let n := 0x2000 * (k.ring m.qa).slotTiles
      (Core.slotsReach c k slots n = .ok → fired (.pressFire c) m (slots.flatMap fun t => k.slotBytes t n)) ∧
      ∀ e a, Core.slotsReach c k slots n = .bad e a → Leads s (.pressFire c) fun t => t = s.engFault c m e a.toNat) ∧
    ∀ m, k.cmds.find? (fun m => m.fn == 1 && m.st == .fired) = some m →
      let slots := k.outSlots m.qb
      let room := slots.length * (0x2000 * (k.ring m.qb).slotTiles)
      let bs := pressBlocks m.pressPar m.data
      let out := pressBytes m.pressPar bs
      (bs.length / 64) * m.pressPar.group ≤ room → (∀ b ∈ bs, b.trap = none) →
      Core.slotsReach c k slots (0x2000 * (k.ring m.qb).slotTiles) = .ok →
      Leads s (.pressComplete c m.id) fun t => t =
        ((s.setCore c (k.agentPut (slotCells slots.flatten (out ++ List.replicate (room - out.length) 0)))).finishCmd c
          m).modCore c fun k => { k with press := bs.foldl (fun w b => w ||| BitVec.ofNat 64 b.fl) k.press }

/-- 07 R227 to R230; 11 R353 to R362: the Cellar's commands, the host's decisions, prefetch moves and NVMe transfers. Each
event leads to a next state from every state where its occasion stands; otherwise see the clause of log entry 58 in
StepsResultsAndRepliesHappen (the model's choice). When an event happens, and how long what it ends lasts, is the model's
choice (log entry 40). How the commands on one key are ordered, which units a tier gives, what drop with FORGET does to a
dropped key, and the layout of the NVMe queues are the model's choice (log entries 22 and 68 to 70). -/
def Obligations.CellarEventsHappen : Prop :=
  ∀ (s : State) (c : Nat) (w : Word),
    let k := s.core c
    (∀ m, s.nextFor c 2 = some m →
      (m.fn = 2 → k.ringsAdmit m = true →
        let slots := k.inSlots m.qa
        let n := 0x2000 * (k.ring m.qa).slotTiles
        (m.aux = 0 → fld m.sb 1 0 = 0 → s.celpol = true → Leads s (.stashFire c) fun t =>
          t = (s.setCmd c { m with aux := 1 }).post 4 c m.place m.sa (BitVec.ofNat 64 (k.slotsLen m.qa)) 0) ∧
        (m.aux ≠ 1 → ¬(m.aux = 0 ∧ fld m.sb 1 0 = 0 ∧ s.celpol = true) → Core.slotsReach c k slots n = .ok →
          Leads s (.stashFire c) fun t => ∃ q ∈ (t.core c).cmds, q.id = m.id ∧ q.st = .fired ∧
            q.data = slots.flatMap fun t => k.slotBytes t n)) ∧
      (m.fn = 4 → s.readyDrop c = none → s.stashBefore m.key m.order = false → s.dev.laterKey m.key m.order = false →
        (bit m.sa 24 = true → Leads s (.dropFire c) fun t => Tab.find? t.dev.cellar m.key = none) ∧
        (bit m.sa 24 = false → s.dirRoom m.key = true → Leads s (.dropFire c) fun t =>
          Tab.find? t.dev.cellar m.key =
            some { stashed := false, tier := 0, units := [], size := 0, bytes := 0 }))) ∧
    (∀ m, k.cmd? m.id = some m → s.nvmeBusy c m = false →
      let n := m.stored.length
      let entry (tier : Nat) (units : List Nat) : CEntry :=
        { stashed := true, tier := tier, units := units, size := n, bytes := m.data.length }
      (∀ tier, m.fn = 2 → m.st = .fired → s.dirRoom m.key = true → s.dev.laterKey m.key m.order = false → tier ≠ 3 →
        s.pickTier (if m.aux ≥ 2 then m.aux - 2 else fld m.sb 1 0) n = some tier →
        Leads s (.stashStored c m.id) fun t => Tab.find? t.dev.cellar m.key = some (entry tier (s.freeUnits tier n))) ∧
      (m.fn = 2 → m.st = .fired → s.dirRoom m.key = true → s.pickTier (if m.aux ≥ 2 then m.aux - 2 else fld m.sb 1 0) n = some 3 →
        Leads s (.stashStored c m.id) fun t => ∃ q ∈ (t.core c).cmds, q.id = m.id ∧ q.st = .storing ∧
          q.range = 3 :: s.freeUnits 3 n) ∧
      (m.fn = 2 → m.st = .fired → s.dirRoom m.key = false → Leads s (.stashStored c m.id) fun t => t = s.stashFails c m) ∧
      (m.fn = 2 → m.st = .storing → s.dev.laterKey m.key m.order = false →
        Leads s (.stashStored c m.id) fun t => Tab.find? t.dev.cellar m.key = some (entry 3 (m.range.drop 1))) ∧
      (m.fn = 3 → m.st = .fired → Core.slotsReach c k (k.outSlots m.qb) (0x2000 * (k.ring m.qb).slotTiles) = .ok →
        Leads s (.fetchComplete c m.id) fun t =>
          t = (s.setCore c (k.agentPut (slotCells (k.outSlots m.qb).flatten m.data))).finishCmd c m) ∧
      (m.fn = 3 → m.st = .aside ∨ (s.nextFor c 2).map Cmd.id = some m.id → s.stashBefore m.key m.order = false →
        ((∀ g ∈ s.dev.keyPast, g.key ≠ m.key ∨ g.hi ≤ m.order) →
          s.found m = (Tab.find? s.dev.cellar m.key).map fun e => if e.stashed then e else CEntry.dropped) ∧
        (∀ g, s.dev.keyPast.find? (fun g => g.key == m.key && decide (m.order < g.hi)) = some g →
          (∀ e, g.ent = some e → e.stashed = true) → s.found m = g.ent) ∧
        (s.found m = none → Leads s (.fetchFire c m.id) fun t => t = s.cmdFault c m .cellarMiss 0 m.keyDetail) ∧
        (s.found m = some CEntry.dropped → Leads s (.fetchFire c m.id) fun t =>
          t = if m.st = .queued then s.setCmd c { m with st := .aside } else s) ∧
        ∀ e bs, s.found m = some e → e.stashed = true → k.ringsAdmit m = true →
          ((s.performFor m).core c).slotsLen m.qb = e.bytes →
          readStored (e.bytes / 4096) ((s.performFor m).dev.tierGet e.tier e.units e.size) = some bs → Leads s (.fetchFire c m.id) fun t =>
            ∃ q ∈ (t.core c).cmds, q.id = m.id ∧ q.st = .fired ∧ q.data = bs)) ∧
    (∀ m, s.celdecFor w = some (c, m) →
      (fld w 57 56 ≠ 0 → Leads s (.celdecPlace w) fun t => t = s.setCmd c { m with aux := 2 + fld w 57 56 }) ∧
      (Leads s (.celdecDrop w) fun t => t = (s.fireCmd c m).dropStash c { m with st := .fired }) ∧
      Leads s (.celdecRefuse w) fun t =>
        t = (s.cmdFault c m .cellarCapacity 0 m.keyDetail).freeEntry m.key m.order) ∧
    (∀ (key : BitVec 24) e,
      (∀ p, Tab.find? s.dev.cellar key.toNat = some e → s.dev.prefs.find? (fun p => p.key == key.toNat) = some p →
        (∀ o ∈ s.dev.nvmeOps, o.id ≠ nvmeId 1024 p.seq 0) → Leads s (.cellarPrefetchMove key) fun t =>
          Tab.find? t.dev.cellar key.toNat = some { e with tier := 1, units := p.units } ∧
            ∀ q ∈ t.dev.prefs, q.key ≠ key.toNat) ∧
      (Tab.find? s.dev.cellar key.toNat = some e → e.stashed = true → e.tier ≠ 1 → (∀ p ∈ s.dev.prefs, p.key ≠ key.toNat) →
        (s.tierRoom 1 e.size 0 = true →
          ⟨key.toNat, s.freeUnits 1 e.size, s.dev.prefSeq⟩ ∈ (s.beginPref key.toNat).dev.prefs) ∧
        (s.tierRoom 1 e.size 0 = false → s.beginPref key.toNat = s))) ∧
    ∀ id o, s.dev.nvmeOps.find? (fun o => o.id == id && o.pair.isSome) = some o →
      let B (ok : Bool) : State :=
        (s.modDev fun d => d.nvComplete o.port (o.pair.getD 0) ok (freeKey s.free 16)).takeFree 1
      let gone (ok : Bool) : State := ((B ok).modDev fun d => { d with nvmeOps := d.nvmeOps.erase o }).nvSubmitAll
      (Leads s (.nvmeCompletion id true) fun t => t = gone true) ∧
      (o.tries = 0 → s.nvWanted id = true → Leads s (.nvmeCompletion id false) fun t =>
        t = ((B false).modDev fun d => { d with
          nvmeOps := d.nvmeOps.map fun q => if q = o then { o with tries := 1, pair := none } else q }).nvSubmitAll) ∧
      (∀ m, o.tries ≠ 0 → ((gone false).core (id / 2 / 2 ^ 32)).cmd? (id / 2 % 2 ^ 32) = some m →
        Leads s (.nvmeCompletion id false) fun t => t = (gone false).nvmeFails (id / 2 / 2 ^ 32) m (id % 2)) ∧
      (((gone false).core (id / 2 / 2 ^ 32)).cmd? (id / 2 % 2 ^ 32) = none → o.tries ≠ 0 ∨ s.nvWanted id = false →
        Leads s (.nvmeCompletion id false) fun t => t = (gone false).modDev fun d => { d with
          prefs := d.prefs.filter fun p => nvmeId 1024 p.seq 0 != id,
          nvmeOps := d.nvmeOps.filter fun q => q.id != id || q.pair.isSome })

/-- 07 R231, R232; 12 R379, R382 to R384: sends, arms and counter adds of the network engine. Each event leads to a next state
from every state where its occasion stands; otherwise see the clause of log entry 58 in StepsResultsAndRepliesHappen (the
model's choice). -/
def Obligations.NetworkCommandsFire : Prop :=
  ∀ (s : State) (c : Nat) (m : Cmd),
    let k := s.core c
    (s.nextFor c 3 = some m →
      (m.fn = 7 → Leads s (.ctraddFire c) fun t =>
        t = ((s.performFor m).dropCmd c m.id).raise (dieOf c) (m.sa.toNat % 1024) m.sb) ∧
      (m.fn = 6 →
        let e := m.sb.toNat % 4096
        let ws := recWords m.data
        let die := (s.performFor m).die (dieOf c)
        (bit (die.word e 0) 63 = true ∨ armBad ws = true → Leads s (.armFire c) fun t =>
          t = (s.performFor m).cmdFault c m .triggerTable 0 e) ∧
        (bit (die.word e 0) 63 = false → armBad ws = false → Leads s (.armFire c) fun t =>
          bit ((t.die (dieOf c)).word e 0) 63 = true ∧ (∀ q ∈ (t.core c).cmds, q.id ≠ m.id) ∧
          ∀ i, i < 8 → i ≠ 0 → i ≠ 6 → (t.die (dieOf c)).word e i = ws.getD i 0 &&& trellisMask i)) ∧
      (m.fn = 5 → k.ringsAdmit m = true →
        let ch := m.aux
        let n := (k.ring m.qa).declared
        let credit := fld (s.dev.chanWord ch 2) 38 32
        (s.dev.chanOk ch = false → Leads s (.sendFire c) fun t => t = s.cmdFault c m .channelMismatch 0 ch) ∧
        (s.dev.chanOk ch = true → credit < n → Leads s (.sendFire c) fun t => t = s) ∧
        (s.dev.chanOk ch = true → n ≤ credit → s.dev.slotBytes ch ≤ 0x2000 * (k.ring m.qa).slotTiles →
          s.dev.names (s.dev.toPeer ch 0).dst = true → Core.slotsReach c k (k.inSlots m.qa) (s.dev.slotBytes ch) = .ok →
          let msg := (s.performFor m).sendMsg c m
          let B := (s.performFor m).fireCmd c { m with md := msg.seq.toNat }
          let D := B.chanFld ch 2 38 32 (fld (B.dev.chanWord ch 2) 38 32 - n)
          let E := (D.chanFld ch 4 15 0 ((msg.seq.toNat + 1) % 65536)).emit msg
          Leads s (.sendFire c) fun t =>
            t = if msg.route.toNat = 0 ∧ msg.dst = E.dev.id then E.leftDevice { msg with src := E.dev.id } else E))) ∧
    (∀ n : Msg, n.kind = 0 → n.src = s.dev.id → n.op = c * 2 ^ 32 + m.id → m.id < 2 ^ 32 → m ∈ k.cmds → m.fn = 5 →
      m.st = .fired → { m with st := .storing } ∈ ((s.leftDevice n).core c).cmds) ∧
    (k.cmd? m.id = some m → m.fn = 5 → m.st = .fired → Leads s (.sendComplete c m.id) fun t => t = s) ∧
    (k.cmd? m.id = some m → m.fn = 5 → m.st = .storing → Leads s (.sendComplete c m.id) fun t => t = s.finishCmd c m)

/-- 12 R375, R379 to R393, R397; 10 R331: a message for another device is sent on; one for this device, whose memory waits
for nothing, is performed: data, credit, barrier traffic, tokens, aborts, mismatches, puts, gets, counter adds,
acknowledgements and the host's. Each event leads to a next state from every state where its occasion stands; otherwise see
the clause of log entry 58 in StepsResultsAndRepliesHappen (the model's choice). The marks by which a barrier's mismatch
flit and its release are told apart are the model's choice (log entry 30), as are the places of fields that the manual gives
none (log entries 31 and 76), what waits before BOOTST 4 (log entry 81) and how the bridge learns its members (log entry
80). Which port a refused packet is counted at, and that the next message of its link is the resend, is the model's choice
(log entry 82). -/
def Obligations.MessagesArePerformed : Prop :=
  ∀ (s : State) (m : Msg),
    let g := m.ch.toNat
    let seq := m.seq.toNat
    let may := s.dev.bootst = 4 ∨ m.src = s.dev.id
    let ring := m.route.toNat = 1 ∨ m.route.toNat = 2
    let all (t : State) : Prop := ∀ i ∈ ([.channelData m, .credit m, .barrierArrival m, .barrierRelease m, .absenceToken m,
      .presenceToken m, .abortFlit m, .mismatch m, .put m, .putAccumulate m, .getRequest m, .getReply m,
      .remoteCounterAdd m, .completionAcknowledgement m, .hostReply m] : List Instr), exec i s = .next t
    (¬may → all (s.modDev fun d => { d with bootWait := d.bootWait ++ [(true, m)] })) ∧
    (may → ring → 1 < m.hops.toNat → all (s.sendOn { m with hops := m.hops - 1 })) ∧
    (may → ring → m.hops.toNat ≤ 1 → m.dst ≠ s.dev.id → all (s.postLink (Msg.port m) m.dst)) ∧
    (may → ¬ring → m.dst ≠ s.dev.id → all (s.sendOn m)) ∧
    (may → m.dst = s.dev.id → (ring → m.hops.toNat ≤ 1) → Msg.plain m = none → ∀ i ∈ ([.channelData m, .barrierArrival m,
      .put m, .putAccumulate m, .getRequest m, .getReply m, .remoteCounterAdd m, .hostReply m] : List Instr),
      exec i s = .next (s.refuseMsg m)) ∧
    (may → m.dst = s.dev.id → (ring → m.hops.toNat ≤ 1) → m.comp = false →
      let S := s.resent m
      let takes (i : Instr) (n : Msg) (r : State) : Prop := msgBehind S.dev.waitMsgs n = false → S.dev.discards n = false →
        S.msgReach n = .ok → Leads s i fun t => t = r
      let ack := (ackOf m 0 0 0)
      (S.accepts { m with kind := 0 } = true →
        takes (.channelData m) { m with kind := 0 } (S.acceptData { m with kind := 0 })) ∧
      (S.accepts { m with kind := 0 } = false →
        takes (.channelData m) { m with kind := 0 } (S.refuseData { m with kind := 0 })) ∧
      (Leads s (.credit m) fun t =>
        fld (t.dev.chanWord g 2) 38 32 = (fld (s.dev.chanWord g 2) 38 32 + 1) % 128 ∧ t.cores = s.cores) ∧
      (∀ ch, s.dev.rootChannel g m.src = some ch → fld (s.dev.chanWord ch 4) 63 48 = seq →
        takes (.barrierArrival m) { m with kind := 2, slots := 0 } (S.countArrival g seq m.src ch)) ∧
      (∀ ch, s.dev.rootChannel g m.src = some ch → fld (s.dev.chanWord ch 4) 63 48 ≠ seq →
        takes (.barrierArrival m) { m with kind := 2, slots := 0 }
          (let B := S.post 10 0 0 (BitVec.ofNat 64 ch) (BitVec.ofNat 64 seq) (m.src.setWidth 64)
           (B.emit { barMsg 6 (if m.src = s.dev.id then ch else fld (B.dev.chanWord ch 0) 47 40) seq m.src with op := 2 }).stopChan
            ch)) ∧
      (Leads s (.barrierRelease m) fun t => t.dev.mem = s.dev.mem ∧ ∀ c p x ch n b, s.ctx? c p = some x →
        x.run = .blocked (.barx ch) n → (ch, seq, b) ∈ x.barSent → s.dev.chanGroup ch = g →
        ∃ y, t.ctx? c p = some y ∧ y.run = .ready ∧ (ch, seq, true) ∈ y.barSent) ∧
      (Leads s (.absenceToken m) fun t => t.dev.absent g seq = true) ∧
      (Leads s (.presenceToken m) fun t => t.dev.absences.length = s.dev.absences.length -
        if s.dev.absences.any fun a => a.group == g && a.seq == seq && a.src == m.src.toNat then 1 else 0) ∧
      (Leads s (.abortFlit m) fun t => t = s.beginAbort g) ∧
      (m.op ≠ 3 → Leads s (.mismatch m) fun t => bit (t.dev.chanWord g 0) 62 = true) ∧
      (m.op = 2 ∨ m.op = 3 → Leads s (.mismatch m) fun t => ∀ b ∈ s.dev.barOut,
        s.dev.chanGroup b.1 = (if m.op = 2 then s.dev.chanGroup g else g) → b.2 = seq →
        bit (t.dev.chanWord b.1 0) 62 = true ∧ b ∉ t.dev.barOut) ∧
      (m.op ≠ 3 → Leads s (.mismatch m) fun t => ∀ x n, x.run = .blocked (.barx g) n →
        (∀ c p, s.ctx? c p = some x → ∃ y, t.ctx? c p = some y ∧ ⟨.channelMismatch, BitVec.ofNat 64 g⟩ ∈ y.pends) ∧
        (x ∈ s.savedCtxs → ∃ y ∈ t.savedCtxs, ⟨.channelMismatch, BitVec.ofNat 64 g⟩ ∈ y.pends)) ∧
      (∀ sd, fabSide m.word1 m.data.length = some sd →
        let C := S.fabConflict 0 sd m.data.length
        let B := C.noteWrote g sd m.data.length
        let acc := C.accumulate g m.accop.toNat sd m.data
        takes (.put m) { m with kind := 7 } ((B.fabWrite 0 sd m.data).1.putDone { m with kind := 7 } (B.fabWrite 0 sd m.data).2) ∧
        (4 < m.accop.toNat ∨ accAligned m.accop.toNat sd m.data.length = false → takes (.putAccumulate m)
          { m with kind := 8 } (C.emit (ackOf m Cause.engineFault.code.toNat Cause.bankFormat.code.toNat sd.low))) ∧
        (m.accop.toNat ≤ 4 → accAligned m.accop.toNat sd m.data.length = true →
          (acc.2.2 = none → takes (.putAccumulate m) { m with kind := 8 } (acc.1.putDone { m with kind := 8 } acc.2.1)) ∧
          ∀ e i, acc.2.2 = some (e, i) →
            takes (.putAccumulate m) { m with kind := 8 } (acc.1.emit (ackOf m e.code.toNat 0 (sd.plus i).low)))) ∧
      (∀ sd, fabSide m.fromAddr m.len = some sd → takes (.getRequest m) { m with kind := 9 }
        ((S.fabConflict 0 sd m.len).emit { ack with kind := 10, data := S.fabRead 0 sd m.len })) ∧
      (∀ d o sd, S.opOf m = some (d, o) → fabSide (o.words.getD 5 0) m.data.length = some sd →
        takes (.getReply m) { m with kind := 10 }
          ((((S.fabConflict 0 sd m.data.length).noteWrote g sd m.data.length).fabWrite 0 sd m.data).1.finishOp
            { m with kind := 10 })) ∧
      takes (.remoteCounterAdd m) { m with kind := 11 } ((S.raise m.rdie.toNat m.rctr.toNat m.word1).emit ack) ∧
      (Leads s (.completionAcknowledgement m) fun t => t = s.finishOp m) ∧
      Leads s (.hostReply m) fun t =>
        t.dev.hostReplies = s.dev.hostReplies ++ [BitVec.ofNat 64 (numLE m.data)] ∧ t.cores = s.cores) ∧
    (Msg.port m = none → s.resent m = s ∧ s.refuseMsg m = s) ∧
    (∀ p, Msg.port m = some p →
      let q := Tab.get s.dev.ports Port.reset p
      let c1 : Port := { q with crcerr := satInc q.crcerr, corrupt := q.corrupt + 1 }
      (q.corrupt = 0 → s.resent m = s) ∧
      (q.corrupt ≠ 0 → s.resent m = s.modPort p fun q => { q with replay := satInc q.replay, corrupt := 0 }) ∧
      (q.state ≠ 2 → s.refuseMsg m = s) ∧
      (q.state = 2 → q.corrupt < 7 → s.refuseMsg m = s.modPort p fun _ => c1) ∧
      (q.state = 2 → 7 ≤ q.corrupt → Tab.get (s.refuseMsg m).dev.ports Port.reset p =
          { c1 with refusals := 0, corrupt := 0, state := 1, queued := 0, lostOps := s.dev.lostBy p }.judge ∧
        (s.refuseMsg m).dev.outbox = s.dev.outbox.filter fun o => o.1 != p)) ∧
    (m.src ≠ s.dev.id → s.dev.bootst ≠ 4 →
      Leads s (.hostRequest m) fun t => t = s.modDev fun d => { d with bootWait := d.bootWait ++ [(true, m)] }) ∧
    (m.src ≠ s.dev.id → s.dev.bootst = 4 → ¬ring →
      (m.dst ≠ s.dev.id → Leads s (.hostRequest m) fun t => t = s.sendOn m) ∧
      (m.dst = s.dev.id → m.comp = false →
        (((s.resent m).memberAccess m).2 = none → Leads s (.hostRequest m) fun t => t = ((s.resent m).memberAccess m).1) ∧
        ∀ bs, ((s.resent m).memberAccess m).2 = some bs →
          Leads s (.hostRequest m) fun t => t = ((s.resent m).memberAccess m).1.emit (replyOf m bs))) ∧
    (m.src = s.dev.id → s.dev.bridge = false → Leads s (.hostRequest m) fun t => t = s) ∧
    (m.src = s.dev.id → s.dev.bridge = true →
      let i := (barSlice m).1
      let n : Msg := { m with
        kind := 13, src := s.dev.id, fromAddr := BitVec.ofNat 64 (barSlice m).2, route := 0, hops := 0, det := false,
        dirn := false, via := none }
      let K := s.keepMember i (barSlice m).2 n
      let shut : Prop := s.dev.bootst = 15 ∧ ¬(m.op < 2 ∧ i = fld s.dev.gidx 5 0 ∧ (barSlice m).2 < 0x10000)
      (shut → Leads s (.hostRequest m) fun t => t = s) ∧
      (¬shut → i = fld s.dev.gidx 5 0 →
        ((s.memberAccess n).2 = none → Leads s (.hostRequest m) fun t => t = (s.memberAccess n).1) ∧
        ∀ bs, (s.memberAccess n).2 = some bs →
          Leads s (.hostRequest m) fun t => t = (s.memberAccess n).1.reply (BitVec.ofNat 64 (numLE bs))) ∧
      (¬shut → i ≠ fld s.dev.gidx 5 0 →
        (Tab.find? K.dev.members i = none → Leads s (.hostRequest m) fun t => t = K.unreached n) ∧
        ∀ id, Tab.find? K.dev.members i = some id →
          let r : Msg := { n with dst := BitVec.ofNat 16 id }
          (s.dev.names r.dst = false → Leads s (.hostRequest m) fun t => t = K.unreached r) ∧
          (s.dev.names r.dst = true → s.dev.bootst = 4 → s.dev.hop r = none →
            Leads s (.hostRequest m) fun t => t = K.unreached r) ∧
          (s.dev.names r.dst = true → s.dev.bootst ≠ 4 ∨ (s.dev.hop r).isSome = true →
            Leads s (.hostRequest m) fun t => t = K.sendOn r)))

/-- 12 R372, R374, R376 to R378, R382 to R384, R391, R393: the ports' errors and retrains, channel records, and writes of
counters, entries and group slots; an abort of a group, what it sends and what it does. An abort of a RUNNING group only
joins those due, which are applied as the cycle ends, after its counter updates (the model's choice, log entry 32). Each
event leads to a next state from every state where its occasion stands; otherwise see the clause of log entry 58 in
StepsResultsAndRepliesHappen (the model's choice). A retrain discards everything queued at its port (the model's choice, log
entry 77). That a link counts its corrupt packets apart from its refused flits, and at STATE 2 alone, is the model's choice
(log entry 82). -/
def Obligations.PortAndTrellisEventsHappen : Prop :=
  ∀ (s : State) (p d e g : Nat) (w : Word),
    let q := Tab.get s.dev.ports Port.reset p
    let after (i : Instr) (r : Port) : Prop := Leads s i fun t => t.cores = s.cores ∧ Tab.get t.dev.ports Port.reset p = r
    let c1 : Port := { q with crcerr := satInc q.crcerr }
    (q.state ≠ 2 → ∀ ok, Leads s (.flitCrcFailure p ok) fun t => t = s) ∧
    (q.state = 2 → q.refusals < 7 → after (.flitCrcFailure p true) { c1 with replay := satInc q.replay, refusals := 0 } ∧
      after (.flitCrcFailure p false) { c1 with refusals := q.refusals + 1 }) ∧
    (q.state = 2 → 7 ≤ q.refusals → ∀ ok,
      after (.flitCrcFailure p ok) { c1 with refusals := 0, corrupt := 0, state := 1, queued := 0, lostOps := s.dev.lostBy p }.judge ∧
      Leads s (.flitCrcFailure p ok) fun t => t.dev.outbox = s.dev.outbox.filter fun o => o.1 != p) ∧
    after (.reservedKindFlit p) c1 ∧
    (q.state = 1 →
      after (.portRetrainEnd p true) { q with state := 2, failedRetrains := 0 } ∧
      (q.failedRetrains < 2 → after (.portRetrainEnd p false) { q with failedRetrains := q.failedRetrains + 1 }) ∧
      (2 ≤ q.failedRetrains → Leads s (.portRetrainEnd p false) fun t =>
        t = (s.modPort p fun q => { q with failedRetrains := q.failedRetrains + 1 }).portFails p)) ∧
    (q.state = 0 → after (.retrain p) { q with state := 1, failedRetrains := 0, refusals := 0, corrupt := 0 }) ∧
    (q.state ≠ 0 → after (.retrain p) q) ∧
    (Leads s (.channelConfigure e w) fun t =>
      Tab.get t.dev.chanTab 0 e = chanWrite (e % 8) (Tab.get s.dev.chanTab 0 e) w ∧
        (e % 8 = 0 → bit w 63 = true → bit (Tab.get s.dev.chanTab 0 e) 63 = false → Tab.get t.dev.chanTab 0 (e + 4) = 0)) ∧
    (Leads s (.counterWrite d e w) fun t =>
      t = (s.modDie d fun v => { v with counters := Tab.set v.counters e w }).counterChanged d e) ∧
    (bit w 63 = true → d < 2 → Leads s (.entryArmWrite d e w) fun t => bit ((t.die d).word e 0) 63 = true ∧
      fld ((t.die d).word e 6) 50 40 = 0x7FF ∧ ((t.die d).reached e = true → e ∈ (t.die d).refire)) ∧
    (bit w 63 = false → d < 2 → Leads s (.entryArmWrite d e w) fun t => bit ((t.die d).word e 0) 63 = false ∧
      e ∉ (t.die d).refire ∧ e ∉ (t.die d).due) ∧
    (e ∈ (s.die d).due →
      let B := s.modDie d fun v => { v with due := v.due.filter fun i => i != e }
      let fires := (s.die d).met e = true ∧ e ∉ (s.die d).refire
      (fires → Leads s (.trellisRefire d e) fun t => t = (B.fireEntry d e).1.raises d (B.fireEntry d e).2) ∧
      (¬fires → Leads s (.trellisRefire d e) fun t => t = B)) ∧
    (e ∉ (s.die d).due → Leads s (.trellisRefire d e) fun t => t = s) ∧
    (Leads s (.groupStart g) fun t =>
      (t.dev.group g).state = 1 ∧ bit (t.dev.group g).w0 62 = false ∧ (t.dev.group g).wrote = []) ∧
    ((s.dev.group g).startMet = true → (s.dev.group g).state = 1 → Leads s (.groupStartComplete g) fun t =>
      (t.dev.group g).state = 2 ∧ (t.dev.group g).progress = s.finalCtr (s.dev.group g)) ∧
    ((s.dev.group g).state = 1 → Leads s (.groupAbort g) fun t => g ∈ t.dev.abortsDue) ∧
    ((s.dev.group g).state = 2 → Leads s (.groupAbort g) fun t => bit (t.dev.group g).w0 62 = true) ∧
    ((s.dev.group g).forwarded = true → Leads s (.groupAbort g) fun t =>
      t.dev.outbox = s.dev.outbox ∧ t.dev.bootWait = s.dev.bootWait ∧ t.agenda = s.agenda) ∧
    ((s.dev.group g).forwarded = false → Leads s (.groupAbort g) fun t =>
      let sent (m : Msg) : Prop :=
        let m := { m with ch := BitVec.ofNat 8 g, src := s.dev.id, det := false, dirn := false, via := none }
        let own := m.route.toNat = 0 ∧ m.dst = s.dev.id
        (own → Move.event (.abortFlit m) ∈ t.agenda) ∧ (¬own → s.dev.bootst ≠ 4 → (false, m) ∈ t.dev.bootWait) ∧
        (¬own → s.dev.bootst = 4 → s.dev.names m.dst = true → ∀ q n r, s.dev.hop m = some (q, n, r) →
          (q, { m with det := n, dirn := r }) ∈ t.dev.outbox)
      (t.dev.group g).forwarded = true ∧
      (∀ ch < 256, bit (s.dev.chanWord ch 0) 63 = true → s.dev.chanGroup ch = g → sent (s.dev.toPeer ch 5)) ∧
      ∀ d < 2, ∀ e ∈ (s.die d).armed, let v := (s.die d).word e 0
        fld v 55 50 = g → sent { Msg.rest with
          kind := 5, dst := BitVec.ofNat 16 (fld v 15 0), route := BitVec.ofNat 2 (fld v 49 48),
          hops := BitVec.ofNat 4 (fld v 47 44) }) ∧
    (s.dev.abortsDue = [g] → s.abortsEnd = (s.modDev fun v => { v with abortsDue := [] }).abortNow g) ∧
    (let t := s.abortNow g
     let q := s.dev.group g
     let told (w : Word) : Prop := fld w 63 60 = 3 ∧ fld w 31 0 = g
     (q.state = 2 → t = s.modGroup g fun q => { q with w0 := setFld q.w0 62 62 1 }) ∧
     (q.state ≠ 1 → q.state ≠ 2 → t = s) ∧
     (q.state = 1 → g < 64 →
       (t.dev.group g).state = 3 ∧ (t.dev.group g).progress = s.finalCtr q ∧
       (∃ u : State, t = u.post 13 0 0 (BitVec.ofNat 64 g) (s.finalCtr q) 0) ∧
       (∀ v < 2, (∀ n ∈ (s.die v).armed, fld ((s.die v).word n 0) 55 50 = g → bit ((t.die v).word n 0) 63 = false ∧
           n ∉ (t.die v).refire ∧ n ∉ (t.die v).due) ∧
         (∀ n i, i < 8 → fld ((s.die v).word n 0) 55 50 ≠ g → (t.die v).word n i = (s.die v).word n i) ∧
         (t.die v).fired = (s.die v).fired.filter fun o => fld (o.words.getD 0 0) 55 50 != g) ∧
       (∀ m : Msg, m.kind = 0 ∧ s.dev.chanGroup m.ch.toNat = g ∨ 7 ≤ m.kind.toNat ∧ m.kind.toNat ≤ 10 ∧ m.ch.toNat = g →
         t.dev.discards m = true) ∧
       (∀ c, ∀ m ∈ (t.core c).cmds, ¬(m.fn = 5 ∧ s.dev.chanGroup m.aux = g)) ∧
       (let asks (i j k : Nat) : Prop :=
          (∃ c, ∃ m ∈ (s.core c).cmds, (m.fn = 5 ∧ s.dev.chanGroup m.aux = g ∨ m.armsFor g = true) ∧
            i = m.gang ∧ j = m.coreIdx ∧ k = m.field0) ∨
          ∃ v < 2, ∃ n ∈ (s.die v).armed, fld ((s.die v).word n 0) 55 50 = g ∧ fld ((s.die v).word n 6) 50 40 ≠ 0x7FF ∧
            let a := Tab.get (s.die v).armOrd 0 n
            i = a / 134217728 ∧ j = a / 262144 % 512 ∧ k = a / 65536 % 4
        ∀ i j k c p x, asks i j k → Tab.rising s.cores = true → (∀ r ∈ s.cores, Tab.rising r.2.ctxs = true) →
          s.ctx? c p = some x → x.isThe i j k = true → x.run ≠ .retired →
          (∀ r ∈ s.allCtxs, r.2.2.isThe i j k = true → r.2.2.run ≠ .retired → r.1 = c ∧ r.2.1 = p) →
          ∃ y w, t.ctx? c p = some y ∧ ⟨.channelAbort, w⟩ ∈ y.pends ∧ told w) ∧
       ∀ x ch n, x.run = .blocked (.barx ch) n → s.dev.chanGroup ch = g →
         (∀ c p, s.ctx? c p = some x → ∃ y w, t.ctx? c p = some y ∧ ⟨.channelAbort, w⟩ ∈ y.pends ∧ told w) ∧
         (x ∈ s.savedCtxs → ∃ y ∈ t.savedCtxs, ∃ w, ⟨.channelAbort, w⟩ ∈ y.pends ∧ told w)))

/-- 01 R11, R40; 12 R394 to R397; 13 R422 to R425: the register window, the table port and its halves, the identity and
event registers, reset and attestation. Each event leads to a next state from every state where its occasion stands;
otherwise see the clause of log entry 58 in StepsResultsAndRepliesHappen (the model's choice). What a device reset leaves is
in part the model's choice (log entry 48), as is what becomes of a supervisor's write of a word that the host alone writes
(log entry 78). What a device at BOOTST 15 refuses beyond its identity registers is the model's reading (log entry 49). -/
def Obligations.WindowAndBootEventsHappen : Prop :=
  ∀ (s : State) (w : Word),
    let old := s.dev.hostReplies
    let idx := BitVec.ofNat 64 ((fld s.dev.hostTabidx 31 0 + 1) % 2 ^ 32)
    let open_ (o : Nat) : Prop := s.dev.bootst ≠ 15 ∨ o < 0x10000
    let is (o : Nat) (i : Instr) : Prop := open_ o →
      exec (.registerWrite ⟨o, true⟩ w) s = exec i s ∧ ∃ t, exec i s = .next t
    let becomes (o : Nat) (v : Word) (r : State) : Prop := open_ o → ∀ host, host = true ∨ hostOnly o = false →
      exec (.registerWrite ⟨o, host⟩ w) s = .next r ∧ r.windowRead o = v
    let keeps (o : Nat) (f : Dev → Dev) (v : Word) : Prop := becomes o v (s.modDev f)
    let idle := s.dev.resident = [] ∧ s.dev.pendingQ = []
    let sizes := w &&& 0x3FFF#64
    let mwbase := w &&& 0x00FFFFFFC0000000#64
    let attaddr := w &&& 0x00FFFFFFFFFFE000#64
    let qtbase := w &&& 0x00FFFFFFFFFFF000#64
    let savebase := w &&& 0x00FFFFFFFF800000#64
    let root := w &&& 0x000FFFFFFFF00000#64
    let eqbase := w &&& 0xFFFFFFFFFFFFF000#64
    let bp := w &&& 0x00FFFFFFFFFFFFF0#64
    keeps 0x08 (fun d => { d with sizes := sizes }) sizes ∧
    keeps 0x10 (fun d => { d with gidx := w &&& 0x3F#64 }) (setFld (w &&& 0x3F#64) 63 63 s.dev.bridge.toNat) ∧
    keeps 0x18 (fun d => { d with mwbase := mwbase }) mwbase ∧
    (∀ i, i < 4 → keeps (0x40 + 8 * i) (fun d => { d with nonce := Tab.set d.nonce i w }) w) ∧
    keeps 0x60 (fun d => { d with attaddr := attaddr }) attaddr ∧
    (idle → keeps 0x10000 (fun d => { d with qtbase := qtbase }) qtbase ∧
      let n := BitVec.ofNat 64 (min 1024 (fld w 10 0))
      keeps 0x10008 (fun d => { d with qtcount := n }) n) ∧
    (¬idle → ∀ host, Leads s (.registerWrite ⟨0x10000, host⟩ w) (fun t => t = s) ∧
      Leads s (.registerWrite ⟨0x10008, host⟩ w) fun t => t = s) ∧
    keeps 0x10010 (fun d => { d with savebase := savebase }) savebase ∧
    keeps 0x10018 (fun d => { d with saveslots := w &&& 0xFFFF#64 }) (w &&& 0xFFFF#64) ∧
    keeps 0x40000 (fun d => { d with ptrootNew := root }) root ∧
    keeps 0x50000 (fun d => { d with eqbase := eqbase }) eqbase ∧
    (s.dev.waiting = [] → keeps 0x50008 (fun d => { d with eqlog := w &&& 0x1F#64 }) (w &&& 0x1F#64)) ∧
    (bit w 63 = true → keeps 0x50020 (fun d => { d with ovf := false }) (setFld (s.dev.dropped.setWidth 64) 63 63 0)) ∧
    keeps 0x80000 (fun d => { d with hostTabsel := w &&& 0xFF#64 }) (w &&& 0xFF#64) ∧
    keeps 0x80008 (fun d => { d with hostTabidx := w &&& 0xFFFFFFFF#64 }) (w &&& 0xFFFFFFFF#64) ∧
    (∀ p, p < 8 → let o := 0x60000 + 0x100 * p
      becomes (o + 0x08) (w &&& 0xFFFF#64) (s.modPort p fun q => { q with cthr := w &&& 0xFFFF#64 }.judge) ∧
      becomes (o + 0x10) (w &&& 0xFFFFFFFF#64) (s.modPort p fun q => { q with replay := w &&& 0xFFFFFFFF#64 }) ∧
      becomes (o + 0x18) (w &&& 0xFFFFFFFF#64) (s.modPort p fun q => { q with crcerr := w &&& 0xFFFFFFFF#64 })) ∧
    (∀ g, g < 64 → let buf := w &&& 0x00FFFFFFFFFFFFC0#64
      becomes (0x90010 + 0x20 * g) buf (s.modGroup g fun q => { q with gbuf := buf })) ∧
    (∀ c, c < 288 → let o := 0x100000 + 0x400 * c
      becomes (o + 0x200) (w &&& 0x1F#64) (s.modCore c fun k => { k with startctl := w &&& 0x1F#64 }) ∧
      becomes (o + 0x208) bp (s.modCore c fun k => { k with startbp := bp }) ∧
      (∀ p, p < 4 → ∀ x, s.ctx? c p = some x →
        becomes (o + 0x80 * p) (setFld (w &&& 0x1F#64) 63 63 (x.run == .parked).toNat)
          (s.modCtx c p fun x => { x with ctl := w &&& 0x1F#64 }) ∧
        becomes (o + 0x80 * p + 0x08) bp (s.modCtx c p fun x => { x with bpaddr := bp }) ∧
        becomes (o + 0x80 * p + 0x10) w (s.modCtx c p fun x => { x with tcmp := w }))) ∧
    (∀ o, 0x70 ≤ o → o < 0x10000 → ∀ host, exec (.registerWrite ⟨o, host⟩ w) s = .next s) ∧
    (∀ q host, 0xA0000 ≤ q → q < 0x100000 → exec (.registerWrite ⟨q, host⟩ w) s = .next s ∧ s.windowRead q = 0) ∧
    (∀ o, hostOnly o = true → Leads s (.registerWrite ⟨o, false⟩ w) fun t => t = s) ∧
    (∀ o, hostOnly o = false → exec (.registerWrite ⟨o, false⟩ w) s = exec (.registerWrite ⟨o, true⟩ w) s) ∧
    is 0x00 (.devidWrite w) ∧ (bit w 0 = true → is 0x68 .attcmd) ∧ is 0x40008 (.inval w) ∧ is 0x50018 (.eqheadWrite w) ∧
    is 0x80010 (.hostTabdatAccess (some w)) ∧ (∀ q, q < 1024 → is (0x200000 + 64 * q) (.tailWrite q (w.setWidth 32))) ∧
    (∀ p, p < 8 → bit w 63 = true → is (0x60000 + 0x100 * p) (.retrain p)) ∧
    (bit w 62 = true → is 0x40018 (.migrationRefuse w)) ∧
    (bit w 62 = false → bit w 63 = false → is 0x40018 (.migrateToDevice w)) ∧
    (bit w 62 = false → bit w 63 = true → is 0x40018 (.migrateToHost w)) ∧
    (∀ g, g < 64 → (fld w 1 0 = 1 → is (0x90018 + 0x20 * g) (.groupStart g)) ∧
      (fld w 1 0 = 2 → is (0x90018 + 0x20 * g) (.groupAbort g))) ∧
    (∀ c p, c < 288 → p < 4 → (s.ctx? c p).isSome = true →
      let o := 0x100000 + 0x400 * c + 0x80 * p
      is (o + 0x18) (.hostevt c p w) ∧ (fld w 1 0 = 0 → is (o + 0x20) (.actionResume c p)) ∧
      (fld w 1 0 = 1 → is (o + 0x20) (.actionHandler c p)) ∧ (fld w 1 0 = 2 → is (o + 0x20) (.actionAbort c p))) ∧
    (∀ o, o % 8 = 0 → open_ o →
      exec (.hostWindowAccess ⟨o, some w, true⟩) s = exec (.registerWrite ⟨o, true⟩ w) s ∧
      Leads s (.hostWindowAccess ⟨o, none, true⟩) fun t => t.dev.hostReplies = old ++ [s.windowRead o] ∧
        t.cores = s.cores ∧ t.dev.hostTabidx = if o = 0x80010 then idx else s.dev.hostTabidx) ∧
    (s.dev.bootst = 15 → (∀ o host, 0x10000 ≤ o → Leads s (.registerWrite ⟨o, host⟩ w) fun t => t = s) ∧
      Leads s (.hostTabdatAccess none) (fun t => t = s) ∧ Leads s (.hostTabdatAccess (some w)) (fun t => t = s) ∧
      Leads s .tabdatLowRead (fun t => t = s) ∧ Leads s .tabdatHighRead fun t => t = s) ∧
    (s.dev.bootst ≠ 15 → Leads s (.hostTabdatAccess none) fun t => t.dev.hostReplies = old ++ [s.hostTable] ∧ t.dev.hostTabidx = idx) ∧
    (s.dev.bootst ≠ 15 → Leads s (.hostTabdatAccess (some w)) fun t =>
      t = (s.tableWrite (fld s.dev.hostTabsel 7 0) (fld s.dev.hostTabidx 31 0) w).nextHostIdx) ∧
    (s.dev.bootst ≠ 15 → Leads s .tabdatLowRead fun t => t.dev.hostReplies = old ++ [BitVec.ofNat 64 (fld s.hostTable 31 0)] ∧
      t.dev.latch = BitVec.ofNat 64 (fld s.hostTable 63 32) ∧ t.dev.hostTabidx = s.dev.hostTabidx) ∧
    (s.dev.bootst ≠ 15 → Leads s .tabdatHighRead fun t => t.dev.hostReplies = old ++ [s.dev.latch] ∧ t.dev.hostTabidx = idx) ∧
    (s.dev.waiting = [] → Leads s (.eqheadWrite w) fun t => t = s.modDev fun d => { d with eqhead := w.setWidth 32 }) ∧
    (s.dev.devidSet = false → Leads s (.devidWrite w) fun t => t.dev.devid = w &&& 0xFFFF#64 ∧ t.dev.devidSet = true) ∧
    (s.dev.devidSet = true → Leads s (.devidWrite w) fun t => t = s) ∧
    (bit s.dev.attStatus 0 = false → Leads s .attcmd fun t => t.dev.attStatus = 1 ∧ t.dev.attBody = s.report) ∧
    (bit s.dev.attStatus 0 = true →
      Leads s (.attestationReportDone true) (fun t => t.dev.attStatus = 2 ∧
        t.dev.hostMem = Mem.writeBytes s.dev.hostMem (fld s.dev.attaddr 55 13 * 0x2000) s.dev.attBody) ∧
      Leads s (.attestationReportDone false) fun t => t.dev.attStatus = 4 ∧ t.dev.hostMem = s.dev.hostMem) ∧
    (Leads s (.deviceReset .reset) fun t => t.dev.bootst = 0 ∧ t.cores = [] ∧ t.cycle = 0 ∧ t.dev.gangs = []) ∧
    (s.dev.bootst = 0 → Leads s (.deviceReset (.verify true)) (fun t => t.dev.bootst = 1) ∧
      Leads s (.deviceReset (.verify false)) fun t => t.dev.bootst = 15) ∧
    (s.dev.bootst = 1 → Leads s (.deviceReset .tables) fun t => t.dev.bootst = 2) ∧
    (s.dev.bootst = 2 → Leads s (.deviceReset .training) fun t => t.dev.bootst = 3 ∧
      ∀ p, p < 8 → (Tab.get t.dev.ports Port.reset p).state = 1) ∧
    (s.dev.bootst = 3 → Leads s (.deviceReset .ready) fun t => t = (s.modDev fun d => { d with bootst := 4 }).bootDone) ∧
    (bit s.dev.attStatus 0 = true → Leads s .attcmd fun t => t = s) ∧
    (bit s.dev.attStatus 0 = false → ∀ ok, Leads s (.attestationReportDone ok) fun t => t = s)

/-- 13 R399 to R419: yokes, the power cap, junction temperatures, thermal migration, valves, coolant conditions, evacuations
and grants. Each event leads to a next state from every state where its occasion stands; otherwise see the clause of log entry
58 in StepsResultsAndRepliesHappen (the model's choice). When an event happens, and how long what it ends lasts, is the
model's choice (log entry 40). -/
def Obligations.PowerEventsHappen : Prop :=
  ∀ (s : State) (z y : Nat) (w : Word),
    let word (i : Nat) : Word := Tab.get s.dev.energyTab 0 i
    let p := fld (word 200) 15 0
    let u := (Tab.get s.dev.meters (0, 0) y).1 % 65536
    let l := (Tab.get s.dev.meters (0, 0) y).2 % 65536
    let imb := percentOff u l
    let heavy := if u < l then 1 else 0
    let sum := (List.range 20).foldl (fun n z => n + s.grantOf z) 0
    (y < 18 → bit (word (129 + 2 * y)) 2 = false → imb ≤ 20 ∨ fld (word (129 + 2 * y)) 7 3 < 9 → Leads s (.balanceWindowEnd y) fun t =>
      Tab.get t.dev.energyTab 0 (128 + 2 * y) = BitVec.ofNat 64 (u * 65536 + l) ∧
      fld (Tab.get t.dev.energyTab 0 (129 + 2 * y)) 15 8 = imb ∧
      (10 < imb → (∀ c ∈ clusterCores (2 * y + heavy), (t.core c).bal = tighten (s.core c).bal) ∧
        ∀ c ∈ clusterCores (2 * y + 1 - heavy), (t.core c).bal =
          if fld (word (129 + 2 * y)) 0 0 = heavy then (s.core c).bal else 0) ∧
      (imb ≤ 5 → ∀ c ∈ clusterCores (2 * y) ++ clusterCores (2 * y + 1), (t.core c).bal = loosen (s.core c).bal) ∧
      (5 < imb → imb ≤ 10 → t.cores = s.cores)) ∧
    (y < 18 →
      let old := word (129 + 2 * y)
      let high := if 20 < imb then min 31 (fld old 7 3 + 1) else 0
      let severe : Bool := if bit old 2 then decide (10 < imb) else decide (10 ≤ high)
      Leads s (.balanceWindowEnd y) fun t =>
        let now := Tab.get t.dev.energyTab 0 (129 + 2 * y)
        fld now 15 8 = imb ∧ fld now 7 3 = high ∧ bit now 2 = severe ∧ fld now 0 0 = heavy ∧
        (bit old 2 = true → t.cores = s.cores ∧ fld now 1 1 = fld old 1 1) ∧
        (bit old 2 = false → severe = true → (∀ c ∈ clusterCores (2 * y + heavy), (t.core c).bal = 3) ∧
          ∃ B : State, B.dev.energyTab = t.dev.energyTab ∧
            t = ((B.powerTrap (fun c => yokeOf c == y) .yokeImbalance (imb * 256 + y)).postPower 1 y imb).requests
              (clusterCores (2 * y + heavy)) fun k => { k with bal := 3 })) ∧
    (Leads s .powerCapCheck fun t => t.dev.aboveCap = decide (fld (word 201) 15 0 < p) ∧
      (fld (word 201) 15 0 < p → fld (word 202) 15 0 ≤ p → ∀ c, c < 288 → (t.core c).cap = tighten (s.core c).cap) ∧
      (p ≤ fld (word 201) 15 0 → p < fld (word 202) 15 0 → ∀ c, c < 288 → (t.core c).cap = loosen (s.core c).cap) ∧
      (p ≤ fld (word 201) 15 0 → fld (word 202) 15 0 ≤ p → t.cores = s.cores)) ∧
    (Leads s (.pcapWrite w) fun t =>
      Tab.get t.dev.energyTab 0 201 = BitVec.ofNat 64 (max (fld w 15 0) (fld (word 202) 15 0))) ∧
    (Leads s .junctionSample fun t => ∀ k, k < 36 →
      let v := Tab.get s.dev.junction 0 k % 256
      (105 < v → (s.dev.cluster k).hot = false →
        (t.dev.cluster k).hot = true ∧ ∀ c ∈ clusterCores k, (t.core c).hot = 3) ∧
      (v ≤ 100 → (s.dev.cluster k).hot = true →
        (t.dev.cluster k).hot = false ∧ ∀ c ∈ clusterCores k, (t.core c).hot = 0)) ∧
    (∀ d, let B := s.thermalRelax d
      (B.thermalPick d = none → Leads s (.thermalEvaluation d) fun t => t = B) ∧
      ∀ id g, B.thermalPick d = some (id, g) → bit B.funcMode 4 = false → (∃ k, k < 36 ∧ B.junctionOf k ≤ 95) →
        (B.thermalDest id g = none → Leads s (.thermalEvaluation d) fun t => t = B.thermalResponse d) ∧
        ∀ r, B.thermalDest id g = some r → g.coresLeft.length ≤ B.slotsFree → Leads s (.thermalEvaluation d) fun t =>
          t = (B.setGang id { g with dest := some (coreAt r.die r.row r.col), lastMig := some B.cycle }).startSave id) ∧
    (∀ d id g, let B := s.thermalRelax d
      B.thermalPick d = some (id, g) →
      (bit B.funcMode 4 = true → Leads s (.thermalEvaluation d) fun t => ∃ k,
        (∀ c ∈ g.cores, B.junctionOf (clusterOf c) ≤ B.junctionOf k) ∧ (g.cores ≠ [] → k ∈ g.cores.map clusterOf) ∧
          t = (B.postPower 7 (16 * g.die + g.line) k).thermalResponse d) ∧
      (bit B.funcMode 4 = false →
        ((∀ k, k < 36 → 95 < B.junctionOf k) → Leads s (.thermalEvaluation d) fun t => t = B.thermalResponse d) ∧
        ∀ r, (∃ k, k < 36 ∧ B.junctionOf k ≤ 95) → B.thermalDest id g = some r → B.slotsFree < g.coresLeft.length →
          Leads s (.thermalEvaluation d) fun t => t = B)) ∧
    (let v := Tab.get s.dev.valveTab 0 (4 * z);
      bit v 63 = false → Tab.find? s.dev.evacs z = none →
      (100 * (max (s.flowOf z) (s.grantOf z) - min (s.flowOf z) (s.grantOf z)) ≤ 2 * s.grantOf z →
        Leads s (.valveStep z) fun t => t = s) ∧
      (2 * s.grantOf z < 100 * (s.grantOf z - s.flowOf z) →
        Leads s (.valveStep z) fun t => t.valveOf z = min 255 (s.valveOf z + 1)) ∧
      (2 * s.grantOf z < 100 * (s.flowOf z - s.grantOf z) →
        Leads s (.valveStep z) fun t => t.valveOf z = s.valveOf z - 1)) ∧
    (z < 20 → z % 10 ≠ 9 → (s.dev.sensor (4 * z)).due 6000000 s.cycle = true → s.sensorHolds (4 * z) = true →
      Tab.find? s.dev.evacs z = none → Leads s (.coolantDryCondition z) fun t => (Tab.find? t.dev.evacs z).isSome = true ∧
        t.valveOf z = 255 ∧ ∀ c, c < 288 → zoneOf c = z → (t.core c).clamped = true) ∧
    (z < 20 → z % 10 = 9 → (s.dev.sensor (4 * z)).due 6000000 s.cycle = true → s.sensorHolds (4 * z) = true →
      Tab.find? s.dev.evacs z = none → Leads s (.coolantDryCondition z) fun t => (Tab.find? t.dev.evacs z).isSome = true ∧
        t.valveOf z = 255 ∧ z / 10 ∈ t.dev.slowDies ∧ t.cores = s.cores ∧ t.dev.gangs = s.dev.gangs) ∧
    (z < 20 → (s.dev.sensor (4 * z + 1)).due 6000000 s.cycle = true → s.sensorHolds (4 * z + 1) = true →
      Leads s (.coolantFlowCondition z) fun t => (t.dev.sensor (4 * z + 1)).raised = true) ∧
    (∀ e, Tab.find? s.dev.evacs z = some e → z < 20 → e.failed = false → e.flushFrom + 60000000 ≤ s.cycle →
      (s.floorOf z ≤ s.flowOf z → Leads s (.evacuationFlushEnd z) fun t => Tab.find? t.dev.evacs z = none ∧
        t.dev.placeDue = true) ∧
      (s.flowOf z < s.floorOf z → Leads s (.evacuationFlushEnd z) fun t => t.zoneOut z = true ∧ t.valveOf z = 0 ∧
        (z % 10 = 9 → z / 10 ∈ t.dev.dieOff ∧ ∀ c, c < 288 → dieOf c = z / 10 → (t.core c).offline = true))) ∧
    (bit (Tab.get s.dev.valveTab 0 (4 * z + 3)) 63 = true → Leads s (.dryClear z) fun t =>
      bit (Tab.get t.dev.valveTab 0 (4 * z + 3)) 63 = false ∧ Tab.find? t.dev.evacs z = none ∧
        ∀ c, c < 288 → zoneOf c = z → (t.core c).clamped = false) ∧
    (sum ≤ fld w 15 0 → Leads s (.grantWrite 80 w) fun t => Tab.get t.dev.irrTab 0 80 = w &&& 0xFFFF#64) ∧
    (z < 20 → sum - s.grantOf z + fld w 47 32 ≤ fld (Tab.get s.dev.irrTab 0 80) 15 0 → fld w 63 48 ≤ fld w 47 32 →
      Leads s (.grantWrite (2 * z) w) fun t => t.grantOf z = fld w 47 32 ∧ t.floorOf z = fld w 63 48) ∧
    (let line := fld w 59 56;
      let d := fld w 63 63;
      let c := fld w 8 0;
      let named := (s.dev.gangs.filter fun g => g.2.st == .placed && g.2.die == d && g.2.line == line).head?;
      (named = none → Leads s (.thcmd w) fun t => t = s.postPower 6 (16 * d + line) 0) ∧
      ∀ id g, named = some (id, g) → dieOf c = d →
        ((s.rects [id] { g.want with die := d } true).any fun r => coreAt r.die r.row r.col == c) = true →
        Leads s (.thcmd w) fun t =>
          t = (s.setGang id { g with dest := some c, lastMig := some s.cycle }).startSave id)

/-! Encoding, decoding and the step. -/

/-- 03 R79, R85 to R101, R109: every well-formed slot operation has a 32-bit word, and the decoder reads that word as it, with
every operand. -/
def Obligations.DecodingUndoesEncoding : Prop :=
  (∀ i : Instr, i.wf = true → Instr.isEvent i = false → ∃ w, encodeNat i = some w) ∧
  ∀ (i : Instr) (w : Nat), i.wf = true → encodeNat i = some w → w < 2 ^ 32 ∧ decodeWord w = some i

/-- 03 R79, R82: a word that decodes is the encoding of a well-formed operation and of no other: every reserved bit of it is
0. -/
def Obligations.EncodingUndoesDecoding : Prop :=
  ∀ (w : Nat) (i : Instr), w < 2 ^ 32 → decodeWord w = some i → i.wf = true ∧ encodeNat i = some w

/-- 14 and 15: words that the manual prints beside what they stand for, one of each family it prints, decode to that; and a
reserved field, a reserved major and a lone header word decode to nothing (03 R82, R96, R98). -/
def Obligations.ManualWordsDecode : Prop :=
  decodeTableWord 32 0x24D00020 = some (.li 13 32) ∧
  decodeTableWord 32 0x80E03000 = some (.ld 14 0 .w3 false 0) ∧
  decodeTableWord 32 0xF20D3800 = some (.rmap 13 14) ∧
  decodeTableWord 32 0x04A10500 = some (.add 10 4 5 false) ∧
  decodeTableWord 32 0x2C824A80 = some (.lea 8 9 10 2 0) ∧
  decodeTableWord 32 0x49963003 = some (.bru .ge 11 6 3) ∧
  decodeTableWord 32 0x448A07FB = some (.brl .ne 5 0 0x7FB) ∧
  decodeTableWord 32 0x4C000004 = some (.j 4) ∧
  decodeTableWord 32 0x69800000 = some .endTask ∧
  decodeTableWord 32 0x9CC28810 = some (.cas 12 10 8 false false false .system) ∧
  decodeTableWord 32 0x94D2B008 = some (.str 13 10 .w3 8) ∧
  decodeTableWord 32 0x38051811 = some (.csrw 0 20 0x811) ∧
  decodeTableWord 32 0xC8601020 = some (.vblkAnc 3 0 2 0) ∧
  decodeTableWord 32 0xE1FDF800 = some (.mpush 15 7 63) ∧
  decodeTableWord 32 0xE81C1C00 = some (.macc 0 7 7) ∧
  decodeTableWord 32 0xEC2C1C00 = some (.mdrain 2 3 7) ∧
  decodeTableWord 32 0xF0C30004 = some (.fetch 3 4) ∧
  decodeTableWord 32 0xF6010000 = some (.own 16) ∧
  decodeTableWord 32 0x60000000 = some .sync ∧
  decodeTableWord 32 0x00000001 = none ∧ decodeTableWord 32 0x3C000000 = none ∧ decodeTableWord 32 0xFC200000 = none ∧
  decodeTableWord 32 0x04A10542 = none

/-- 01 R25, R49; 03 R79, R82, R90: a context whose turn it is, with no result due, no trap to take, no reply late, no
breakpoint and no N bit, issues the bundle at PC: its four slots are decoded, a conflict of its fetch is noted (10 R324), its
mark is taken, and then either a stall step passes, or its slots that hold something run through exec in ascending order and
the bundle closes. A bundle of one such slot is exec of that instruction, and then its close. The order in which the model
looks at what may come before a bundle is its choice (log entry 52). -/
def Obligations.StepRunsTheDecodedBundle : Prop :=
  ∀ (s : State) (c p pa : Nat) (ms : List Move) (x : Ctx), s.agenda = .issue c p :: ms →
    let s1 := { s with agenda := ms }
    let s2 := (s1.tellPresence c p).takeTurn c p
    let b := decodeBytes (x.fetchBytes pa)
    let s3 := s2.beginUnit b
    let o := s3.openBundle b.header 0 none
    let found := s2.conflictActs (BitVec.ofNat 64 (16 * x.arch.pc.addr.toNat))
    let s4 : State := { o with bundle := o.bundle.map fun b => { b with pre := found } }
    s1.issuer c = some p → s2.fctx? = some x → s2.hasDue c p = false → x.lateId = none → x.arch.pc.n = false →
    (x.atBoundary = true → s2.quantumFirst x = false ∧ x.nextPend = none ∧ x.atBreakpoint = false) →
    s2.translate c x .fetch (16 * x.arch.pc.addr.toNat) = .ok pa →
    (s3.fctx.stalls ≠ 0 → step s = execStallStep s3) ∧
    (s3.fctx.stalls = 0 → step s = runSlots (liveSlots b) s4) ∧
    ∀ d i, s3.fctx.stalls = 0 → liveSlots b = [d] → d.op = .ok i →
      step s = match exec i (s4.atSlot d) with
        | .next t => .next t.closeBundle
        | .fault f => .fault f
        | .refused r => .refused r

/-- 01 R44, R48, R49; 03 R82; 10 R315: two slots of one bundle, of any slot operations, read what stood before it: both
results are in flight after one step; where either slot fails a check, neither has an effect, and one trap is taken that names
every slot that fails, with the cause of the lower. -/
def Obligations.BundlesCommitTogether : Prop :=
  ∀ (s : State) (x : Ctx) (k l : Nat) (d a b e f g : SReg), s.fctx? = some x → s.bundle = none → k < l →
    bit x.arch.check 0 = false →
    let run := runSlots [⟨k, none, .ok (.add d a b false)⟩, ⟨l, none, .ok (.sub e f g false)⟩] (s.openBundle none 0 none)
    ((∀ r ∈ [rS d, rS a, rS b, rS e, rS f, rS g], x.outside r = false) →
      ∃ t y, run = .next t ∧ Stepped s t x y ∧ y.arch = x.arch.move none ∧ y.gate = x.gate ∧ y.acc = x.acc ∧
        y.flights = x.flights ++ [x.flight 0 1 (.scalar d.toNat (s.sreg a + s.sreg b)),
          x.flight 1 1 (.scalar e.toNat (s.sreg f - s.sreg g))] ∧ t.fcore.mat = s.fcore.mat) ∧
    (x.outside (rS d) = true → x.outside (rS e) = true →
      run = .next ((s.spend s.fc).trapEnter s.fc s.fp .regAllot (rS d).info (slotfaultWord (2 ^ k + 2 ^ l) k))) ∧
    ∀ (i j : Instr) (p q : SlotPlan),
      let at1 := (s.openBundle none 0 none).atSlot ⟨k, none, .ok i⟩
      let at2 := (at1.stage i p).atSlot ⟨l, none, .ok j⟩
      let both := runSlots [⟨k, none, .ok i⟩, ⟨l, none, .ok j⟩] (s.openBundle none 0 none)
      let fails (n : Nat) (i : Instr) (p : SlotPlan) : Option (Cause × Word) :=
        (Staged.early x ⟨n, i.word, some i, none, p⟩).orElse fun _ => p.fault
      exec i at1 = .next (at1.stage i p) → exec j at2 = .next (at2.stage j q) →
      p.wait = none → q.wait = none → p.block = none → q.block = none → Instr.gates i = false → Instr.gates j = false →
      (∀ u v m n, fails k i p = none → fails l j q = none → i.handoff = false → j.handoff = false →
        p.acts = [.result m u] → q.acts = [.result n v] →
        ∃ t y, both = .next t ∧ Stepped s t x y ∧ y.arch = x.arch.move none ∧ y.gate = x.gate ∧ y.acc = x.acc ∧
          y.flights = x.flights ++ [x.flight 0 m u, x.flight 1 n v] ∧ t.fcore.mat = s.fcore.mat) ∧
      (∀ f, fails k i p = some f → fails l j q = none →
        both = .next ((s.spend s.fc).trapEnter s.fc s.fp f.1 f.2 (slotfaultWord (2 ^ k) k))) ∧
      (∀ f, fails k i p = none → fails l j q = some f →
        both = .next ((s.spend s.fc).trapEnter s.fc s.fp f.1 f.2 (slotfaultWord (2 ^ l) l))) ∧
      ∀ f g, fails k i p = some f → fails l j q = some g →
        both = .next ((s.spend s.fc).trapEnter s.fc s.fp f.1 f.2 (slotfaultWord (2 ^ k + 2 ^ l) k))

/-! Reset and the invariant. -/

/-- 01 R28, R38, R39; 07 R215; 12 R382; 13 R402, R404, R405, R407 to R409, R423: what the manual states of the machine after
reset. -/
def Obligations.ResetLeavesTheStatedValues : Prop :=
  let s := State.reset
  s.cycle = 0 ∧ s.dev.funcmode = 0 ∧ s.dev.devid = 0 ∧ s.dev.bootst = 0 ∧ s.dev.infl = [] ∧
  (∀ c, (s.core c).skew = 0 ∧ (s.core c).slotmask = 0 ∧ (s.core c).tvec = 0 ∧ (s.core c).watchdog = 4096 ∧
    (s.core c).bal = 0 ∧ (s.core c).hot = 0 ∧ (s.core c).therm = 0 ∧ (s.core c).cap = 0 ∧
    ∀ q, ((s.core c).ring q).valid = false ∧ ((s.core c).ring q).prod = 0 ∧ ((s.core c).ring q).cons = 0) ∧
  (∀ d n, Tab.get (s.die d).counters 0 n = 0) ∧
  Tab.get s.dev.energyTab 0 201 = 3600 ∧ Tab.get s.dev.energyTab 0 202 = 3400 ∧ Tab.get s.dev.irrTab 0 82 = 20 ∧
  Tab.get s.dev.irrTab 0 80 = 6000 ∧ s.tableRead 8 80 = 6000 ∧ (∀ z, z < 20 → s.tableRead 9 (4 * z) = 128) ∧
  s.tableRead 11 16 = 0x8000000000000000#64 ∧ (∀ i, i < 16 → s.tableRead 11 i = 0) ∧
  ∀ c p, s.ctx? c p = none

/-- The byte memories are in canonical form after reset: the model's own form (log entry 2). -/
def Obligations.ResetMemoryIsCanonical : Prop := State.reset.memOk = true

/-- Every step keeps the byte memories in canonical form: addresses rising, and no entry equal to what an unlisted address
reads as (the model's own form, log entry 2), so that equal memories are equal data. -/
def Obligations.EveryStepKeepsMemoryCanonical : Prop :=
  ∀ s t : State, s.memOk = true → step s = .next t → t.memOk = true

/-! Traps and marks. -/

/-- 10 R311; 01 R26, R36, R37, R46; 04 R132: taking a trap saves cause, queue, delay count and privilege, holds the results
in flight with the steps they have left, publishes the gated stores and takes a mark; then the context is at its handler at
supervisor privilege, or, where the host handles the cause group, is parked. What a trap level below the present one holds
in flight stays; the flags due at this step are kept for the return (01 R32) (premise: no result is in flight for a deeper
level, which no run makes). 10 R318 to R320 give what a mark records; that the mark taken on entry holds the handler's own
start, its first bundle to issue, is the model's choice (log entry 51; R311 takes it at its step 3, before the state
changes). -/
def Obligations.TrapEntrySavesTheContext : Prop :=
  ∀ (s : State) (c p : Nat) (x : Ctx) (e : Cause) (info sf : Word),
    (s.applyDue c p).ctx? c p = some x → (∀ f ∈ x.flights, f.lvl ≤ x.arch.lvl) →
    let a := x.arch
    let g := causeGroup e.code
    let h : BitVec 52 := BitVec.ofNat 52 ((fld (s.core c).tvec 55 11 * 0x800 + g * 0x100) / 16)
    let saved : Arch :=
      { a with ecause := e.code.setWidth 64, einfo := info, slotfault := sf, epc := a.pc.word, epcq1 := a.q1.word,
               epcq2 := a.q2.word, savedDc := a.dc, savedFl := x.dueFlags, epcWritten := false,
               estatus := if a.priv then 1 else 0,
               inHandler := true, lvl := a.lvl + 1 }
    ∃ y, (s.trapEnter c p e info sf).ctx? c p = some y ∧ y.stepNo = x.stepNo ∧ y.gate = [] ∧ y.window = none ∧
      y.flights = (x.flights.map fun f => { f with due := if f.lvl = a.lvl then f.due - x.stepNo else f.due }) ∧
      (∃ m, y.mark = some m ∧ m.arch = y.arch) ∧ y.dueFlags = x.dueFlags ∧
      (bit s.funcMode (8 + g) = false → y.run = .ready ∧
        y.arch = { saved with pc := ⟨h, false⟩, q1 := ⟨h + 1, false⟩, q2 := ⟨h + 2, false⟩, dc := 0, priv := true }) ∧
      (bit s.funcMode (8 + g) = true → y.run = .parked ∧ y.arch = saved)

/-- 04 R132; 07 R245: eret restores the queue from EPC, EPCQ1 and EPCQ2, the privilege from ESTATUS, and the delay count,
which is 0 where one of the three was written since the trap; every other register stays. A trap saves the delay count with
the queue, and so does a pre-emption. -/
def Obligations.TrapReturnRestoresTheContext : Prop :=
  ∀ (s : State) (c p : Nat) (x : Ctx), s.ctx? c p = some x →
    let a := x.arch
    let q (w : Word) : QEnt := ⟨w.extractLsb' 4 52, w.getLsbD 0⟩
    ∃ y, (s.trapReturn c p).ctx? c p = some y ∧ y.run = .ready ∧
      y.arch = { a with pc := q a.epc, q1 := q a.epcq1, q2 := q a.epcq2, dc := if a.epcWritten then 0 else a.savedDc,
                        priv := a.estatus.getLsbD 0, inHandler := false, bpExempt := true, lvl := a.lvl - 1 } ∧
      y.stepNo = x.stepNo ∧ y.gate = x.gate ∧ y.acc = x.acc ∧ y.mark = x.mark ∧ y.pends = x.pends ∧
      (s.trapReturn c p).dev = s.dev ∧ ((s.trapReturn c p).core c).spool = (s.core c).spool ∧
      ((s.trapReturn c p).core c).vpool = (s.core c).vpool ∧
      (∀ e info sf z, (s.applyDue c p).ctx? c p = some z → ∃ t, (s.trapEnter c p e info sf).ctx? c p = some t ∧
        t.arch.savedDc = z.arch.dc ∧ t.arch.epc = z.arch.pc.word ∧ t.arch.epcq1 = z.arch.q1.word ∧
        t.arch.epcq2 = z.arch.q2.word ∧ t.arch.epcWritten = false) ∧
      (∀ cycle, let v := ((s.core c).saveCtx cycle p x).ctx.arch
        v.dc = a.dc ∧ v.savedDc = a.savedDc ∧ v.pc = a.pc ∧ v.q1 = a.q1 ∧ v.q2 = a.q2 ∧ v.epcWritten = a.epcWritten) ∧
      ∀ n due (v : Word), (a.csrPut n due v).epcWritten = if n ∈ [0x802, 0x803, 0x804] then true else a.epcWritten

/-- 01 R26, R46; 04 R132; 07 R245: a trap taken and returned from at once leaves queue, delay count, privilege, masks, lr and
the results in flight as they were (premises: the host does not handle the group; each result in flight is of this level and
not overdue, or of a lower one). -/
def Obligations.ReturnUndoesEntry : Prop :=
  ∀ (s : State) (c p : Nat) (x : Ctx) (e : Cause) (info sf : Word),
    (s.applyDue c p).ctx? c p = some x →
    (∀ f ∈ x.flights, f.lvl < x.arch.lvl ∨ f.lvl = x.arch.lvl ∧ x.stepNo ≤ f.due) →
    bit s.funcMode (8 + causeGroup e.code) = false →
    ∃ y, ((s.trapEnter c p e info sf).trapReturn c p).ctx? c p = some y ∧ y.arch.pc = x.arch.pc ∧ y.arch.q1 = x.arch.q1 ∧
      y.arch.q2 = x.arch.q2 ∧ y.arch.dc = x.arch.dc ∧ y.arch.priv = x.arch.priv ∧ y.arch.lvl = x.arch.lvl ∧
      y.arch.masks = x.arch.masks ∧ y.arch.lr = x.arch.lr ∧ y.arch.step = x.arch.step ∧ y.flights = x.flights ∧
      y.dueFlags = x.dueFlags ∧ y.arch.inHandler = false

/-- 01 R27; 07 R245; 10 R311: a slot operation of a context at stage privilege leaves it at stage privilege, or in a handler.
-/
def Obligations.StagePrivilegeIsKept : Prop :=
  ∀ (i : Instr) (s t : State) (x y : Ctx), encodeNat i ≠ none → s.fctx? = some x → x.arch.priv = false →
    exec i s = .next t → t.fctx? = some y → y.arch.priv = true → y.arch.inHandler = true

/-- 04 R136, R138, R141, R144, R146: the accesses of ld, st, ldg, lda, stg, str, amo.add and cas that fail a check trap,
with the address in EINFO: the address's range before alignment, then the bytes' range, the owner or the translation; an
atomic of the register window is ATOMIC_TARGET. So it is with no bundle open, where one operation is a bundle of one, whose
trap's entry spends the cycle (10 R311), and in an open bundle, where the fault joins those that BundlesCommitTogether turns
into the trap as the bundle closes; the first is a path that step never takes (the model's choice, log entry 1). -/
def Obligations.AccessFaultsTrap : Prop :=
  ∀ (s : State) (x z : Ctx) (r b q : SReg) (w : Width) (n : Bool) (o : BitVec 11) (e g : Bool) (sc : Scope),
    s.fctx? = some x → s.marked.fctx? = some z →
    let k := Width.bytes w
    let pad (i : Instr) (reads : List RegRef) : Prop :=
      let a := s.sreg b + immS s.ext 11 o
      let fails := Fails s s x i [rS r, rS b] reads
      (2 ^ 23 ≤ a.toNat ∨ viewPhys x.banks a.toNat = none → fails .spRange a) ∧
      (a.toNat < 2 ^ 23 → viewPhys x.banks a.toNat ≠ none →
        (a.toNat % k ≠ 0 → fails .align a) ∧
        (a.toNat % k = 0 → viewOffs x.banks a.toNat k = none → fails .spRange a) ∧
        ∀ offs, a.toNat % k = 0 → viewOffs x.banks a.toNat k = some offs →
          (∃ h ∈ offs, s.fcore.engineOwns (tileOf h) = true) → fails .owner a)
    let far (m : State) (v : Ctx) (i : Instr) (a : Word) (k : Nat) (u : Use) (names reads : List RegRef) : Prop :=
      let fails := Fails m s v i names reads
      (2 ^ 56 ≤ a.toNat → fails .globalRange a) ∧
      (a.toNat < 2 ^ 56 → a.toNat % k ≠ 0 → fails .align a) ∧
      (a.toNat < 2 ^ 56 → a.toNat % k = 0 → ∀ c, m.dataXlate u a.toNat k = .fault c → fails c a)
    let m := s.marked
    let here := s.sreg b + immS s.ext 11 o
    pad (.ld r b w n o) [rS b] ∧ pad (.st r b w o) [rS r, rS b] ∧
    far s x (.ldg r b w n o) here k .read [rS r, rS b] [rS b] ∧ far s x (.lda r b w n o) here k .read [rS r, rS b] [rS b] ∧
    far s x (.stg r b w o) here k .write [rS r, rS b] [rS r, rS b] ∧
    far m z (.str r b w o) (m.sreg b + immS s.ext 11 o) k .write [rS r, rS b] [rS r, rS b] ∧
    far m z (.amoAdd r b n e g sc) (m.sreg b) (if n then 4 else 8) .readWrite [rS r, rS b] [rS r, rS b] ∧
    far m z (.cas r b q n e g sc) (m.sreg b) (if n then 4 else 8) .readWrite [rS r, rS b, rS q] [rS r, rS b, rS q] ∧
    (isWindow (m.sreg b).toNat = true → (m.sreg b).toNat < 2 ^ 56 → (m.sreg b).toNat % 8 = 0 → z.arch.priv = true →
      Fails m s z (.amoAdd r b false e g sc) [rS r, rS b] [rS r, rS b] .atomicTarget (m.sreg b) ∧
      Fails m s z (.cas r b q false e g sc) [rS r, rS b, rS q] [rS r, rS b, rS q] .atomicTarget (m.sreg b))

/-- 01 R27, R28; 04 R127, R128, R129; 06 R189, R202; 07 R218, R219, R245, R246: special registers that do not exist or are
barred, taken transfers to a target outside 0 to 2^56 - 1, jumps past a table's bound, jumps and tables whose target or
table does not pass its checks, operations of the supervisor at stage privilege, ring operations on the wrong side or past
the ring's state, and matrix operations of a context that does not hold the array, or before any mmode. So it is with no
bundle open, where one operation is a bundle of one, whose trap's entry spends the cycle (10 R311), and in an open bundle,
where the fault joins those that BundlesCommitTogether turns into the trap as the bundle closes; the first is a path that
step never takes (the model's choice, log entry 1). -/
def Obligations.ControlAndRegisterFaultsTrap : Prop :=
  ∀ (s : State) (x z : Ctx) (d a b : SReg) (n p : BitVec 12) (l : BitVec 8) (q : BitVec 5) (e : BitVec 3) (j : BitVec 7),
    s.fctx? = some x → s.marked.fctx? = some z →
    let r := s.fcore.ring q.toNat
    let eighth : List RegRef := [rEighth q e.toNat, { cls := .side, num := q.toNat, part := some e.toNat }]
    let ea := s.sreg a + 8 * s.sreg d
    let bad (i : Instr) (names reads : List RegRef) (v : Word) (pad : Option (BitVec 12)) : Prop :=
      let fails := Fails s s x i names reads
      (2 ^ 56 ≤ v.toNat → fails .globalRange v) ∧
      (v.toNat < 2 ^ 56 → v.toNat % 16 ≠ 0 → fails .align v) ∧
      (v.toNat < 2 ^ 56 → v.toNat % 16 = 0 →
        (∀ c, s.translate s.fc x .fetch v.toNat = .fault c → fails c v) ∧
        ∀ pa p, pad = some p → s.translate s.fc x .fetch v.toNat = .ok pa → x.landsAt pa p = false → fails .landing v)
    let barred (i : Instr) (ra : SReg) (writes : Bool) : Prop :=
      let fails := Fails s s x i [rS d, rS ra] [rS ra]
      (csrKnown n.toNat = false → fails .csrUndefined (n.setWidth 64)) ∧
      (csrKnown n.toNat = true → (x.arch.priv = false ∧ (n.getLsbD 11 = true ∨ writes = true ∧ n.getLsbD 10 = true) ∨
        x.arch.priv = true ∧ writes = true ∧ n.getLsbD 10 = true ∧ n.getLsbD 11 = true) → fails .privilege (n.setWidth 64))
    let m := s.marked
    let u := m.fcore.ring q.toNat
    let pc := x.arch.pc.addr.toNat * 16
    let beyond (i : Instr) (rs : List RegRef) (y : Int) : Prop := y < 0 ∨ 2 ^ 56 ≤ y →
      Fails s s x i rs rs .globalRange (BitVec.ofInt 64 y)
    let regs := [rS d, rS a, rS b]
    (∀ (c : Cond) (i : BitVec 11), condHolds c (s.sreg a) (s.sreg b) = true → let y := (pc : Int) + 16 * i.toInt
      beyond (.br c a b i) [rS a, rS b] y ∧ beyond (.brl c a b i) [rS a, rS b] y ∧ beyond (.bru c a b i) [rS a, rS b] y) ∧
    (∀ i : BitVec 26, let y := (pc : Int) + 16 * i.toInt
      beyond (.j i) [] y ∧ beyond (.jl i) [] y) ∧
    barred (.csrr d n) 0 false ∧ barred (.csrw d a n) a true ∧ barred (.csrs d a n) a (a != 0) ∧
    barred (.csrc d a n) a (a != 0) ∧
    ((s.sreg b).toNat ≤ (s.sreg d).toNat → Fails s s x (.jtab d a b l) regs regs .jtabBound (s.sreg d)) ∧
    bad (.jr a p) [rS a] [rS a] (s.sreg a) (some p) ∧ bad (.jlr a p) [rS a] [rS a] (s.sreg a) (some p) ∧
    bad .ret [] [rS 63] (s.sreg 63) none ∧
    ((s.sreg d).toNat < (s.sreg b).toNat →
      (2 ^ 56 ≤ ea.toNat → Fails s s x (.jtab d a b l) regs regs .globalRange ea) ∧
      (ea.toNat < 2 ^ 56 → ea.toNat % 8 ≠ 0 → Fails s s x (.jtab d a b l) regs regs .align ea) ∧
      (ea.toNat < 2 ^ 56 → ea.toNat % 8 = 0 →
        (∀ c, s.dataXlate .read ea.toNat 8 = .fault c → Fails s s x (.jtab d a b l) regs regs c ea) ∧
        ∀ pa, s.dataXlate .read ea.toNat 8 = .ok pa → x.tableWaits ea.toNat pa (isWindow ea.toNat) = false →
          bad (.jtab d a b l) regs regs (s.tableWord ea.toNat pa) (some (0xF00#12 + l.setWidth 12)))) ∧
    (x.arch.priv = false → Fails s s x .eret [] [] .privilege 0 ∧ Fails s s x .idle [] [] .privilege 0) ∧
    (r.cside = true → Fails s s x (.waitf q) [rQ q] [] .ringState (q.setWidth 64)) ∧
    (r.pside = true → Fails s s x (.waitr q) [rQ q] [] .ringState (q.setWidth 64)) ∧
    (u.valid = false ∨ u.cside = true ∨ u.occ = 0 → Fails m s z (.rels q) [rQ q] [] .ringState (q.setWidth 64)) ∧
    (u.valid = false ∨ u.pside = true ∨ u.occ = u.count → Fails m s z (.radv q) [rQ q] [] .ringState (q.setWidth 64)) ∧
    (s.fcore.mat.holder ≠ some s.fp → Fails s s x .mswap [] [] .matrixState 0 ∧
      Fails s s x (.mpush q e j) [rV q] eighth .matrixState 0 ∧
      ∀ (k : MatMode) (pl : BitVec 4) (c t : Bool), Fails s s x (.mmode k pl c t) [] [] .matrixState 0) ∧
    (s.fcore.mat.mode = none →
      (s.fcore.mat.holder = some s.fp → Fails s s x (.mpush q e j) [rV q] eighth .matrixMode 0) ∧
      Fails s s x (.macc q e l) [rV q, rA l.toNat] eighth .matrixMode 0)

/-- 01 R22; 03 R82, R92; 04 R131, R137, R140; 05 R184; 06 R195, R201: the checks of every slot, over one operation of each
shape: operations barred from a delay slot, registers that are not allotted, with CHECK.C a register whose result is in
flight, a push or a row's update that is not yet due, and a store where the gated store buffer has no place, before any
fill. R22 orders the slots alone: which of several failing operands of one slot EINFO names, and the push that a swap fails
on, is the model's choice (log entry 87), as is that the array a handler holds back counts as a push in flight (log entry
26). An operation given to exec with no bundle open is a bundle of one (the model's choice, log entry 1). -/
def Obligations.EarlyChecksTrap : Prop :=
  ∀ (s : State) (x z : Ctx) (d a b : SReg) (l : BitVec 8) (n : BitVec 16) (o : BitVec 11) (r : RegRef) (u v w : BitVec 5)
    (e k : BitVec 3) (c : BitVec 12) (t : VType) (q : BitVec 2) (k8 : Width),
    s.bundle = none → s.fctx? = some x → s.marked.fctx? = some z →
    let eighth : List RegRef := [rEighth u e.toNat, { cls := .side, num := u.toNat, part := some e.toNat }]
    let old := if k = 0 then [] else [rV u]
    let slots : List (Instr × List RegRef × List RegRef) :=
      [(.add d a b false, [rS d, rS a, rS b], [rS a, rS b]), (.ld d b k8 false o, [rS d, rS b], [rS b]),
       (.st d b k8 o, [rS d, rS b], [rS d, rS b]), (.ldg d b k8 false o, [rS d, rS b], [rS b]),
       (.stg d b k8 o, [rS d, rS b], [rS d, rS b]), (.csrw d a c, [rS d, rS a], [rS a]), (.jr a c, [rS a], [rS a]),
       (.vadd u v w k t, [rV u, rV v, rV w, rM k], [rV v, rV w, rM k] ++ old), (.macc u e l, [rV u, rA l.toNat], eighth),
       (.mdrain u q l, [rV u, rA l.toNat], [])]
    let store (i : Instr) : Prop := Clear x i [rS d, rS b] [rS d, rS b] → 16 ≤ x.gate.length → Traps s s i .gateOverflow 0
    let here := s.sreg b + immS s.ext 11 o
    (0 < x.arch.dc → ∀ i ∈ [Instr.jtab d a b l, .trap n, .eret, .idle],
      Traps s s i .delaySlot (BitVec.ofNat 64 i.word)) ∧
    (0 < z.arch.dc → ∀ i ∈ [Instr.endTask, .yield], Traps s.marked s i .delaySlot (BitVec.ofNat 64 i.word)) ∧
    (x.arch.dc = 0 → ∀ p ∈ slots,
      (p.2.1.find? x.outside = some r → Traps s s p.1 .regAllot r.info) ∧
      ((∀ g ∈ p.2.1, x.outside g = false) → bit x.arch.check 0 = true → x.premature p.2.2 = some r →
        Traps s s p.1 .stallUndersized r.info)) ∧
    (s.fcore.mat.holder = some s.fp → bit x.arch.check 0 = true → Clear x .mswap [] [] → ∀ i,
      s.swapStall = some i → Traps s s .mswap .stallUndersized i ∧
        ∃ f ∈ s.fcore.mat.pend, f.notDue x = true ∧ ∃ h m y g, f.op = .push h m y g ∧ i = BitVec.ofNat 64 (0x100 + g)) ∧
    (bit x.arch.check 0 = true → ∀ f, s.fcore.mat.lastRow (x.aBase + l.toNat) = some f → f.notDue x = true →
      (Clear x (.mdrain u q l) [rV u, rA l.toNat] [] →
        Traps s s (.mdrain u q l) .stallUndersized (BitVec.ofNat 64 (0x300 + l.toNat))) ∧
      (Clear x (.mdrainz u q l) [rV u, rA l.toNat] [] →
        Traps s s (.mdrainz u q l) .stallUndersized (BitVec.ofNat 64 (0x300 + l.toNat)))) ∧
    ((∀ f, s.spCheck here (Width.bytes k8) (Width.bytes k8) ≠ .fault f) → store (.st d b k8 o)) ∧
    (∀ pa, here.toNat < 2 ^ 56 → here.toNat % Width.bytes k8 = 0 →
      s.dataXlate .write here.toNat (Width.bytes k8) = .ok pa → store (.stg d b k8 o)) ∧
    ∀ y (m : BitVec 3) (et : EType) (o : BitVec 8), s.vCheck (s.sreg b + 64 * immS s.ext 8 o) et true = .ok y →
      trapOf (vStoreRes y.fmt et (s.memRctx (vRounds y.fmt et true y.kind && anyActive (s.mreg m) (EType.width et)
        (2048 / EType.width et))).1 (s.mreg m) (s.vreg u).data (s.vreg u).side y.kind).rs = none →
      Clear x (.vst u b m et o) [rV u, rS b, rM m] ((if y.kind = .whole then [rSide u] else []) ++ [rV u, rS b, rM m]) →
      16 ≤ x.gate.length → Traps s s (.vst u b m et o) .gateOverflow 0

/-- 07 R218, R238, R240, R242, R243, R247; 08 R256: the waits: each blocks its context while what it waits for is absent;
end while a command of the context is outstanding, or the trap of one that has faulted is pending; a load while a tile that
it touches is filled. 01 R49; 04 R129, R139; 08 R263: a bundle with a slot that no earlier check stops and that waits for a
translation, a page or a read freezes its core, whatever its other slots; or parks its context for a page whose migration
the host decides. A drain of any scope waits alike (log entry 61), the fault queue asked is that of the page's die (log
entry 10), and an operation given to exec with no bundle open is a bundle of one (log entry 1): the model's choices. -/
def Obligations.WaitsBlock : Prop :=
  (∀ (s : State) (x z : Ctx) (a : SReg) (q : BitVec 5) (c : BitVec 8) (sc : Scope) (ph : Bool), s.bundle = none →
    s.fctx? = some x → s.marked.fctx? = some z →
    let r := s.fcore.ring q.toNat
    let m := s.marked
    (Clear x (.waitf q) [rQ q] [] → r.cside = false → r.occ = 0 → Blocks s s x (.waitf q) (.ringFilled q.toNat)) ∧
    (Clear x (.waitr q) [rQ q] [] → r.pside = false → r.occ = r.count → Blocks s s x (.waitr q) (.ringRoom q.toNat)) ∧
    (Clear z (.waitph a ph) [rS a] [rS a] → ∀ offs, m.spCheck (m.sreg a) 16 16 = .ok offs →
      bit (m.fcore.spWord (offs.headD 0)) 63 = ph → Blocks m s z (.waitph a ph) (.phase (offs.headD 0) ph)) ∧
    (Clear z .sync [] [] → z.actIn = false → Blocks m s z .sync .sync) ∧
    (Clear z (.barx c) [] [] → (∀ e, (c.toNat, e, true) ∉ z.barSent) → m.dev.chanOk c.toNat = true →
      Blocks m s z (.barx c) (.barx c.toNat)) ∧
    (Clear z (.drain sc) [] [] → m.drained m.fc m.fp = false → ∃ k, Blocks m s z (.drain sc) (.drain k)) ∧
    (Clear z .endTask [] [] → m.ownCmds ≠ [] ∨ z.engineFault = true → Blocks m s z .endTask .ending) ∧
    ∀ (d b : SReg) (w : Width) (n : Bool) (o : BitVec 11) (ts : List Nat), x.fillBad = [] →
      Clear x (.ld d b w n o) [rS d, rS b] [rS b] →
      s.spCheck (s.sreg b + o.signExtend 64) (Width.bytes w) (Width.bytes w) = .fill ts →
      Blocks s s x (.ld d b w n o) (.fill ts)) ∧
  (∀ (s : State) (x : Ctx) (d a b : SReg) (w : Width) (n : Bool) (o : BitVec 11) (l : BitVec 8), s.bundle = none →
    s.fctx? = some x → s.fcore.freeze = none →
    let frozen (i : Instr) (k : FrzKind) : Prop := exec i s = .next (s.modCore s.fc fun q =>
      { q with freeze := some { place := s.fp, since := s.cycle, bound := fld q.watchdog 31 0, kind := k } })
    let here := s.sreg b + o.signExtend 64
    let waits (i : Instr) (names reads : List RegRef) (v : Word) (n : Nat) (u : Use) : Prop := Clear x i names reads →
      v.toNat < 2 ^ 56 → v.toNat % n = 0 →
      (s.dataXlate u v.toNat n = .miss → frozen i (.xlate v.toNat)) ∧
      ∀ g, s.dataXlate u v.toNat n = .migrate g → let B := s.requestPage (pageOf g)
        (∃ e ∈ (B.die (s.pageDie (pageOf g))).faultq, e.page = pageOf g) ∧
        (B.hostDecides (pageOf g) = false → exec i s = .next (B.freezeOn (.migrate g))) ∧
        (B.hostDecides (pageOf g) = true → ∃ t y, exec i s = .next t ∧ t.fctx? = some y ∧ y.run = .migrating (pageOf g) ∧
          y.arch = x.arch ∧ y.flights = x.flights ∧ t.fcore.freeze = none)
    let k := Width.bytes w
    let t := s.sreg a + 8 * s.sreg d
    waits (.ldg d b w n o) [rS d, rS b] [rS b] here k .read ∧ waits (.lda d b w n o) [rS d, rS b] [rS b] here k .read ∧
    waits (.stg d b w o) [rS d, rS b] [rS d, rS b] here k .write ∧
    ((s.sreg d).toNat < (s.sreg b).toNat →
      waits (.jtab d a b l) [rS d, rS a, rS b] [rS d, rS a, rS b] t 8 .read ∧
      (Clear x (.jtab d a b l) [rS d, rS a, rS b] [rS d, rS a, rS b] → t.toNat < 2 ^ 56 → t.toNat % 8 = 0 →
        ∀ pa, s.dataXlate .read t.toNat 8 = .ok pa → x.tableWaits t.toNat pa (isWindow t.toNat) = true →
        frozen (.jtab d a b l) (.read t.toNat false)))) ∧
  ∀ (s : State) (x : Ctx) (k l : Nat) (i j : Instr) (p q : SlotPlan) (w : Wait), s.bundle = none → s.fctx? = some x →
    let at1 := (s.openBundle none 0 none).atSlot ⟨k, none, .ok i⟩
    let at2 := (at1.stage i p).atSlot ⟨l, none, .ok j⟩
    let early (n : Nat) (i : Instr) (p : SlotPlan) := Staged.early x ⟨n, i.word, some i, none, p⟩
    exec i at1 = .next (at1.stage i p) → exec j at2 = .next (at2.stage j q) → p.block = none → q.block = none →
    (early k i p = none ∧ p.wait = some w ∨ (early k i p = none → p.wait = none) ∧ early l j q = none ∧ q.wait = some w) →
    runSlots [⟨k, none, .ok i⟩, ⟨l, none, .ok j⟩] (s.openBundle none 0 none) = .next (s.waitOn w)

/-- 10 R319, R320; 06 R206: a rollback puts the registers, special registers, queue, results in flight and steps of the mark
back, and for the array's holder mode, banks, lines and its own rows as the mark shadowed them, discards the gated stores, and
leaves memory, pending traps and every register outside the allotment alone; and after a mark any write of a scalar register
is undone by it. -/
def Obligations.RollbackReturnsToTheMark : Prop :=
  (∀ (s : State) (c p : Nat) (x : Ctx) (m : Mark), s.ctx? c p = some x → x.mark = some m →
    let t := s.rollback c p
    ∃ y, t.ctx? c p = some y ∧ y.arch = m.arch ∧ y.flights = m.flights ∧ y.gate = [] ∧ y.stepNo = m.point ∧
      y.pends = x.pends ∧ y.run = x.run.rolled ∧ y.dueFlags = m.dueFlags ∧ y.mark = some m ∧ t.dev = s.dev ∧ (t.core c).sp = (s.core c).sp ∧
      (∀ (i : Nat) (h : i < m.sregs.length), Tab.get (t.core c).spool 0 (x.sBase + i) = m.sregs[i]) ∧
      (∀ (i : Nat) (h : i < m.vregs.length), Tab.get (t.core c).vpool VReg.zero (x.vBase + i) = m.vregs[i]) ∧
      ∀ j, (j < x.sBase ∨ x.sBase + m.sregs.length ≤ j → Tab.get (t.core c).spool 0 j = Tab.get (s.core c).spool 0 j) ∧
        (j < x.vBase ∨ x.vBase + m.vregs.length ≤ j →
          Tab.get (t.core c).vpool VReg.zero j = Tab.get (s.core c).vpool VReg.zero j) ∧
        (m.mat = none → (t.core c).mat = (s.core c).mat) ∧
        ∀ h, m.mat = some h → let u := (t.core c).mat
          u.mode = h.mode ∧ u.active = h.active ∧ u.bank0 = h.bank0 ∧ u.bank1 = h.bank1 ∧ u.pend = h.pend ∧
          u.holder = (s.core c).mat.holder ∧
          (x.ownsRow j = false → Tab.find? h.rows j = none → Tab.get u.rows 0 j = Tab.get (s.core c).mat.rows 0 j) ∧
          (x.ownsRow j = true → Tab.find? h.rows j = none → Tab.get u.rows 0 j = 0) ∧
          ∀ v, (∃ q ∈ h.rows, q.1 = j) → (∀ q ∈ h.rows, q.1 = j → q.2 = v) → Tab.get u.rows 0 j = v) ∧
  (∀ (s : State) (c p r : Nat) (x : Ctx) (g : MatFlight) (v : AccRow), (s.takeMark c p).ctx? c p = some x →
    (s.core c).mat.holder = some p → (s.core c).mat.pend = [g] → g.op = .row r v → x.ownsRow r = true →
    ∃ m h, x.mark = some m ∧ m.mat = some h ∧ h.pend = [] ∧ h.mode = (s.core c).mat.mode ∧
      h.active = (s.core c).mat.active ∧ Tab.get h.rows 0 r = v) ∧
  ∀ (s : State) (c p k : Nat) (x : Ctx) (v : Word), (s.takeMark c p).ctx? c p = some x → x.gate = [] ∧
    ∃ y, (((s.takeMark c p).writeScalar c p k v).rollback c p).ctx? c p = some y ∧ y.arch = x.arch ∧
      ∀ j, j = 63 ∨ j < x.sCount →
        ((((s.takeMark c p).writeScalar c p k v).rollback c p).core c).scalar y j = ((s.takeMark c p).core c).scalar x j

/-- 10 R312, R314: of the traps pending, the one of lowest rank is taken first, and of those the earliest; in a handler only
machine checks are, which are MC_DATA, MC_LOGIC and CORE_HUNG; and the ranks of R314's table. -/
def Obligations.PendingTrapsComeInOrder : Prop :=
  (∀ (l : List Pend), bestPend l = none ↔ l = []) ∧
  (∀ (l : List Pend) (q : Pend), bestPend l = some q → ∃ a b, l = a ++ q :: b ∧
    (∀ r ∈ a, q.cause.rank < r.cause.rank) ∧ ∀ r ∈ b, q.cause.rank ≤ r.cause.rank) ∧
  (∀ (x : Ctx) (q : Pend), x.nextPend = some q → q ∈ x.pends ∧ (x.arch.inHandler = true → q.cause.isMachineCheck = true) ∧
    ∀ r ∈ x.pends, (x.arch.inHandler = true → r.cause.isMachineCheck = true) → q.cause.rank ≤ r.cause.rank) ∧
  (∀ c : Cause, c.isMachineCheck = true ↔ c = .mcData ∨ c = .mcLogic ∨ c = .coreHung) ∧
  let ranks : List (List Cause) :=
    [[.mcData, .mcLogic, .coreHung], [.brk], [.freezeTimeout],
     [.scaleInvalid, .scaleUnderflow, .anchorOverflow, .anchorMismatch, .engineFault, .copyShape, .channelMismatch,
      .channelAbort, .triggerTable, .cellarMiss, .cellarCapacity],
     [.accSaturate, .retryBudget, .tlbConflict, .viewAlign], [.step], [.syncTimeout, .barrierTimeout, .linkDown, .ringState],
     [.quantum, .energyExhausted, .preempt], [.thermalHot, .coolantDry, .coolantFlow, .yokeImbalance], [.timer, .hostEvent],
     [.breakpoint]]
  ∀ n l c, ranks[n]? = some l → c ∈ l → c.rank = n + 1

/-- 01 R43, R44: when results are due all are written, and none is left due: in order of the step at which they are due, and
of issue where that is one; of the writes of one register the one due last, then the one issued last, stands, whatever kind
of register they write, also over a load that comes late (01 R47); results take their places in the order in which bundles
issue and, in a bundle, of its slots; a result that is not due is not written. -/
def Obligations.ResultsAreWrittenWhenDue : Prop :=
  (∀ (s : State) (c p : Nat), (s.applyDue c p).hasDue c p = false) ∧
  (∀ (s : State) (c p k : Nat) (x : Ctx) (f g : Flight) (v w : Word), s.ctx? c p = some x → x.flights = [f, g] →
    x.isDue f = true → x.isDue g = true → f.val = .scalar k v → g.val = .scalar k w → 0 < k → k < 63 →
    ∃ y, (s.applyDue c p).ctx? c p = some y ∧ y.flights = [] ∧
      ((s.applyDue c p).core c).scalar y k = if g.due < f.due ∨ g.due = f.due ∧ g.ord < f.ord then v else w) ∧
  (∀ (s : State) (c p k i : Nat) (x : Ctx) (f g : Flight) (w : Word), s.ctx? c p = some x → x.flights = [f, g] →
    x.isDue f = true → x.isDue g = true → f.val = .load k i none → g.val = .scalar k w → 0 < k → k < 63 →
    ∃ y, (s.applyDue c p).ctx? c p = some y ∧ ((s.applyDue c p).core c).scalar y k = w ∧
      y.flights = [if f.due < g.due ∨ f.due = g.due ∧ f.ord < g.ord then { f with val := .load 0 i none } else f]) ∧
  (∀ (s : State) (c p k : Nat) (x : Ctx), s.ctx? c p = some x → (s.core c).mat.holder ≠ some p →
    let now := x.flights.filter fun f => x.isDue f && !f.val.late
    let waits := (x.flights.filter fun f => !(x.isDue f && !f.val.late)).map fun g => match g.val with
      | .load j i none =>
        if x.isDue g = true ∧ ∃ f ∈ now, f.val.scalarTo = some j ∧ (g.due < f.due ∨ g.due = f.due ∧ g.ord < f.ord) then
          { g with val := .load 0 i none }
        else g
      | _ => g
    ∃ l : List Flight, l.Perm now ∧ (∀ f g a b, l = a ++ f :: b → g ∈ b → f.due < g.due ∨ f.due = g.due ∧ f.ord ≤ g.ord) ∧
      s.applyDue c p = l.foldl (fun t f => t.applyFlight c p f) (s.setCtx c p { x with flights := waits }) ∧
      (0 < k → k < 63 → ∃ y, (s.applyDue c p).ctx? c p = some y ∧ y.flights = waits ∧
        ((s.applyDue c p).core c).scalar y k = ((l.filterMap fun f => match f.val with
          | .scalar j v => if j = k then some v else none
          | .load j _ (some v) => if j = k then some v else none
          | _ => none).getLast?).getD ((s.core c).scalar x k))) ∧
  (∀ (s : State) (c p : Nat) (f : Flight),
    (∀ k v, f.val = .scalar k v → s.applyFlight c p f = s.writeScalar c p k v) ∧
    (∀ k i v, f.val = .load k i (some v) → s.applyFlight c p f = s.writeScalar c p k v) ∧
    (∀ k d m e n, f.val = .vec k d m e n → s.applyFlight c p f = s.writeVector c p k d m e n) ∧
    ∀ k v, f.val = .mask k v → s.applyFlight c p f = s.writeMask c p k v) ∧
  (∀ (s : State) (x : Ctx) (lat : Nat) (v : FlightVal), s.fctx? = some x →
    ∃ y, (s.addFlight lat v).fctx? = some y ∧ y.flights = x.flights ++ [x.flight 0 lat v] ∧ y.ord = x.ord + 1) ∧
  (∀ (s : State) (x : Ctx) (k l : Nat) (d a b e f g : SReg), s.fctx? = some x → s.bundle = none → k < l →
    bit x.arch.check 0 = false → (∀ r ∈ [rS d, rS a, rS b, rS e, rS f, rS g], x.outside r = false) →
    ∃ t y u v, runSlots [⟨k, none, .ok (.add d a b false)⟩, ⟨l, none, .ok (.sub e f g false)⟩] (s.openBundle none 0 none) =
      .next t ∧ t.fctx? = some y ∧ y.flights = x.flights ++ [u, v] ∧ u.val = .scalar d.toNat (s.sreg a + s.sreg b) ∧
      v.val = .scalar e.toNat (s.sreg f - s.sreg g) ∧ u.due = v.due ∧ u.ord < v.ord ∧ v.ord < y.ord) ∧
  ∀ (s : State) (c p : Nat) (x : Ctx), s.ctx? c p = some x → (∀ f ∈ x.flights, x.isDue f = false) →
    ((s.applyDue c p).core c).spool = (s.core c).spool ∧ ((s.applyDue c p).core c).vpool = (s.core c).vpool ∧
      ∃ y, (s.applyDue c p).ctx? c p = some y ∧ y = x

/-! Registers and memory. -/

/-- 01 R16 to R18: a write of a scalar register changes that register alone, of its context and of every context that does not
share its place in the pool; s0 reads 0 and discards writes, as m0 reads ones. A vector write changes the data and sidecar
bits it selects, of one register. -/
def Obligations.RegistersReadWhatWasWritten : Prop :=
  ∀ (s : State) (c p k j : Nat) (x : Ctx) (v : Word) (m : VMask) (d dm : VData) (e em : VSide), s.ctx? c p = some x →
    k < 64 → j < 64 →
    (∃ y, (s.writeScalar c p k v).ctx? c p = some y ∧
      ((s.writeScalar c p k v).core c).scalar y j = if j = k ∧ k ≠ 0 then v else (s.core c).scalar x j) ∧
    (∀ q z, q ≠ p → s.ctx? c q = some z → z.sBase + j ≠ x.sBase + k → (s.writeScalar c p k v).ctx? c q = some z ∧
      ((s.writeScalar c p k v).core c).scalar z j = (s.core c).scalar z j) ∧
    (∃ y, (s.writeMask c p k m).ctx? c p = some y ∧ y.maskOf j = if j = k ∧ k ≠ 0 then m else x.maskOf j) ∧
    (s.core c).scalar x 0 = 0 ∧ (∀ i, i < 2048 → (x.maskOf 0).getLsbD i = true) ∧
    (∀ q z, q ≠ p → s.ctx? c q = some z → z.vBase + j ≠ x.vBase + k →
      (s.writeVector c p k d dm e em).ctx? c q = some z ∧
      ((s.writeVector c p k d dm e em).core c).vector z j = (s.core c).vector z j) ∧
    ∃ y, (s.writeVector c p k d dm e em).ctx? c p = some y ∧ y = x ∧
      ∀ i, ((((s.writeVector c p k d dm e em).core c).vector y j).data.getLsbD i =
          if j = k ∧ dm.getLsbD i = true then d.getLsbD i else ((s.core c).vector x j).data.getLsbD i) ∧
        (((s.writeVector c p k d dm e em).core c).vector y j).side.getLsbD i =
          if j = k ∧ em.getLsbD i = true then e.getLsbD i else ((s.core c).vector x j).side.getLsbD i

/-- 08 R249, R259: a byte reads what was written to it last; a write leaves every other byte alone and the memory in canonical
form, and canonical memories that read alike are equal (the form is the model's own, log entry 2). 04 R137, R138, R140; 08 R256,
R266, R269: publishing the gated stores writes those of scratchpad, in their order, to their bytes and to no other, the tiles
apart that are still to be filled, and makes the others published accesses in their order; one that is performed writes its bytes
alone, or loads memory's under the youngest gated store of its context; and all of them performed leave each byte of device memory
at what the youngest of them stored to it. That an access is performed at every scope in one act is the model's choice (log entry
61). -/
def Obligations.MemoryReadsWhatWasWritten : Prop :=
  (∀ (m : Mem) (a b : Nat) (v : Byte), Memory.wf m = true →
    Memory.wf (Mem.write m a v) = true ∧ Mem.read (Mem.write m a v) b = if b = a then v else Mem.read m b) ∧
  (∀ (m : Mem) (a b : Nat) (vs : List Byte), Memory.wf m = true →
    Memory.wf (Mem.writeBytes m a vs) = true ∧
      Mem.read (Mem.writeBytes m a vs) b = if a ≤ b then (vs[b - a]?).getD (Mem.read m b) else Mem.read m b) ∧
  (∀ m n : Mem, Memory.wf m = true → Memory.wf n = true → (∀ a, Mem.read m a = Mem.read n a) → m = n) ∧
  (∀ (s : State) (c p : Nat) (x : Ctx) (off : Nat), s.ctx? c p = some x → Memory.wf (s.core c).sp = true →
    let t := s.publishGate c p
    let sp := x.gate.flatMap fun e => match e with
      | .sp bs _ => bs
      | _ => []
    let filled : Prop := ∀ r, Tab.find? (s.core c).tiles (tileOf off) = some r → r.filled = true
    (filled → t.padByte c off =
      sp.foldl (fun b h => if h.off = off then mergeByte b h.byte h.mask else b) (s.padByte c off)) ∧
    (¬filled → t.padByte c off = s.padByte c off) ∧ ∀ d, d ≠ c → (t.core d).sp = (s.core d).sp) ∧
  (∀ (s : State) (c p : Nat) (x : Ctx), s.ctx? c p = some x → (∀ e ∈ x.gate, e.isWin = false) →
    (∀ va pa bs rel k, GateEnt.gl va pa bs rel k ∈ x.gate → ∀ w, s.dev.walk va = some w → w.hv = true →
      w.hown = false ∧ s.dev.leaving va = false) →
    let gs := x.gate.filterMap fun e => match e with
      | .gl va pa bs rel _ => some (va, pa, bs, rel)
      | _ => none
    let t := s.publishGate c p
    (∃ y, t.ctx? c p = some y ∧ y.gate = [] ∧ y.nextId = x.nextId + gs.length ∧
      y.acc = x.acc ++ (gs.zip (List.range gs.length)).map fun g =>
        { id := x.nextId + g.2, ord := x.nextId + g.2, kind := if g.1.2.2.2 then .str else .stg, va := g.1.1, pa := g.1.2.1,
          len := g.1.2.2.1.length, zext := false, bytes := g.1.2.2.1, fwd := [], got := none, win := false, acq := false,
          rel := false, atom := none }) ∧ t.dev = s.dev ∧
    (x.acc = [] → s.heldBy x = [] → Memory.wf s.dev.mem = true → ∀ q,
      (t.performAll c p).devByte q = (gateGlobal x.gate q).getD (s.devByte q))) ∧
  (∀ (s : State) (x : Ctx) (a : Access), x.acc.find? (fun b => b.id == a.id) = some a → s.mayDo x a = true → a.win = false →
    let r := s.performAcc x a.id
    (a.kind = .stg ∨ a.kind = .str → r.2 = { x with acc := x.acc.filter fun b => b.id != a.id } ∧
      (∃ m u, r.1 = s.modDev fun d => { d with mem := m, memUndef := u }) ∧
      (Memory.wf s.dev.mem = true → ∀ q,
        r.1.devByte q = if a.pa ≤ q then (a.bytes[q - a.pa]?).getD (s.devByte q) else s.devByte q)) ∧
    (a.kind = .ldg ∨ a.kind = .lda → a.fwd.length = a.len → r.1 = s ∧
      r.2 = { x with acc := x.acc.map fun b => if b.id = a.id then { b with got := some (extendLoad a.len a.zext
        (numLE ((List.range a.len).map fun i => ((a.fwd[i]?).join).getD (s.devByte (a.pa + i))))) } else b })) ∧
  ∀ (es : List GateEnt) (va pa q k : Nat) (bs : List Byte) (rel : Bool), gateGlobal [] q = none ∧
    gateGlobal (es ++ [.gl va pa bs rel k]) q = if pa ≤ q then (bs[q - pa]?).orElse fun _ => gateGlobal es q
      else gateGlobal es q

/-- 01 R24, R29 to R31, R33 to R40: what a special register reads after a write: its fields, each reserved bit 0; zero
written to RNGS stores 1, below 256 to WATCHDOG stores 256, a reserved MODE leaves MODE; and a write of FUNCMODE is followed
from 64 cycles after it on. STEP holds the value written once the writing bundle's own step has been counted (the model's
choice, log entry 52). That WID and WIDW read as written, though R41 keeps their bits above the fields in use zero, is the
model's choice (log entry 83). -/
def Obligations.SpecialRegistersKeepTheirFields : Prop :=
  ∀ (s : State) (x : Ctx) (v : Word), s.fctx? = some x →
    let reads (n : Nat) (w : Word) : Prop := (s.csrPut n v).csrRead n = w
    reads 0x000 (if v.toNat % 8 < 6 then v &&& 0xF#64 else (v &&& 8#64) ||| (x.arch.rmode &&& 7#64)) ∧
    reads 0x001 (v &&& 3#64) ∧ reads 0x002 ((v &&& 0x7F#64) ||| x.dueFlags.setWidth 64) ∧
    reads 0x003 (if v = 0 then 1 else v) ∧ reads 0x004 (v &&& 1#64) ∧ reads 0x400 v ∧ reads 0x401 (v &&& 0xFFFFFFFFF#64) ∧
    reads 0x402 (v &&& 0xFFFF#64) ∧
    reads 0x403 (v &&& 0xFFFF#64) ∧ reads 0x404 (v &&& 7#64) ∧ ((x.arch.csrPut x.dueFlags 0x405 v).move none).step = v ∧ reads 0x407 v ∧ reads 0x801 v ∧
    reads 0x800 (v &&& 0x3F#64) ∧ reads 0x805 (v &&& 0x3F#64) ∧ reads 0x810 (v &&& 0xFF#64) ∧
    (∀ n ∈ [0x802, 0x803, 0x804], reads n (v &&& 0xFFFFFFFFFFFFF1#64)) ∧ reads 0x806 (v &&& 1#64) ∧
    reads 0x807 (v &&& 0xFFFFFFFFFFF800#64) ∧ reads 0x809 (if v.toNat % 2 ^ 32 < 256 then 256 else v &&& 0xFFFFFFFF#64) ∧
    reads 0x80A (v &&& 0xFFFFFFFF#64) ∧ reads 0x811 (v &&& 0xFFFFFFFF#64) ∧ reads 0x808 (v &&& 0x3F3F#64) ∧
    (s.dev.funcPast = [] → ∀ n,
      ({ s.csrPut 0x808 v with cycle := s.cycle + n } : State).funcMode =
        if n < 64 then s.dev.funcmode else v &&& 0x3F3F#64)
end

