-- ==== Sys2Proof/Laws/State.lean ====
section
/-! SUPPORT. What each update of the state leaves and what it changes: one lemma a field, so that no later proof unfolds a
record update; then the reads of a core, a context, a die and the focus after an update. -/

namespace Sys2Proof.Machine

@[simp] theorem State.setCore_cycle (s : State) (c : Nat) (k : Core) : (s.setCore c k).cycle = s.cycle := rfl
@[simp] theorem State.setCtx_cycle (s : State) (c p : Nat) (x : Ctx) : (s.setCtx c p x).cycle = s.cycle := rfl
@[simp] theorem State.modCore_cycle (s : State) (c : Nat) (g : Core → Core) : (s.modCore c g).cycle = s.cycle := rfl
@[simp] theorem State.modCtx_cycle (s : State) (c p : Nat) (g : Ctx → Ctx) : (s.modCtx c p g).cycle = s.cycle := by unfold State.modCtx; split <;> rfl
@[simp] theorem State.modDev_cycle (s : State) (g : Dev → Dev) : (s.modDev g).cycle = s.cycle := rfl
@[simp] theorem State.takeFree_cycle (s : State) (n : Nat) : (s.takeFree n).cycle = s.cycle := rfl
@[simp] theorem State.setDie_cycle (s : State) (d : Nat) (x : Die) : (s.setDie d x).cycle = s.cycle := by unfold State.setDie; split <;> rfl
@[simp] theorem State.modDie_cycle (s : State) (d : Nat) (g : Die → Die) : (s.modDie d g).cycle = s.cycle := State.setDie_cycle _ _ _
@[simp] theorem State.openBundle_cycle (s : State) (h : Option Header) (k : Nat) (e : Option (BitVec 7)) : (s.openBundle h k e).cycle = s.cycle := rfl
@[simp] theorem State.stage_cycle (s : State) (i : Instr) (p : SlotPlan) : (s.stage i p).cycle = s.cycle := by unfold State.stage; split <;> rfl
@[simp] theorem State.setCore_free (s : State) (c : Nat) (k : Core) : (s.setCore c k).free = s.free := rfl
@[simp] theorem State.setCtx_free (s : State) (c p : Nat) (x : Ctx) : (s.setCtx c p x).free = s.free := rfl
@[simp] theorem State.modCore_free (s : State) (c : Nat) (g : Core → Core) : (s.modCore c g).free = s.free := rfl
@[simp] theorem State.modCtx_free (s : State) (c p : Nat) (g : Ctx → Ctx) : (s.modCtx c p g).free = s.free := by unfold State.modCtx; split <;> rfl
@[simp] theorem State.modDev_free (s : State) (g : Dev → Dev) : (s.modDev g).free = s.free := rfl
@[simp] theorem State.setDie_free (s : State) (d : Nat) (x : Die) : (s.setDie d x).free = s.free := by unfold State.setDie; split <;> rfl
@[simp] theorem State.modDie_free (s : State) (d : Nat) (g : Die → Die) : (s.modDie d g).free = s.free := State.setDie_free _ _ _
@[simp] theorem State.openBundle_free (s : State) (h : Option Header) (k : Nat) (e : Option (BitVec 7)) : (s.openBundle h k e).free = s.free := rfl
@[simp] theorem State.stage_free (s : State) (i : Instr) (p : SlotPlan) : (s.stage i p).free = s.free := by unfold State.stage; split <;> rfl
@[simp] theorem State.setCore_focus (s : State) (c : Nat) (k : Core) : (s.setCore c k).focus = s.focus := rfl
@[simp] theorem State.setCtx_focus (s : State) (c p : Nat) (x : Ctx) : (s.setCtx c p x).focus = s.focus := rfl
@[simp] theorem State.modCore_focus (s : State) (c : Nat) (g : Core → Core) : (s.modCore c g).focus = s.focus := rfl
@[simp] theorem State.modCtx_focus (s : State) (c p : Nat) (g : Ctx → Ctx) : (s.modCtx c p g).focus = s.focus := by unfold State.modCtx; split <;> rfl
@[simp] theorem State.modDev_focus (s : State) (g : Dev → Dev) : (s.modDev g).focus = s.focus := rfl
@[simp] theorem State.takeFree_focus (s : State) (n : Nat) : (s.takeFree n).focus = s.focus := rfl
@[simp] theorem State.setDie_focus (s : State) (d : Nat) (x : Die) : (s.setDie d x).focus = s.focus := by unfold State.setDie; split <;> rfl
@[simp] theorem State.modDie_focus (s : State) (d : Nat) (g : Die → Die) : (s.modDie d g).focus = s.focus := State.setDie_focus _ _ _
@[simp] theorem State.openBundle_focus (s : State) (h : Option Header) (k : Nat) (e : Option (BitVec 7)) : (s.openBundle h k e).focus = s.focus := rfl
@[simp] theorem State.stage_focus (s : State) (i : Instr) (p : SlotPlan) : (s.stage i p).focus = s.focus := by unfold State.stage; split <;> rfl
@[simp] theorem State.setCore_bundle (s : State) (c : Nat) (k : Core) : (s.setCore c k).bundle = s.bundle := rfl
@[simp] theorem State.setCtx_bundle (s : State) (c p : Nat) (x : Ctx) : (s.setCtx c p x).bundle = s.bundle := rfl
@[simp] theorem State.modCore_bundle (s : State) (c : Nat) (g : Core → Core) : (s.modCore c g).bundle = s.bundle := rfl
@[simp] theorem State.modCtx_bundle (s : State) (c p : Nat) (g : Ctx → Ctx) : (s.modCtx c p g).bundle = s.bundle := by unfold State.modCtx; split <;> rfl
@[simp] theorem State.modDev_bundle (s : State) (g : Dev → Dev) : (s.modDev g).bundle = s.bundle := rfl
@[simp] theorem State.takeFree_bundle (s : State) (n : Nat) : (s.takeFree n).bundle = s.bundle := rfl
@[simp] theorem State.setDie_bundle (s : State) (d : Nat) (x : Die) : (s.setDie d x).bundle = s.bundle := by unfold State.setDie; split <;> rfl
@[simp] theorem State.modDie_bundle (s : State) (d : Nat) (g : Die → Die) : (s.modDie d g).bundle = s.bundle := State.setDie_bundle _ _ _
@[simp] theorem State.setCore_agenda (s : State) (c : Nat) (k : Core) : (s.setCore c k).agenda = s.agenda := rfl
@[simp] theorem State.setCtx_agenda (s : State) (c p : Nat) (x : Ctx) : (s.setCtx c p x).agenda = s.agenda := rfl
@[simp] theorem State.modCore_agenda (s : State) (c : Nat) (g : Core → Core) : (s.modCore c g).agenda = s.agenda := rfl
@[simp] theorem State.modCtx_agenda (s : State) (c p : Nat) (g : Ctx → Ctx) : (s.modCtx c p g).agenda = s.agenda := by unfold State.modCtx; split <;> rfl
@[simp] theorem State.modDev_agenda (s : State) (g : Dev → Dev) : (s.modDev g).agenda = s.agenda := rfl
@[simp] theorem State.takeFree_agenda (s : State) (n : Nat) : (s.takeFree n).agenda = s.agenda := rfl
@[simp] theorem State.setDie_agenda (s : State) (d : Nat) (x : Die) : (s.setDie d x).agenda = s.agenda := by unfold State.setDie; split <;> rfl
@[simp] theorem State.modDie_agenda (s : State) (d : Nat) (g : Die → Die) : (s.modDie d g).agenda = s.agenda := State.setDie_agenda _ _ _
@[simp] theorem State.openBundle_agenda (s : State) (h : Option Header) (k : Nat) (e : Option (BitVec 7)) : (s.openBundle h k e).agenda = s.agenda := rfl
@[simp] theorem State.stage_agenda (s : State) (i : Instr) (p : SlotPlan) : (s.stage i p).agenda = s.agenda := by unfold State.stage; split <;> rfl
@[simp] theorem State.modDev_cores (s : State) (g : Dev → Dev) : (s.modDev g).cores = s.cores := rfl
@[simp] theorem State.takeFree_cores (s : State) (n : Nat) : (s.takeFree n).cores = s.cores := rfl
@[simp] theorem State.setDie_cores (s : State) (d : Nat) (x : Die) : (s.setDie d x).cores = s.cores := by unfold State.setDie; split <;> rfl
@[simp] theorem State.modDie_cores (s : State) (d : Nat) (g : Die → Die) : (s.modDie d g).cores = s.cores := State.setDie_cores _ _ _
@[simp] theorem State.openBundle_cores (s : State) (h : Option Header) (k : Nat) (e : Option (BitVec 7)) : (s.openBundle h k e).cores = s.cores := rfl
@[simp] theorem State.stage_cores (s : State) (i : Instr) (p : SlotPlan) : (s.stage i p).cores = s.cores := by unfold State.stage; split <;> rfl
@[simp] theorem State.setCore_die0 (s : State) (c : Nat) (k : Core) : (s.setCore c k).die0 = s.die0 := rfl
@[simp] theorem State.setCtx_die0 (s : State) (c p : Nat) (x : Ctx) : (s.setCtx c p x).die0 = s.die0 := rfl
@[simp] theorem State.modCore_die0 (s : State) (c : Nat) (g : Core → Core) : (s.modCore c g).die0 = s.die0 := rfl
@[simp] theorem State.modCtx_die0 (s : State) (c p : Nat) (g : Ctx → Ctx) : (s.modCtx c p g).die0 = s.die0 := by unfold State.modCtx; split <;> rfl
@[simp] theorem State.modDev_die0 (s : State) (g : Dev → Dev) : (s.modDev g).die0 = s.die0 := rfl
@[simp] theorem State.takeFree_die0 (s : State) (n : Nat) : (s.takeFree n).die0 = s.die0 := rfl
@[simp] theorem State.openBundle_die0 (s : State) (h : Option Header) (k : Nat) (e : Option (BitVec 7)) : (s.openBundle h k e).die0 = s.die0 := rfl
@[simp] theorem State.stage_die0 (s : State) (i : Instr) (p : SlotPlan) : (s.stage i p).die0 = s.die0 := by unfold State.stage; split <;> rfl
@[simp] theorem State.setCore_die1 (s : State) (c : Nat) (k : Core) : (s.setCore c k).die1 = s.die1 := rfl
@[simp] theorem State.setCtx_die1 (s : State) (c p : Nat) (x : Ctx) : (s.setCtx c p x).die1 = s.die1 := rfl
@[simp] theorem State.modCore_die1 (s : State) (c : Nat) (g : Core → Core) : (s.modCore c g).die1 = s.die1 := rfl
@[simp] theorem State.modCtx_die1 (s : State) (c p : Nat) (g : Ctx → Ctx) : (s.modCtx c p g).die1 = s.die1 := by unfold State.modCtx; split <;> rfl
@[simp] theorem State.modDev_die1 (s : State) (g : Dev → Dev) : (s.modDev g).die1 = s.die1 := rfl
@[simp] theorem State.takeFree_die1 (s : State) (n : Nat) : (s.takeFree n).die1 = s.die1 := rfl
@[simp] theorem State.openBundle_die1 (s : State) (h : Option Header) (k : Nat) (e : Option (BitVec 7)) : (s.openBundle h k e).die1 = s.die1 := rfl
@[simp] theorem State.stage_die1 (s : State) (i : Instr) (p : SlotPlan) : (s.stage i p).die1 = s.die1 := by unfold State.stage; split <;> rfl
@[simp] theorem State.setCore_dev (s : State) (c : Nat) (k : Core) : (s.setCore c k).dev = s.dev := rfl
@[simp] theorem State.setCtx_dev (s : State) (c p : Nat) (x : Ctx) : (s.setCtx c p x).dev = s.dev := rfl
@[simp] theorem State.modCore_dev (s : State) (c : Nat) (g : Core → Core) : (s.modCore c g).dev = s.dev := rfl
@[simp] theorem State.modCtx_dev (s : State) (c p : Nat) (g : Ctx → Ctx) : (s.modCtx c p g).dev = s.dev := by unfold State.modCtx; split <;> rfl
@[simp] theorem State.takeFree_dev (s : State) (n : Nat) : (s.takeFree n).dev = s.dev := rfl
@[simp] theorem State.setDie_dev (s : State) (d : Nat) (x : Die) : (s.setDie d x).dev = s.dev := by unfold State.setDie; split <;> rfl
@[simp] theorem State.modDie_dev (s : State) (d : Nat) (g : Die → Die) : (s.modDie d g).dev = s.dev := State.setDie_dev _ _ _
@[simp] theorem State.openBundle_dev (s : State) (h : Option Header) (k : Nat) (e : Option (BitVec 7)) : (s.openBundle h k e).dev = s.dev := rfl
@[simp] theorem State.stage_dev (s : State) (i : Instr) (p : SlotPlan) : (s.stage i p).dev = s.dev := by unfold State.stage; split <;> rfl

@[simp] theorem State.setCore_cores (s : State) (c : Nat) (k : Core) : (s.setCore c k).cores = Tab.set s.cores c k := rfl
@[simp] theorem State.modDev_dev (s : State) (g : Dev → Dev) : (s.modDev g).dev = g s.dev := rfl
@[simp] theorem State.takeFree_free (s : State) (n : Nat) : (s.takeFree n).free = s.free + n := rfl

@[simp] theorem Arch.move_priv (a : Arch) (t : Option Xfer) : (a.move t).priv = a.priv := rfl
@[simp] theorem Arch.move_lr (a : Arch) (t : Option Xfer) : (a.move t).lr = a.lr := rfl
@[simp] theorem Arch.redirect_lr (a : Arch) (dest : BitVec 52) : (a.redirect dest).lr = a.lr := rfl
@[simp] theorem Arch.move_masks (a : Arch) (t : Option Xfer) : (a.move t).masks = a.masks := rfl
@[simp] theorem Arch.redirect_masks (a : Arch) (dest : BitVec 52) : (a.redirect dest).masks = a.masks := rfl
@[simp] theorem Arch.move_rmode (a : Arch) (t : Option Xfer) : (a.move t).rmode = a.rmode := rfl
@[simp] theorem Arch.redirect_rmode (a : Arch) (dest : BitVec 52) : (a.redirect dest).rmode = a.rmode := rfl
@[simp] theorem Arch.move_ovpol (a : Arch) (t : Option Xfer) : (a.move t).ovpol = a.ovpol := rfl
@[simp] theorem Arch.redirect_ovpol (a : Arch) (dest : BitVec 52) : (a.redirect dest).ovpol = a.ovpol := rfl
@[simp] theorem Arch.move_vflags (a : Arch) (t : Option Xfer) : (a.move t).vflags = a.vflags := rfl
@[simp] theorem Arch.redirect_vflags (a : Arch) (dest : BitVec 52) : (a.redirect dest).vflags = a.vflags := rfl
@[simp] theorem Arch.move_rngs (a : Arch) (t : Option Xfer) : (a.move t).rngs = a.rngs := rfl
@[simp] theorem Arch.redirect_rngs (a : Arch) (dest : BitVec 52) : (a.redirect dest).rngs = a.rngs := rfl
@[simp] theorem Arch.move_check (a : Arch) (t : Option Xfer) : (a.move t).check = a.check := rfl
@[simp] theorem Arch.redirect_check (a : Arch) (dest : BitVec 52) : (a.redirect dest).check = a.check := rfl
@[simp] theorem Arch.move_wid (a : Arch) (t : Option Xfer) : (a.move t).wid = a.wid := rfl
@[simp] theorem Arch.redirect_wid (a : Arch) (dest : BitVec 52) : (a.redirect dest).wid = a.wid := rfl
@[simp] theorem Arch.move_widw (a : Arch) (t : Option Xfer) : (a.move t).widw = a.widw := rfl
@[simp] theorem Arch.redirect_widw (a : Arch) (dest : BitVec 52) : (a.redirect dest).widw = a.widw := rfl
@[simp] theorem Arch.move_mbt (a : Arch) (t : Option Xfer) : (a.move t).mbt = a.mbt := rfl
@[simp] theorem Arch.redirect_mbt (a : Arch) (dest : BitVec 52) : (a.redirect dest).mbt = a.mbt := rfl
@[simp] theorem Arch.move_stage (a : Arch) (t : Option Xfer) : (a.move t).stage = a.stage := rfl
@[simp] theorem Arch.redirect_stage (a : Arch) (dest : BitVec 52) : (a.redirect dest).stage = a.stage := rfl
@[simp] theorem Arch.move_vint (a : Arch) (t : Option Xfer) : (a.move t).vint = a.vint := rfl
@[simp] theorem Arch.redirect_vint (a : Arch) (dest : BitVec 52) : (a.redirect dest).vint = a.vint := rfl
@[simp] theorem Arch.redirect_step (a : Arch) (dest : BitVec 52) : (a.redirect dest).step = a.step := rfl
@[simp] theorem Arch.move_ecause (a : Arch) (t : Option Xfer) : (a.move t).ecause = a.ecause := rfl
@[simp] theorem Arch.redirect_ecause (a : Arch) (dest : BitVec 52) : (a.redirect dest).ecause = a.ecause := rfl
@[simp] theorem Arch.move_einfo (a : Arch) (t : Option Xfer) : (a.move t).einfo = a.einfo := rfl
@[simp] theorem Arch.redirect_einfo (a : Arch) (dest : BitVec 52) : (a.redirect dest).einfo = a.einfo := rfl
@[simp] theorem Arch.move_epc (a : Arch) (t : Option Xfer) : (a.move t).epc = a.epc := rfl
@[simp] theorem Arch.redirect_epc (a : Arch) (dest : BitVec 52) : (a.redirect dest).epc = a.epc := rfl
@[simp] theorem Arch.move_epcq1 (a : Arch) (t : Option Xfer) : (a.move t).epcq1 = a.epcq1 := rfl
@[simp] theorem Arch.redirect_epcq1 (a : Arch) (dest : BitVec 52) : (a.redirect dest).epcq1 = a.epcq1 := rfl
@[simp] theorem Arch.move_epcq2 (a : Arch) (t : Option Xfer) : (a.move t).epcq2 = a.epcq2 := rfl
@[simp] theorem Arch.redirect_epcq2 (a : Arch) (dest : BitVec 52) : (a.redirect dest).epcq2 = a.epcq2 := rfl
@[simp] theorem Arch.move_slotfault (a : Arch) (t : Option Xfer) : (a.move t).slotfault = a.slotfault := rfl
@[simp] theorem Arch.redirect_slotfault (a : Arch) (dest : BitVec 52) : (a.redirect dest).slotfault = a.slotfault := rfl
@[simp] theorem Arch.move_estatus (a : Arch) (t : Option Xfer) : (a.move t).estatus = a.estatus := rfl
@[simp] theorem Arch.redirect_estatus (a : Arch) (dest : BitVec 52) : (a.redirect dest).estatus = a.estatus := rfl
@[simp] theorem Arch.move_quantum (a : Arch) (t : Option Xfer) : (a.move t).quantum = a.quantum := rfl
@[simp] theorem Arch.redirect_quantum (a : Arch) (dest : BitVec 52) : (a.redirect dest).quantum = a.quantum := rfl
@[simp] theorem Arch.move_tabsel (a : Arch) (t : Option Xfer) : (a.move t).tabsel = a.tabsel := rfl
@[simp] theorem Arch.redirect_tabsel (a : Arch) (dest : BitVec 52) : (a.redirect dest).tabsel = a.tabsel := rfl
@[simp] theorem Arch.move_tabidx (a : Arch) (t : Option Xfer) : (a.move t).tabidx = a.tabidx := rfl
@[simp] theorem Arch.redirect_tabidx (a : Arch) (dest : BitVec 52) : (a.redirect dest).tabidx = a.tabidx := rfl
@[simp] theorem Arch.move_inHandler (a : Arch) (t : Option Xfer) : (a.move t).inHandler = a.inHandler := rfl
@[simp] theorem Arch.redirect_inHandler (a : Arch) (dest : BitVec 52) : (a.redirect dest).inHandler = a.inHandler := rfl
@[simp] theorem Arch.move_savedDc (a : Arch) (t : Option Xfer) : (a.move t).savedDc = a.savedDc := rfl
@[simp] theorem Arch.redirect_savedDc (a : Arch) (dest : BitVec 52) : (a.redirect dest).savedDc = a.savedDc := rfl
@[simp] theorem Arch.move_savedFl (a : Arch) (t : Option Xfer) : (a.move t).savedFl = a.savedFl := rfl
@[simp] theorem Arch.redirect_savedFl (a : Arch) (dest : BitVec 52) : (a.redirect dest).savedFl = a.savedFl := rfl
@[simp] theorem Arch.move_epcWritten (a : Arch) (t : Option Xfer) : (a.move t).epcWritten = a.epcWritten := rfl
@[simp] theorem Arch.redirect_epcWritten (a : Arch) (dest : BitVec 52) : (a.redirect dest).epcWritten = a.epcWritten := rfl
@[simp] theorem Arch.redirect_bpExempt (a : Arch) (dest : BitVec 52) : (a.redirect dest).bpExempt = a.bpExempt := rfl
@[simp] theorem Arch.move_lvl (a : Arch) (t : Option Xfer) : (a.move t).lvl = a.lvl := rfl
@[simp] theorem Arch.redirect_lvl (a : Arch) (dest : BitVec 52) : (a.redirect dest).lvl = a.lvl := rfl
@[simp] theorem Arch.move_shapes (a : Arch) (t : Option Xfer) : (a.move t).shapes = a.shapes := rfl
@[simp] theorem Arch.redirect_shapes (a : Arch) (dest : BitVec 52) : (a.redirect dest).shapes = a.shapes := rfl
@[simp] theorem Ctx.saveCause_pc (x : Ctx) (c : Cause) (w v : Word) : (x.saveCause c w v).arch.pc = x.arch.pc := rfl
@[simp] theorem Ctx.saveCause_q1 (x : Ctx) (c : Cause) (w v : Word) : (x.saveCause c w v).arch.q1 = x.arch.q1 := rfl
@[simp] theorem Ctx.saveCause_q2 (x : Ctx) (c : Cause) (w v : Word) : (x.saveCause c w v).arch.q2 = x.arch.q2 := rfl
@[simp] theorem Ctx.saveCause_dc (x : Ctx) (c : Cause) (w v : Word) : (x.saveCause c w v).arch.dc = x.arch.dc := rfl
@[simp] theorem Ctx.saveCause_priv (x : Ctx) (c : Cause) (w v : Word) : (x.saveCause c w v).arch.priv = x.arch.priv := rfl
@[simp] theorem Ctx.saveCause_lr (x : Ctx) (c : Cause) (w v : Word) : (x.saveCause c w v).arch.lr = x.arch.lr := rfl
@[simp] theorem Ctx.afterEret_lr (x : Ctx) : x.afterEret.arch.lr = x.arch.lr := rfl
@[simp] theorem Ctx.saveCause_masks (x : Ctx) (c : Cause) (w v : Word) : (x.saveCause c w v).arch.masks = x.arch.masks := rfl
@[simp] theorem Ctx.afterEret_masks (x : Ctx) : x.afterEret.arch.masks = x.arch.masks := rfl
@[simp] theorem Ctx.saveCause_rmode (x : Ctx) (c : Cause) (w v : Word) : (x.saveCause c w v).arch.rmode = x.arch.rmode := rfl
@[simp] theorem Ctx.afterEret_rmode (x : Ctx) : x.afterEret.arch.rmode = x.arch.rmode := rfl
@[simp] theorem Ctx.saveCause_ovpol (x : Ctx) (c : Cause) (w v : Word) : (x.saveCause c w v).arch.ovpol = x.arch.ovpol := rfl
@[simp] theorem Ctx.afterEret_ovpol (x : Ctx) : x.afterEret.arch.ovpol = x.arch.ovpol := rfl
@[simp] theorem Ctx.saveCause_vflags (x : Ctx) (c : Cause) (w v : Word) : (x.saveCause c w v).arch.vflags = x.arch.vflags := rfl
@[simp] theorem Ctx.afterEret_vflags (x : Ctx) : x.afterEret.arch.vflags = x.arch.vflags := rfl
@[simp] theorem Ctx.saveCause_rngs (x : Ctx) (c : Cause) (w v : Word) : (x.saveCause c w v).arch.rngs = x.arch.rngs := rfl
@[simp] theorem Ctx.afterEret_rngs (x : Ctx) : x.afterEret.arch.rngs = x.arch.rngs := rfl
@[simp] theorem Ctx.saveCause_check (x : Ctx) (c : Cause) (w v : Word) : (x.saveCause c w v).arch.check = x.arch.check := rfl
@[simp] theorem Ctx.afterEret_check (x : Ctx) : x.afterEret.arch.check = x.arch.check := rfl
@[simp] theorem Ctx.saveCause_wid (x : Ctx) (c : Cause) (w v : Word) : (x.saveCause c w v).arch.wid = x.arch.wid := rfl
@[simp] theorem Ctx.afterEret_wid (x : Ctx) : x.afterEret.arch.wid = x.arch.wid := rfl
@[simp] theorem Ctx.saveCause_widw (x : Ctx) (c : Cause) (w v : Word) : (x.saveCause c w v).arch.widw = x.arch.widw := rfl
@[simp] theorem Ctx.afterEret_widw (x : Ctx) : x.afterEret.arch.widw = x.arch.widw := rfl
@[simp] theorem Ctx.saveCause_mbt (x : Ctx) (c : Cause) (w v : Word) : (x.saveCause c w v).arch.mbt = x.arch.mbt := rfl
@[simp] theorem Ctx.afterEret_mbt (x : Ctx) : x.afterEret.arch.mbt = x.arch.mbt := rfl
@[simp] theorem Ctx.saveCause_stage (x : Ctx) (c : Cause) (w v : Word) : (x.saveCause c w v).arch.stage = x.arch.stage := rfl
@[simp] theorem Ctx.afterEret_stage (x : Ctx) : x.afterEret.arch.stage = x.arch.stage := rfl
@[simp] theorem Ctx.saveCause_vint (x : Ctx) (c : Cause) (w v : Word) : (x.saveCause c w v).arch.vint = x.arch.vint := rfl
@[simp] theorem Ctx.afterEret_vint (x : Ctx) : x.afterEret.arch.vint = x.arch.vint := rfl
@[simp] theorem Ctx.saveCause_step (x : Ctx) (c : Cause) (w v : Word) : (x.saveCause c w v).arch.step = x.arch.step := rfl
@[simp] theorem Ctx.afterEret_step (x : Ctx) : x.afterEret.arch.step = x.arch.step := rfl
@[simp] theorem Ctx.afterEret_ecause (x : Ctx) : x.afterEret.arch.ecause = x.arch.ecause := rfl
@[simp] theorem Ctx.afterEret_einfo (x : Ctx) : x.afterEret.arch.einfo = x.arch.einfo := rfl
@[simp] theorem Ctx.afterEret_epc (x : Ctx) : x.afterEret.arch.epc = x.arch.epc := rfl
@[simp] theorem Ctx.afterEret_epcq1 (x : Ctx) : x.afterEret.arch.epcq1 = x.arch.epcq1 := rfl
@[simp] theorem Ctx.afterEret_epcq2 (x : Ctx) : x.afterEret.arch.epcq2 = x.arch.epcq2 := rfl
@[simp] theorem Ctx.afterEret_slotfault (x : Ctx) : x.afterEret.arch.slotfault = x.arch.slotfault := rfl
@[simp] theorem Ctx.afterEret_estatus (x : Ctx) : x.afterEret.arch.estatus = x.arch.estatus := rfl
@[simp] theorem Ctx.saveCause_quantum (x : Ctx) (c : Cause) (w v : Word) : (x.saveCause c w v).arch.quantum = x.arch.quantum := rfl
@[simp] theorem Ctx.afterEret_quantum (x : Ctx) : x.afterEret.arch.quantum = x.arch.quantum := rfl
@[simp] theorem Ctx.saveCause_tabsel (x : Ctx) (c : Cause) (w v : Word) : (x.saveCause c w v).arch.tabsel = x.arch.tabsel := rfl
@[simp] theorem Ctx.afterEret_tabsel (x : Ctx) : x.afterEret.arch.tabsel = x.arch.tabsel := rfl
@[simp] theorem Ctx.saveCause_tabidx (x : Ctx) (c : Cause) (w v : Word) : (x.saveCause c w v).arch.tabidx = x.arch.tabidx := rfl
@[simp] theorem Ctx.afterEret_tabidx (x : Ctx) : x.afterEret.arch.tabidx = x.arch.tabidx := rfl
@[simp] theorem Ctx.afterEret_savedDc (x : Ctx) : x.afterEret.arch.savedDc = x.arch.savedDc := rfl
@[simp] theorem Ctx.afterEret_epcWritten (x : Ctx) : x.afterEret.arch.epcWritten = x.arch.epcWritten := rfl
@[simp] theorem Ctx.saveCause_bpExempt (x : Ctx) (c : Cause) (w v : Word) : (x.saveCause c w v).arch.bpExempt = x.arch.bpExempt := rfl
@[simp] theorem Ctx.saveCause_shapes (x : Ctx) (c : Cause) (w v : Word) : (x.saveCause c w v).arch.shapes = x.arch.shapes := rfl
@[simp] theorem Ctx.afterEret_shapes (x : Ctx) : x.afterEret.arch.shapes = x.arch.shapes := rfl

/-! What taking a trap and returning from it write (10 R311; 07 R245). -/

@[simp] theorem Ctx.saveCause_ecause (x : Ctx) (c : Cause) (w v : Word) :
    (x.saveCause c w v).arch.ecause = c.code.setWidth 64 := rfl
@[simp] theorem Ctx.saveCause_einfo (x : Ctx) (c : Cause) (w v : Word) : (x.saveCause c w v).arch.einfo = w := rfl
@[simp] theorem Ctx.saveCause_slotfault (x : Ctx) (c : Cause) (w v : Word) : (x.saveCause c w v).arch.slotfault = v := rfl
@[simp] theorem Ctx.saveCause_epc (x : Ctx) (c : Cause) (w v : Word) : (x.saveCause c w v).arch.epc = x.arch.pc.word := rfl
@[simp] theorem Ctx.saveCause_epcq1 (x : Ctx) (c : Cause) (w v : Word) :
    (x.saveCause c w v).arch.epcq1 = x.arch.q1.word := rfl
@[simp] theorem Ctx.saveCause_epcq2 (x : Ctx) (c : Cause) (w v : Word) :
    (x.saveCause c w v).arch.epcq2 = x.arch.q2.word := rfl
@[simp] theorem Ctx.saveCause_savedDc (x : Ctx) (c : Cause) (w v : Word) : (x.saveCause c w v).arch.savedDc = x.arch.dc := rfl
@[simp] theorem Ctx.saveCause_savedFl (x : Ctx) (c : Cause) (w v : Word) : (x.saveCause c w v).arch.savedFl = x.dueFlags := rfl
@[simp] theorem Ctx.afterEret_savedFl (x : Ctx) : x.afterEret.arch.savedFl = x.arch.savedFl := rfl
@[simp] theorem Ctx.saveCause_estatus (x : Ctx) (c : Cause) (w v : Word) :
    (x.saveCause c w v).arch.estatus = BitVec.ofNat 64 x.arch.priv.toNat := rfl
@[simp] theorem Ctx.saveCause_inHandler (x : Ctx) (c : Cause) (w v : Word) : (x.saveCause c w v).arch.inHandler = true := rfl
@[simp] theorem Ctx.saveCause_lvl (x : Ctx) (c : Cause) (w v : Word) : (x.saveCause c w v).arch.lvl = x.arch.lvl + 1 := rfl
@[simp] theorem Arch.redirect_pc (a : Arch) (dest : BitVec 52) : (a.redirect dest).pc = ⟨dest, false⟩ := rfl
@[simp] theorem Arch.redirect_q1 (a : Arch) (dest : BitVec 52) : (a.redirect dest).q1 = ⟨dest + 1, false⟩ := rfl
@[simp] theorem Arch.redirect_q2 (a : Arch) (dest : BitVec 52) : (a.redirect dest).q2 = ⟨dest + 2, false⟩ := rfl
@[simp] theorem Arch.redirect_dc (a : Arch) (dest : BitVec 52) : (a.redirect dest).dc = 0 := rfl
@[simp] theorem Arch.redirect_priv (a : Arch) (dest : BitVec 52) : (a.redirect dest).priv = true := rfl
@[simp] theorem Arch.move_step (a : Arch) (t : Option Xfer) : (a.move t).step = a.step + 1 := rfl
@[simp] theorem Arch.move_bpExempt (a : Arch) (t : Option Xfer) : (a.move t).bpExempt = false := rfl
@[simp] theorem Ctx.afterEret_pc (x : Ctx) : x.afterEret.arch.pc = qentOf x.arch.epc := rfl
@[simp] theorem Ctx.afterEret_q1 (x : Ctx) : x.afterEret.arch.q1 = qentOf x.arch.epcq1 := rfl
@[simp] theorem Ctx.afterEret_q2 (x : Ctx) : x.afterEret.arch.q2 = qentOf x.arch.epcq2 := rfl
@[simp] theorem Ctx.afterEret_priv (x : Ctx) : x.afterEret.arch.priv = bit x.arch.estatus 0 := rfl
@[simp] theorem Ctx.afterEret_inHandler (x : Ctx) : x.afterEret.arch.inHandler = false := rfl

/-! What an update of a context's architectural state leaves of its flags, and a rollback of where it runs (01 R32; 10 R337). -/

@[simp] theorem Ctx.afterEret_dueFlags (x : Ctx) :
    x.afterEret.dueFlags = if x.arch.inHandler then x.arch.savedFl else 0 := rfl
@[simp] theorem Run.rolled_parked : Run.parked.rolled = .parked := rfl
@[simp] theorem Run.rolled_starting (t : Nat) : (Run.starting t).rolled = .starting t := rfl
@[simp] theorem Run.rolled_ready : Run.ready.rolled = .ready := rfl

/-! Tables: what a key holds after a write. -/

/-- A table holds at a key what was last written there. -/
@[simp] theorem Tab.find?_set_self {α : Type} (t : Tab α) (j : Nat) (v : α) : Tab.find? (Tab.set t j v) j = some v := by
  induction t with
  | nil => simp [Tab.set, Tab.find?]
  | cons q t ih =>
    obtain ⟨k, w⟩ := q
    simp only [Tab.set]
    split
    · simp [Tab.find?]
    · split
      · simp [Tab.find?]
      · simp [Tab.find?, *]

/-- A write leaves every other key as it was. -/
theorem Tab.find?_set_ne {α : Type} (t : Tab α) (j i : Nat) (v : α) (h : i ≠ j) :
    Tab.find? (Tab.set t j v) i = Tab.find? t i := by
  induction t with
  | nil => simp [Tab.set, Tab.find?, h]
  | cons q t ih =>
    obtain ⟨k, w⟩ := q
    simp only [Tab.set]
    split
    · next hk => subst hk; simp [Tab.find?, h]
    · split
      · simp [Tab.find?, h]
      · simp [Tab.find?, ih]

/-- The second of two writes at one key is the one that counts. -/
@[simp] theorem Tab.set_set {α : Type} (t : Tab α) (j : Nat) (v w : α) : Tab.set (Tab.set t j v) j w = Tab.set t j w := by
  induction t with
  | nil => simp [Tab.set]
  | cons q t ih =>
    obtain ⟨k, u⟩ := q
    by_cases h : j = k
    · simp [Tab.set, h]
    · by_cases g : j < k
      · simp [Tab.set, h, g]
      · simp [Tab.set, h, g, ih]

/-- What a table lists after a write: the entry written, or one that it listed before. -/
theorem Tab.mem_set {α : Type} (t : Tab α) (j : Nat) (v : α) (q : Nat × α) (h : q ∈ Tab.set t j v) : q = (j, v) ∨ q ∈ t := by
  induction t with
  | nil => simpa [Tab.set] using h
  | cons r t ih =>
    obtain ⟨k, u⟩ := r
    simp only [Tab.set] at h
    split at h
    · rcases List.mem_cons.1 h with h | h
      · exact .inl h
      · exact .inr (List.mem_cons_of_mem _ h)
    · split at h
      · rcases List.mem_cons.1 h with h | h
        · exact .inl h
        · exact .inr h
      · rcases List.mem_cons.1 h with h | h
        · exact .inr (h ▸ List.mem_cons_self ..)
        · rcases ih h with h | h
          · exact .inl h
          · exact .inr (List.mem_cons_of_mem _ h)

/-- A value found in a table is listed there. -/
theorem Tab.mem_of_find? {α : Type} (t : Tab α) (j : Nat) (v : α) (h : Tab.find? t j = some v) : (j, v) ∈ t := by
  induction t with
  | nil => simp [Tab.find?] at h
  | cons r t ih =>
    obtain ⟨k, u⟩ := r
    simp only [Tab.find?] at h
    split at h
    · next hk => subst hk; simp at h; simp [h]
    · exact List.mem_cons_of_mem _ (ih h)

@[simp] theorem Tab.get_set_self {α : Type} (t : Tab α) (d v : α) (j : Nat) : Tab.get (Tab.set t j v) d j = v := by
  simp [Tab.get]
theorem Tab.get_set_ne {α : Type} (t : Tab α) (d v : α) (j i : Nat) (h : i ≠ j) :
    Tab.get (Tab.set t j v) d i = Tab.get t d i := by simp [Tab.get, Tab.find?_set_ne _ _ _ _ h]

/-! Reads of cores and contexts after an update. -/

@[simp] theorem State.core_setCore (s : State) (c : Nat) (k : Core) : (s.setCore c k).core c = k := by
  simp [State.core, State.setCore]
theorem State.core_setCore_ne (s : State) (c d : Nat) (k : Core) (h : d ≠ c) : (s.setCore c k).core d = s.core d := by
  simp [State.core, State.setCore, Tab.get_set_ne _ _ _ _ _ h]
@[simp] theorem State.core_modCore (s : State) (c : Nat) (f : Core → Core) : (s.modCore c f).core c = f (s.core c) := by
  simp [State.modCore]
theorem State.core_modCore_ne (s : State) (c d : Nat) (f : Core → Core) (h : d ≠ c) :
    (s.modCore c f).core d = s.core d := State.core_setCore_ne _ _ _ _ h
@[simp] theorem State.core_modDev (s : State) (f : Dev → Dev) (c : Nat) : (s.modDev f).core c = s.core c := rfl
@[simp] theorem State.core_takeFree (s : State) (n c : Nat) : (s.takeFree n).core c = s.core c := rfl
@[simp] theorem State.core_openBundle (s : State) (h : Option Header) (k : Nat) (e : Option (BitVec 7)) (c : Nat) :
    (s.openBundle h k e).core c = s.core c := rfl
@[simp] theorem State.ctx?_setCtx (s : State) (c p : Nat) (x : Ctx) : (s.setCtx c p x).ctx? c p = some x := by
  simp [State.ctx?, State.setCtx]
theorem State.ctx?_setCtx_ne (s : State) (c p q : Nat) (x : Ctx) (h : q ≠ p) : (s.setCtx c p x).ctx? c q = s.ctx? c q := by
  simp [State.ctx?, State.setCtx, Tab.find?_set_ne _ _ _ _ h]
theorem State.ctx?_setCtx_core_ne (s : State) (c d p q : Nat) (x : Ctx) (h : d ≠ c) :
    (s.setCtx c p x).ctx? d q = s.ctx? d q := by simp [State.ctx?, State.setCtx, State.core_setCore_ne _ _ _ _ h]
@[simp] theorem State.ctx?_modDev (s : State) (f : Dev → Dev) (c p : Nat) : (s.modDev f).ctx? c p = s.ctx? c p := rfl
@[simp] theorem State.ctx?_takeFree (s : State) (n c p : Nat) : (s.takeFree n).ctx? c p = s.ctx? c p := rfl
@[simp] theorem State.ctx?_openBundle (s : State) (h : Option Header) (k : Nat) (e : Option (BitVec 7)) (c p : Nat) :
    (s.openBundle h k e).ctx? c p = s.ctx? c p := rfl
@[simp] theorem State.modCtx_of_ctx (s : State) (c p : Nat) (f : Ctx → Ctx) (x : Ctx) (h : s.ctx? c p = some x) :
    s.modCtx c p f = s.setCtx c p (f x) := by simp [State.modCtx, h]
@[simp] theorem State.ctx?_modCtx (s : State) (c p : Nat) (f : Ctx → Ctx) : (s.modCtx c p f).ctx? c p = (s.ctx? c p).map f := by
  cases h : s.ctx? c p <;> simp [State.modCtx, h]
@[simp] theorem State.setCtx_setCtx (s : State) (c p : Nat) (x y : Ctx) : (s.setCtx c p x).setCtx c p y = s.setCtx c p y := by
  simp [State.setCtx, State.setCore, State.core, Tab.get]

/-! The focus. -/

@[simp] theorem State.fc_mk (a b : Nat) (q : Nat × Nat) (o : Option OpenBundle) (g : List Move) (cs : Tab Core) (d e : Die)
    (v : Dev) : (State.mk a b q o g cs d e v).fc = q.1 := rfl
@[simp] theorem State.fp_mk (a b : Nat) (q : Nat × Nat) (o : Option OpenBundle) (g : List Move) (cs : Tab Core) (d e : Die)
    (v : Dev) : (State.mk a b q o g cs d e v).fp = q.2 := rfl

/-- The context at the focus is what fctx answers. -/
theorem State.fctx_of (s : State) (x : Ctx) (h : s.fctx? = some x) : s.fctx = x := by simp [State.fctx, h]

@[simp] theorem Ctx.gotAcc_arch (x : Ctx) (n : Nat) (v : Word) : (x.gotAcc n v).arch = x.arch := rfl
@[simp] theorem Ctx.gotAcc_flights (x : Ctx) (n : Nat) (v : Word) : (x.gotAcc n v).flights = x.flights := rfl
@[simp] theorem Ctx.gotAcc_gate (x : Ctx) (n : Nat) (v : Word) : (x.gotAcc n v).gate = x.gate := rfl
@[simp] theorem Ctx.gotAcc_nextId (x : Ctx) (n : Nat) (v : Word) : (x.gotAcc n v).nextId = x.nextId := rfl
@[simp] theorem State.winWrite_cores (s : State) (o : Nat) (v : Word) : (s.winWrite o v).cores = s.cores := rfl
@[simp] theorem State.winWrite_dev (s : State) (o : Nat) (v : Word) : (s.winWrite o v).dev = s.dev := rfl
@[simp] theorem Core.passTurn_ctxs (ps : List Nat) (k : Core) : (k.passTurn ps).ctxs = k.ctxs := by unfold Core.passTurn; split <;> rfl
@[simp] theorem Core.passTurn_sp (ps : List Nat) (k : Core) : (k.passTurn ps).sp = k.sp := by unfold Core.passTurn; split <;> rfl
@[simp] theorem Core.unflush_sp (k : Core) (n : Nat) : (k.unflush n).sp = k.sp := rfl
@[simp] theorem Core.unflush_ctxs (k : Core) (n : Nat) : (k.unflush n).ctxs = k.ctxs := rfl

/-- Performing an access does nothing, or what the access asks for, where it may be performed (08 R265, R266, R269). -/
theorem State.performAcc_cases (s : State) (x : Ctx) (n : Nat) :
    s.performAcc x n = (s, x) ∨
      ∃ a, x.acc.find? (fun a => a.id == n) = some a ∧ s.mayDo x a = true ∧ s.performAcc x n = s.effectOf x a := by
  unfold State.performAcc
  split
  · exact .inl rfl
  · rename_i a h
    cases hm : s.mayDo x a
    · exact .inl (by simp)
    · exact .inr ⟨a, h, hm, by simp⟩

end Sys2Proof.Machine
end

