-- ==== Sys2Proof/Laws/Commit.lean ====
section
/-! SUPPORT. What a slot operation given to exec by itself does: the lemmas that take runSlot through its checks and its
commit, so that a completion needs the operation's plan alone. -/

namespace Sys2Proof.Machine

/-- Two states of one core that differ at most in the matrix unit and in how the core takes its turns and cycles. -/
structure Core.Alike (k q : Core) : Prop where
  pools : q.spool = k.spool ∧ q.vpool = k.vpool
  scratch : q.sp = k.sp ∧ q.undef = k.undef ∧ q.owner = k.owner ∧ q.bankFmt = k.bankFmt ∧ q.tiles = k.tiles ∧
    q.readyBits = k.readyBits ∧ q.arrived = k.arrived
  engines : q.rings = k.rings ∧ q.cmds = k.cmds
  specials : q.slotmask = k.slotmask ∧ q.skew = k.skew ∧ q.tvec = k.tvec ∧ q.watchdog = k.watchdog

theorem Core.Alike.refl (k : Core) : Core.Alike k k :=
  ⟨⟨rfl, rfl⟩, ⟨rfl, rfl, rfl, rfl, rfl, rfl, rfl⟩, ⟨rfl, rfl⟩, ⟨rfl, rfl, rfl, rfl⟩⟩

theorem Core.Alike.trans {k q r : Core} (h : Core.Alike k q) (g : Core.Alike q r) : Core.Alike k r := by
  obtain ⟨⟨a1, a2⟩, ⟨b1, b2, b3, b4, b5, b6, b7⟩, ⟨c1, c2⟩, d1, d2, d3, d4⟩ := h
  obtain ⟨⟨e1, e2⟩, ⟨f1, f2, f3, f4, f5, f6, f7⟩, ⟨g1, g2⟩, i1, i2, i3, i4⟩ := g
  exact ⟨⟨e1.trans a1, e2.trans a2⟩,
    ⟨f1.trans b1, f2.trans b2, f3.trans b3, f4.trans b4, f5.trans b5, f6.trans b6, f7.trans b7⟩,
    ⟨g1.trans c1, g2.trans c2⟩, i1.trans d1, i2.trans d2, i3.trans d3, i4.trans d4⟩

/-- t is s but for the context at the focus, which is y, the matrix unit, which is m, and the core's turns and cycles. -/
structure Near (s t : State) (y : Ctx) (m : MatUnit) : Prop where
  cycle : t.cycle = s.cycle
  focus : t.focus = s.focus
  bundle : t.bundle = none
  agenda : t.agenda = s.agenda
  die0 : t.die0 = s.die0
  die1 : t.die1 = s.die1
  dev : t.dev = s.dev
  otherCores : ∀ c, c ≠ s.fc → Tab.find? t.cores c = Tab.find? s.cores c
  otherPlaces : ∀ p, p ≠ s.fp → t.ctx? s.fc p = s.ctx? s.fc p
  core : Core.Alike (s.core s.fc) (t.core s.fc)
  ctx : t.ctx? s.fc s.fp = some y
  mat : (t.core s.fc).mat = m

theorem Near.fc {s t y m} (h : Near s t y m) : t.fc = s.fc := by simp [State.fc, h.focus]
theorem Near.fp {s t y m} (h : Near s t y m) : t.fp = s.fp := by simp [State.fp, h.focus]
theorem Near.fctx? {s t y m} (h : Near s t y m) : t.fctx? = some y := by simp [State.fctx?, h.fc, h.fp, h.ctx]
theorem Near.fctx {s t y m} (h : Near s t y m) : t.fctx = y := by simp [State.fctx, h.fctx?]

/-- A state is near itself. -/
theorem Near.start (s : State) (x : Ctx) (hb : s.bundle = none) (hx : s.fctx? = some x) : Near s s x s.fcore.mat :=
  { cycle := rfl, focus := rfl, bundle := hb, agenda := rfl, die0 := rfl, die1 := rfl, dev := rfl,
    otherCores := fun _ _ => rfl, otherPlaces := fun _ _ => rfl, core := .refl _, ctx := hx, mat := rfl }

/-- The context at the focus changed. -/
theorem Near.setCtx {s t y m} (h : Near s t y m) (z : Ctx) : Near s (t.setCtx s.fc s.fp z) z m :=
  { cycle := h.cycle, focus := h.focus, bundle := h.bundle, agenda := h.agenda, die0 := h.die0, die1 := h.die1,
    dev := h.dev,
    otherCores := fun c hc => by
      simp [State.setCtx, State.setCore, Tab.find?_set_ne _ _ _ _ hc, h.otherCores c hc]
    otherPlaces := fun p hp => by
      have := h.otherPlaces p hp
      simp only [State.ctx?] at this
      simp [State.ctx?, State.setCtx, Tab.find?_set_ne _ _ _ _ hp, this]
    core := by
      have e : (t.setCtx s.fc s.fp z).core s.fc = { t.core s.fc with ctxs := Tab.set (t.core s.fc).ctxs s.fp z } := by
        simp [State.setCtx]
      rw [e]
      exact h.core.trans ⟨⟨rfl, rfl⟩, ⟨rfl, rfl, rfl, rfl, rfl, rfl, rfl⟩, ⟨rfl, rfl⟩, ⟨rfl, rfl, rfl, rfl⟩⟩
    ctx := by simp
    mat := by simp [State.setCtx, h.mat] }

/-- The context at the focus changed. -/
theorem Near.modCtx {s t y m} (h : Near s t y m) (f : Ctx → Ctx) : Near s (t.modCtx s.fc s.fp f) (f y) m := by
  simp only [State.modCtx, h.ctx]
  exact h.setCtx _

/-- The core at the focus changed in a way that leaves its state alike. -/
theorem Near.modCore {s t y m} (h : Near s t y m) (f : Core → Core) (hf : ∀ k, Core.Alike k (f k))
    (hc : ∀ k, (f k).ctxs = k.ctxs) : Near s (t.modCore s.fc f) y (f (t.core s.fc)).mat :=
  { cycle := h.cycle, focus := h.focus, bundle := h.bundle, agenda := h.agenda, die0 := h.die0, die1 := h.die1,
    dev := h.dev,
    otherCores := fun c e => by
      simp [State.modCore, State.setCore, Tab.find?_set_ne _ _ _ _ e, h.otherCores c e]
    otherPlaces := fun p hp => by
      have := h.otherPlaces p hp
      simp only [State.ctx?] at this
      simp [State.ctx?, hc, this]
    core := by simpa using h.core.trans (hf _)
    ctx := by
      have := h.ctx
      simp only [State.ctx?] at this
      simp [State.ctx?, hc, this]
    mat := by simp }

/-- The same, the matrix unit untouched. -/
theorem Near.modCore' {s t y m} (h : Near s t y m) (f : Core → Core) (hf : ∀ k, Core.Alike k (f k))
    (hc : ∀ k, (f k).ctxs = k.ctxs) (hm : ∀ k, (f k).mat = k.mat) : Near s (t.modCore s.fc f) y m := by
  have := h.modCore f hf hc
  rwa [hm, h.mat] at this

theorem Near.free {s t y m} (h : Near s t y m) (n : Nat) : Near s { t with free := n } y m := by
  obtain ⟨a, b, c, d, e, f, g, i, j, k, l, o⟩ := h
  exact ⟨a, b, c, d, e, f, g, i, j, k, l, o⟩

/-- Near states make one issue step. -/
theorem Near.stepped {s t y m x} (h : Near s t y m) (hs : OneStep x y) : Stepped s t x y :=
  { around :=
      { cycle := h.cycle, focus := h.focus, agenda := h.agenda, die0 := h.die0, die1 := h.die1, dev := h.dev,
        otherCores := h.otherCores, otherPlaces := h.otherPlaces,
        pools := by simpa [State.fcore, h.fc] using h.core.pools,
        scratch := by simpa [State.fcore, h.fc] using h.core.scratch,
        engines := by simpa [State.fcore, h.fc] using h.core.engines,
        specials := by simpa [State.fcore, h.fc] using h.core.specials }
    bundle := h.bundle, ctx := h.fctx?, step := hs }

/-! The effects of a slot on its context and on the matrix unit. -/

/-- A result in flight. -/
def Ctx.addFlight (x : Ctx) (lat : Nat) (v : FlightVal) : Ctx :=
  { x with
    flights := x.flights ++ [{ due := x.stepNo + lat, lvl := x.arch.lvl, ord := x.ord, val := v }], ord := x.ord + 1 }

/-- What an act does to its context as a bundle starts. -/
def Ctx.began (x : Ctx) : Act → Ctx
  | .result lat v => x.addFlight lat v
  | .link v => x.addFlight 1 (.scalar 63 v)
  | .load kind reg va pa len zext win =>
    Ctx.addFlight
      { x with
        acc := x.acc ++ [{ id := x.nextId, ord := x.nextId, kind := kind, va := va, pa := pa, len := len, zext := zext,
                           bytes := [], fwd := (List.range len).map fun i => gateGlobal x.gate (pa + i), got := none,
                           win := win, acq := false, rel := false, atom := none }],
        nextId := x.nextId + 1 } 24 (.load reg x.nextId none)
  | .mat _ _ => { x with ord := x.ord + 1 }
  | .rngs v => { x with arch := { x.arch with rngs := v } }
  | .vjoin => { x with gate := x.gate.map fun e => match e with | .sp bs _ => .sp bs true | e => e, views := [] }
  | .viewBad ea => if bit x.ctl 3 then x.pend .viewAlign (BitVec.ofNat 64 ea) else x
  | .tlbConflict va => x.pend .tlbConflict (BitVec.ofNat 64 va)
  | _ => x

/-- What an act of the context x does to the matrix unit. -/
def MatUnit.began (m : MatUnit) (x : Ctx) : Act → MatUnit
  | .mat lat op => { m with pend := m.pend ++ [{ due := x.stepNo + lat, lvl := x.arch.lvl, ord := x.ord, op := op }] }
  | _ => m

/-- A release store. -/
def GateEnt.rel : GateEnt → Bool
  | .gl _ _ _ r _ | .win _ _ r => r
  | _ => false

/-- The context with an entry added to its gated store buffer. -/
def Ctx.addGate (rel : Bool) (x : Ctx) : Act → Ctx
  | .gate e => if e.rel = rel then { x with gate := x.gate ++ [e] } else x
  | _ => x

/-- A special-register write of a context's own. -/
def Ctx.csrDone (x : Ctx) : Act → Ctx
  | .csr n v => { x with arch := x.arch.csrPut x.dueFlags n v }
  | _ => x

/-- The acts that touch their context and the matrix unit alone. -/
def Act.plain : Act → Bool
  | .atomic _ _ _ _ _ _ _ | .tabdat _ | .winRead _ => false
  | .csr n _ => csrOwn n
  | _ => true

/-- The acts that follow no step: all but trap, eret, idle, end and yield. -/
def Act.still : Act → Bool
  | .trap _ | .eret | .idle | .retire | .yield => false
  | _ => true

/-- Acts as a bundle starts: first on the context, then on the matrix unit. -/
def begun : Ctx → MatUnit → List Act → Ctx × MatUnit
  | x, m, [] => (x, m)
  | x, m, a :: as => begun (x.began a) (m.began x a) as

theorem Near.addFlight {s t y m} (h : Near s t y m) (lat : Nat) (v : FlightVal) :
    Near s (t.addFlight lat v) (y.addFlight lat v) m := by
  unfold State.addFlight
  rw [h.fc, h.fp]
  exact h.modCtx (Ctx.addFlight · lat v)

theorem Near.addLoad {s t y m} (h : Near s t y m) (kind : AccKind) (reg va pa len : Nat) (zext win : Bool) :
    Near s (t.addLoad kind reg va pa len zext win) (y.began (.load kind reg va pa len zext win)) m := by
  unfold State.addLoad
  rw [h.fctx, h.fc, h.fp]
  exact (h.modCtx fun x =>
    { x with
      acc := x.acc ++ [{ id := y.nextId, ord := y.nextId, kind := kind, va := va, pa := pa, len := len, zext := zext,
                         bytes := [], fwd := (List.range len).map fun i => gateGlobal y.gate (pa + i), got := none,
                         win := win, acq := false, rel := false, atom := none }],
      nextId := x.nextId + 1 }).addFlight 24 (.load reg y.nextId none)

theorem Near.addMat {s t y m} (h : Near s t y m) (lat : Nat) (op : MatOp) :
    Near s (t.addMat lat op) (y.began (.mat lat op)) (m.began y (.mat lat op)) := by
  unfold State.addMat
  rw [h.fctx, h.fc, h.fp]
  have := (h.modCore (fun k => { k with mat := { k.mat with pend := k.mat.pend ++
    [{ due := y.stepNo + lat, lvl := y.arch.lvl, ord := y.ord, op := op }] } })
    (fun k => ⟨⟨rfl, rfl⟩, ⟨rfl, rfl, rfl, rfl, rfl, rfl, rfl⟩, ⟨rfl, rfl⟩, ⟨rfl, rfl, rfl, rfl⟩⟩) (fun _ => rfl)).modCtx
    (fun x => { x with ord := x.ord + 1 })
  rw [h.mat] at this
  exact this

theorem Near.pend {s t y m} (h : Near s t y m) (c : Cause) (w : Word) : Near s (t.pend s.fc s.fp c w) (y.pend c w) m :=
  h.modCtx (Ctx.pend · c w)

theorem Near.viewBad {s t y m} (h : Near s t y m) (ea : Nat) :
    Near s (t.actStart (.viewBad ea)) (y.began (.viewBad ea)) m := by
  show Near s (if bit t.fctx.ctl 3 then t.pend t.fc t.fp .viewAlign (BitVec.ofNat 64 ea) else t)
    (if bit y.ctl 3 then y.pend .viewAlign (BitVec.ofNat 64 ea) else y) m
  rw [h.fctx, h.fc, h.fp]
  split
  · exact h.pend _ _
  · exact h

theorem Near.ownCtx {s t y m} (h : Near s t y m) (f : Ctx → Ctx) : Near s (t.modCtx t.fc t.fp f) (f y) m := by
  rw [h.fc, h.fp]; exact h.modCtx f

theorem Near.actStart {s t y m} (h : Near s t y m) (a : Act) (ha : a.plain = true) :
    Near s (t.actStart a) (y.began a) (m.began y a) := by
  cases a with
  | result lat v => exact h.addFlight lat v
  | link v => exact h.addFlight 1 (.scalar 63 v)
  | load kind reg va pa len zext win => exact h.addLoad kind reg va pa len zext win
  | mat lat op => exact h.addMat lat op
  | rngs v => exact h.ownCtx (Ctx.began · (.rngs v))
  | vjoin => exact h.ownCtx (Ctx.began · .vjoin)
  | viewBad ea => exact h.viewBad ea
  | tlbConflict va => exact h.ownCtx (Ctx.began · (.tlbConflict va))
  | atomic _ _ _ _ _ _ _ => cases ha
  | winRead _ => cases ha
  | _ => exact h

theorem Near.actsStart {s t y m} (h : Near s t y m) (acts : List Act) (ha : ∀ a ∈ acts, a.plain = true) :
    Near s (acts.foldl State.actStart t) (begun y m acts).1 (begun y m acts).2 := by
  induction acts generalizing t y m with
  | nil => exact h
  | cons a as ih =>
    exact ih (h.actStart a (ha a (List.mem_cons_self ..))) fun b hb => ha b (List.mem_cons_of_mem _ hb)

theorem Near.actGate {s t y m} (h : Near s t y m) (rel : Bool) (a : Act) :
    Near s (t.actGate rel a) (y.addGate rel a) m := by
  cases a with
  | gate e =>
    by_cases hr : e.rel = rel
    · have e1 : t.actGate rel (.gate e) = t.modCtx s.fc s.fp fun x => { x with gate := x.gate ++ [e] } := by
        rw [← h.fc, ← h.fp]; cases e <;> simp_all [State.actGate, GateEnt.rel]
      have e2 : y.addGate rel (.gate e) = { y with gate := y.gate ++ [e] } := by simp only [Ctx.addGate, hr, if_true]
      rw [e1, e2]; exact h.modCtx _
    · have e1 : t.actGate rel (.gate e) = t := by cases e <;> simp_all [State.actGate, GateEnt.rel]
      have e2 : y.addGate rel (.gate e) = y := by simp only [Ctx.addGate, hr, if_false]
      rw [e1, e2]; exact h
  | _ => exact h

theorem Near.actsGate {s t y m} (h : Near s t y m) (rel : Bool) (acts : List Act) :
    Near s (acts.foldl (State.actGate rel) t) (acts.foldl (Ctx.addGate rel) y) m := by
  induction acts generalizing t y with
  | nil => exact h
  | cons a as ih => exact ih (h.actGate rel a)

theorem csrPut_alike (k : Core) (n : Nat) (v : Word) (h : csrOwn n = true) : k.csrPut n v = k := by
  simp only [csrOwn, Bool.and_eq_true, bne_iff_ne, ne_eq] at h
  unfold Core.csrPut
  split <;> simp_all

theorem Near.actsCsr {s t y m} (h : Near s t y m) (acts : List Act) (ha : ∀ a ∈ acts, a.plain = true) :
    Near s (acts.foldl State.actCsr t) (acts.foldl Ctx.csrDone y) m := by
  induction acts generalizing t y with
  | nil => exact h
  | cons a as ih =>
    have ha' : ∀ b ∈ as, b.plain = true := fun b hb => ha b (List.mem_cons_of_mem _ hb)
    have hp := ha a (List.mem_cons_self ..)
    refine ih ?_ ha'
    cases a with
    | csr n v =>
      simp only [Act.plain] at hp
      have h8 : n ≠ 0x808 := by intro e; subst e; simp [csrOwn] at hp
      simp only [State.actCsr, State.csrPut, h8, if_false, h.fc, h.fp]
      have e : ∀ k : Core, k.csrPut n v = k := fun k => csrPut_alike k n v hp
      exact (h.modCore' _ (fun k => (e k).symm ▸ .refl k) (fun k => congrArg _ (e k)) (fun k => congrArg _ (e k))).modCtx _
    | tabdat _ => simp [Act.plain] at hp
    | _ => exact h

/-! What a commit leaves of its context. -/

/-- A context that differs at most in its registers, its results, its gated stores and accesses, and in more pending traps. -/
structure Ctx.Alike (x y : Ctx) : Prop where
  stepNo : y.stepNo = x.stepNo
  place : y.gang = x.gang ∧ y.banks = x.banks ∧ y.rings = x.rings ∧ y.sBase = x.sBase ∧ y.sCount = x.sCount ∧
    y.vBase = x.vBase ∧ y.vCount = x.vCount ∧ y.aBase = x.aBase ∧ y.aCount = x.aCount
  kept : y.regions = x.regions ∧ y.mark = x.mark ∧ y.cmds = x.cmds ∧ y.barSent = x.barSent ∧ y.ctl = x.ctl ∧
    y.bpaddr = x.bpaddr ∧ y.tcmp = x.tcmp
  pends : x.pends <+: y.pends

/-- What Alike compares. -/
def Ctx.alikeKey (x : Ctx) :=
  (x.stepNo, (x.gang, x.banks, x.rings, x.sBase, x.sCount, x.vBase, x.vCount, x.aBase, x.aCount),
    (x.regions, x.mark, x.cmds, x.barSent, x.ctl, x.bpaddr, x.tcmp), x.pends)

theorem Ctx.Alike.of {x y : Ctx} (h : y.alikeKey = x.alikeKey) : Ctx.Alike x y := by
  simp only [Ctx.alikeKey, Prod.mk.injEq] at h
  obtain ⟨a, b, c, d⟩ := h
  exact ⟨a, b, c, d ▸ List.prefix_refl _⟩

theorem Ctx.Alike.refl (x : Ctx) : Ctx.Alike x x :=
  ⟨rfl, ⟨rfl, rfl, rfl, rfl, rfl, rfl, rfl, rfl, rfl⟩, ⟨rfl, rfl, rfl, rfl, rfl, rfl, rfl⟩, List.prefix_refl _⟩

theorem Ctx.Alike.trans {x y z : Ctx} (h : Ctx.Alike x y) (g : Ctx.Alike y z) : Ctx.Alike x z := by
  obtain ⟨a, ⟨b1, b2, b3, b4, b5, b6, b7, b8, b9⟩, ⟨c1, c2, c3, c4, c5, c6, c7⟩, d⟩ := h
  obtain ⟨a', ⟨b1', b2', b3', b4', b5', b6', b7', b8', b9'⟩, ⟨c1', c2', c3', c4', c5', c6', c7'⟩, d'⟩ := g
  exact ⟨a'.trans a, ⟨b1'.trans b1, b2'.trans b2, b3'.trans b3, b4'.trans b4, b5'.trans b5, b6'.trans b6, b7'.trans b7,
    b8'.trans b8, b9'.trans b9⟩, ⟨c1'.trans c1, c2'.trans c2, c3'.trans c3, c4'.trans c4, c5'.trans c5, c6'.trans c6,
    c7'.trans c7⟩, d.trans d'⟩

/-- The parts of a context that a pending trap leaves alone, and those a close of the retry window does. -/
structure Ctx.Same (x y : Ctx) : Prop where
  alike : Ctx.Alike x y
  arch : y.arch = x.arch
  flights : y.flights = x.flights
  gate : y.gate = x.gate
  acc : y.acc = x.acc
  run : y.run = x.run
  views : y.views = x.views

theorem Ctx.Same.refl (x : Ctx) : Ctx.Same x x := ⟨.refl x, rfl, rfl, rfl, rfl, rfl, rfl⟩

theorem Ctx.Same.trans {x y z : Ctx} (h : Ctx.Same x y) (g : Ctx.Same y z) : Ctx.Same x z :=
  ⟨h.alike.trans g.alike, g.arch.trans h.arch, g.flights.trans h.flights, g.gate.trans h.gate, g.acc.trans h.acc,
    g.run.trans h.run, g.views.trans h.views⟩

/-- A trap made pending changes nothing else; it joins the others, HOST_EVENT apart (10 R313, R333). -/
theorem Ctx.same_pend (x : Ctx) (c : Cause) (w : Word) (hc : c ≠ .hostEvent) : Ctx.Same x (x.pend c w) := by
  simp only [Ctx.pend, hc, false_and, if_false]
  exact ⟨⟨rfl, ⟨rfl, rfl, rfl, rfl, rfl, rfl, rfl, rfl, rfl⟩, ⟨rfl, rfl, rfl, rfl, rfl, rfl, rfl⟩,
    List.prefix_append _ _⟩, rfl, rfl, rfl, rfl, rfl, rfl⟩

theorem Ctx.alike_began (x : Ctx) (a : Act) : Ctx.Alike x (x.began a) := by
  cases a with
  | viewBad ea =>
    show Ctx.Alike x (if bit x.ctl 3 then x.pend .viewAlign (BitVec.ofNat 64 ea) else x)
    split
    · exact (x.same_pend _ _ (by decide)).alike
    · exact .refl x
  | tlbConflict va => exact (x.same_pend _ _ (by decide)).alike
  | _ => exact .of rfl

theorem Ctx.alike_begun (x : Ctx) (m : MatUnit) (acts : List Act) : Ctx.Alike x (begun x m acts).1 := by
  induction acts generalizing x m with
  | nil => exact .refl x
  | cons a as ih => exact (x.alike_began a).trans (ih _ _)

theorem Ctx.alike_addGate (rel : Bool) (x : Ctx) (acts : List Act) : Ctx.Alike x (acts.foldl (Ctx.addGate rel) x) := by
  induction acts generalizing x with
  | nil => exact .refl x
  | cons a as ih =>
    refine Ctx.Alike.trans ?_ (ih _)
    cases a with
    | gate e =>
      simp only [Ctx.addGate]
      split <;> exact .of rfl
    | _ => exact .refl x

theorem Ctx.alike_csrDone (x : Ctx) (acts : List Act) : Ctx.Alike x (acts.foldl Ctx.csrDone x) := by
  induction acts generalizing x with
  | nil => exact .refl x
  | cons a as ih =>
    refine Ctx.Alike.trans ?_ (ih _)
    cases a <;> exact .of rfl

/-- The context after its acts and before its step. -/
def Ctx.acted (x : Ctx) (m : MatUnit) (acts : List Act) : Ctx :=
  acts.foldl Ctx.csrDone (acts.foldl (Ctx.addGate true) (acts.foldl (Ctx.addGate false) (begun x m acts).1))

theorem Ctx.alike_acted (x : Ctx) (m : MatUnit) (acts : List Act) : Ctx.Alike x (x.acted m acts) :=
  (((Ctx.alike_begun x m acts).trans (Ctx.alike_addGate false _ acts)).trans (Ctx.alike_addGate true _ acts)).trans
    (Ctx.alike_csrDone _ acts)

/-- y is the context x, ready, after one step with the transfer t. -/
structure Ctx.Moved (x y : Ctx) (t : Option Xfer) : Prop where
  stepNo : y.stepNo = x.stepNo + 1
  arch : y.arch = x.arch.move t
  flights : y.flights = x.flights
  gate : y.gate = x.gate
  acc : y.acc = x.acc
  run : y.run = x.run
  views : y.views = x.views
  alike : Ctx.Alike { x with stepNo := x.stepNo + 1 } y

theorem Ctx.Moved.same {x y z : Ctx} {t} (h : Ctx.Moved x y t) (g : Ctx.Same y z) : Ctx.Moved x z t :=
  ⟨g.alike.stepNo.trans h.stepNo, g.arch.trans h.arch, g.flights.trans h.flights, g.gate.trans h.gate,
    g.acc.trans h.acc, g.run.trans h.run, g.views.trans h.views, h.alike.trans g.alike⟩

/-- One issue step of the context at the focus. -/
theorem Near.advance {s t y m} (h : Near s t y m) (xf : Option Xfer) :
    ∃ z, Near s (t.advance s.fc s.fp xf) z m ∧ Ctx.Moved y z xf := by
  let x' : Ctx := { y with arch := y.arch.move xf, stepNo := y.stepNo + 1, dueFlags := 0, stalls := 0, inUnit := false }
  let x'' := if bit y.ctl 0 && y.debuggable then x'.pend .step (BitVec.ofNat 64 (y.arch.pc.addr.toNat * 16)) else x'
  have hm : Ctx.Moved y x' xf := ⟨rfl, rfl, rfl, rfl, rfl, rfl, rfl, .of rfl⟩
  have hs : Ctx.Same x' x'' := by
    show Ctx.Same x' (if _ then _ else _)
    split
    · exact Ctx.same_pend _ _ _ (by decide)
    · exact .refl _
  have e : t.advance s.fc s.fp xf = (t.setCtx s.fc s.fp { x'' with quantumSteps := y.quantumSteps + 1 }).modCore s.fc
      fun k => if y.arch.inHandler then k else { k with turnSteps := k.turnSteps + 1 } := by
    unfold State.advance; rw [h.ctx]
  refine ⟨{ x'' with quantumSteps := y.quantumSteps + 1 }, ?_, (hm.same hs).same ⟨.of rfl, rfl, rfl, rfl, rfl, rfl, rfl⟩⟩
  rw [e]
  refine (h.setCtx _).modCore' _ ?_ ?_ ?_ <;> intro k <;> by_cases hh : y.arch.inHandler = true
  all_goals simp only [hh, if_true, if_false, Bool.false_eq_true]
  · exact .refl k
  · exact ⟨⟨rfl, rfl⟩, ⟨rfl, rfl, rfl, rfl, rfl, rfl, rfl⟩, ⟨rfl, rfl⟩, ⟨rfl, rfl, rfl, rfl⟩⟩

/-- The close of a retry window leaves the context the same (10 R321, R323). -/
theorem Near.closeWindow {s t y m} (h : Near s t y m) :
    ∃ z, Near s (t.closeWindow s.fc s.fp) z m ∧ Ctx.Same y z := by
  unfold State.closeWindow
  rw [h.ctx]
  cases hw : y.window with
  | none => simp only [hw]; exact ⟨y, h, .refl y⟩
  | some w =>
    simp only [hw]
    split
    · have h1 := h.setCtx { y with window := none }
      have s1 : Ctx.Same y { y with window := none } := ⟨.of rfl, rfl, rfl, rfl, rfl, rfl, rfl⟩
      unfold State.countTransient
      simp only
      have h2 := h1.modCore' (fun k => { k with transients := (t.setCtx s.fc s.fp { y with window := none }).cycle ::
          (t.setCtx s.fc s.fp { y with window := none }).transients s.fc })
        (fun k => ⟨⟨rfl, rfl⟩, ⟨rfl, rfl, rfl, rfl, rfl, rfl, rfl⟩, ⟨rfl, rfl⟩, ⟨rfl, rfl, rfl, rfl⟩⟩) (fun _ => rfl)
        (fun _ => rfl)
      split
      · exact ⟨_, h2.pend _ _, s1.trans (Ctx.same_pend _ _ _ (by decide))⟩
      · exact ⟨_, h2, s1⟩
    · exact ⟨y, h, .refl y⟩

theorem actsAfter_still (acts : List Act) (h : ∀ a ∈ acts, a.still = true) (s : State) : acts.foldl State.actAfter s = s := by
  induction acts generalizing s with
  | nil => rfl
  | cons a as ih =>
    have ha := h a (List.mem_cons_self ..)
    have e : s.actAfter a = s := by cases a <;> first | rfl | cases ha
    rw [List.foldl_cons, e]
    exact ih (fun b hb => h b (List.mem_cons_of_mem _ hb)) s

theorem Core.unfreeze_alike (k : Core) (p : Nat) : Core.Alike k (k.unfreeze p) := by
  unfold Core.unfreeze
  split
  · split
    · exact ⟨⟨rfl, rfl⟩, ⟨rfl, rfl, rfl, rfl, rfl, rfl, rfl⟩, ⟨rfl, rfl⟩, ⟨rfl, rfl, rfl, rfl⟩⟩
    · exact .refl k
  · exact .refl k
theorem Core.unfreeze_ctxs (k : Core) (p : Nat) : (k.unfreeze p).ctxs = k.ctxs := by
  unfold Core.unfreeze; split <;> (try split) <;> rfl
theorem Core.unfreeze_mat (k : Core) (p : Nat) : (k.unfreeze p).mat = k.mat := by
  unfold Core.unfreeze; split <;> (try split) <;> rfl

/-- A bundle's slots all run in its first cycle, or it has no handoff and nothing follows its step: how its core splits it then
makes no difference (13 R403). -/
def OpenBundle.Whole (s : State) (b : OpenBundle) (acts : List Act) : Prop :=
  (subTake (fld s.fcore.slotmask 2 0) s.cycle b.subSlots).2 = [] ∨
    (b.publishes = false ∧ b.remarks = false ∧ ∀ a ∈ acts, a.still = true)

/-- A bundle whose acts so far lead near a state B commits: one step of its context to a state s2 near B, and then its stores
published, its handoffs and the second mark where it has any, and what follows the step (01 R49; 07 R209). -/
theorem Near.commit_tail {B s y m} (hf : B.focus = s.focus) (b : OpenBundle) (acts : List Act) (hpre : b.pre = [])
    (ha : (b.staged.flatMap fun t => t.plan.acts) = acts) (hw : b.Whole s acts)
    (h1 : Near B (acts.foldl State.actCsr (acts.foldl (State.actGate true) (acts.foldl (State.actGate false)
      (acts.foldl State.actStart s)))) y m) :
    ∃ s2 z, Near B s2 z m ∧ Ctx.Moved { y with run := .ready } z (xferOf acts) ∧
      s.commit b =
        acts.foldl State.actAfter
          (let s3 := (if b.publishes then acts.foldl State.actHandoff (s2.publishGate s.fc s.fp) else s2).closeWindow s.fc s.fp
            if b.remarks then s3.takeMark s.fc s.fp else s3) := by
  have hc : B.fc = s.fc := congrArg Prod.fst hf
  have hp : B.fp = s.fp := congrArg Prod.snd hf
  generalize hsub : subTake (fld s.fcore.slotmask 2 0) s.cycle b.subSlots = subs
  let A := acts.foldl State.actCsr (acts.foldl (State.actGate true) (acts.foldl (State.actGate false) (acts.foldl State.actStart s)))
  let C := (A.modCtx s.fc s.fp fun x => { x with run := .ready, walks := [], loaded := [], fillBad := [] }).modCore s.fc fun k =>
    { (k.unfreeze s.fp).noteCycle A.cycle subs.1 with busy := A.cycle + 1, split := b.rest s.fp acts subs.1 subs.2 }
  have h3 : Near B C { y with run := .ready, walks := [], loaded := [], fillBad := [] } m := by
    have h2 := h1.modCtx fun x => { x with run := .ready, walks := [], loaded := [], fillBad := [] }
    have h := h2.modCore' (fun k =>
        { (k.unfreeze B.fp).noteCycle A.cycle subs.1 with busy := A.cycle + 1, split := b.rest s.fp acts subs.1 subs.2 })
      (fun k => (k.unfreeze_alike B.fp).trans
        ⟨⟨rfl, rfl⟩, ⟨rfl, rfl, rfl, rfl, rfl, rfl, rfl⟩, ⟨rfl, rfl⟩, ⟨rfl, rfl, rfl, rfl⟩⟩)
      (fun k => k.unfreeze_ctxs B.fp) (fun k => k.unfreeze_mat B.fp)
    rw [hc, hp] at h
    exact h
  obtain ⟨y4, h4, m4⟩ := h3.advance (xferOf acts)
  rw [hc, hp] at h4
  let D : State := { C.advance s.fc s.fp (xferOf acts) with free := C.free + 1 }
  have h5 : Near B D y4 m := h4.free _
  have e : s.commit b =
      (let t := D.handOver s.fc s.fp (b.publishes && (subs.2.isEmpty || subs.1.any SubSlot.handoff))
        (if subs.2.isEmpty then acts else subs.1.flatMap SubSlot.acts)
      let t := t.closeWindow s.fc s.fp
      if subs.2.isEmpty then t.endBundle s.fc s.fp b.remarks acts else t) := by
    unfold State.commit
    simp only [ha, hpre, List.nil_append, hsub]
    rfl
  refine ⟨D, y4, h5,
    ⟨m4.stepNo, m4.arch, m4.flights, m4.gate, m4.acc, m4.run, m4.views, .trans (.of (by rfl)) m4.alike⟩, e.trans ?_⟩
  rcases hw with hw | ⟨hpub, hrem, hst⟩
  · rw [hsub] at hw
    simp only [hw, List.isEmpty_nil, Bool.true_or, Bool.and_true, if_true, State.handOver, State.endBundle]
  · simp only [hpub, hrem, Bool.false_and, State.handOver, State.endBundle, Bool.false_eq_true, if_false, actsAfter_still acts hst]
    split <;> rfl

/-- A bundle of plain acts commits. -/
theorem Near.commit {s x} (hb : s.bundle = none) (hx : s.fctx? = some x) (b : OpenBundle) (acts : List Act) (hpre : b.pre = [])
    (ha : (b.staged.flatMap fun t => t.plan.acts) = acts) (hw : b.Whole s acts) (hp : ∀ a ∈ acts, a.plain = true) :
    ∃ s2 y, Near s s2 y (begun x s.fcore.mat acts).2 ∧
      Ctx.Moved { x.acted s.fcore.mat acts with run := .ready } y (xferOf acts) ∧
      s.commit b =
        acts.foldl State.actAfter
          (let s3 := (if b.publishes then acts.foldl State.actHandoff (s2.publishGate s.fc s.fp) else s2).closeWindow s.fc s.fp
            if b.remarks then s3.takeMark s.fc s.fp else s3) :=
  Near.commit_tail rfl b acts hpre ha hw
    (((((Near.start s x hb hx).actsStart acts hp).actsGate false acts).actsGate true acts).actsCsr acts hp)

/-! The focus and the open bundle, which a mark leaves as they are. -/

/-- The focus and the open bundle of a state. -/
def State.shell (s : State) := (s.focus, s.bundle)

theorem State.shell_modCtx (s : State) (c p : Nat) (f : Ctx → Ctx) : (s.modCtx c p f).shell = s.shell := by
  simp [State.shell]
theorem State.shell_modDie (s : State) (d : Nat) (f : Die → Die) : (s.modDie d f).shell = s.shell := by
  simp [State.shell]

theorem foldl_shell {α : Type} (f : State → α → State) (h : ∀ s a, (f s a).shell = s.shell) (l : List α) (s : State) :
    (l.foldl f s).shell = s.shell := by
  induction l generalizing s with
  | nil => rfl
  | cons a l ih => rw [List.foldl_cons, ih, h]

theorem State.shell_writeScalar (s : State) (c p k : Nat) (v : Word) : (s.writeScalar c p k v).shell = s.shell := by
  unfold State.writeScalar; split <;> (try split) <;> (try split) <;> rfl
theorem State.shell_writeVector (s : State) (c p k : Nat) (a b : VData) (d e : VSide) :
    (s.writeVector c p k a b d e).shell = s.shell := by
  unfold State.writeVector; split <;> rfl
theorem State.shell_writeMask (s : State) (c p k : Nat) (v : VMask) : (s.writeMask c p k v).shell = s.shell := by
  unfold State.writeMask; split
  · rfl
  · exact State.shell_modCtx _ _ _ _
theorem State.shell_pend (s : State) (c p : Nat) (k : Cause) (w : Word) : (s.pend c p k w).shell = s.shell :=
  State.shell_modCtx _ _ _ _

theorem State.shell_applyFlight (s : State) (c p : Nat) (f : Flight) : (s.applyFlight c p f).shell = s.shell := by
  unfold State.applyFlight
  split
  · exact s.shell_writeScalar _ _ _ _
  · exact s.shell_writeVector _ _ _ _ _ _ _
  · exact s.shell_writeMask _ _ _ _
  · exact s.shell_modCtx _ _ _
  · exact s.shell_writeScalar _ _ _ _
  · rfl
  · exact s.shell_pend _ _ _ _
  · exact s.shell_modCtx _ _ _

theorem State.shell_applyDue (s : State) (c p : Nat) : (s.applyDue c p).shell = s.shell := by
  unfold State.applyDue
  split
  · rfl
  · simp only
    have h := fun (l : List Flight) (t : State) => foldl_shell (fun s f => s.applyFlight c p f) (fun s f => s.shell_applyFlight c p f) l t
    split
    · exact (h _ _)
    · exact (h _ _)

theorem State.shell_requestPage (s : State) (g : Nat) : (s.requestPage g).shell = s.shell := by
  unfold State.requestPage
  simp only
  split
  · rfl
  · split
    · exact State.shell_modDie _ _ _
    · exact State.shell_modDie _ _ _

theorem State.shell_holdStore (s : State) (h : HeldStore) (pin : Bool) : (s.holdStore h pin).shell = s.shell := by
  unfold State.holdStore
  simp only
  split
  · rfl
  · exact (State.shell_modDie _ _ _).trans (s.shell_requestPage _)

theorem State.shell_publishSp (s : State) (c p : Nat) (bs : List SpStore) (j : Bool) :
    (s.publishSp c p bs j).shell = s.shell := by
  unfold State.publishSp; split <;> rfl

theorem State.shell_publishGl (s : State) (c p va pa : Nat) (bs : List Byte) (rel : Bool) :
    (s.publishGl c p va pa bs rel).shell = s.shell := by
  unfold State.publishGl
  simp only
  split
  · exact (State.shell_modCtx _ _ _ _).trans (s.shell_holdStore _ _)
  · exact s.shell_modCtx _ _ _

theorem State.shell_publishEnt (s : State) (c p : Nat) (e : GateEnt) : (s.publishEnt c p e).shell = s.shell := by
  unfold State.publishEnt
  split
  · exact s.shell_publishSp _ _ _ _
  · exact s.shell_publishGl _ _ _ _ _ _
  · exact s.shell_modCtx _ _ _

theorem State.shell_windowLoad (s : State) (o : Nat) : (s.windowLoad o).2.shell = s.shell := by
  unfold State.windowLoad; simp only; split <;> rfl

theorem State.shell_effectOf (s : State) (x : Ctx) (a : Access) : (s.effectOf x a).1.shell = s.shell := by
  unfold State.effectOf
  split
  · split <;> rfl
  · split <;> rfl
  · cases h : a.atom with
    | none => rfl
    | some q => simp only [Option.map_some, Option.getD_some]; unfold State.atomPut; split <;> rfl
  · split
    · exact s.shell_windowLoad _
    · rfl

theorem State.shell_performAcc (s : State) (x : Ctx) (i : Nat) : (s.performAcc x i).1.shell = s.shell := by
  unfold State.performAcc
  split
  · rfl
  · split
    · exact s.shell_effectOf _ _
    · rfl

theorem State.shell_performOne (s : State) (c p i : Nat) : (s.performOne c p i).shell = s.shell := by
  unfold State.performOne
  split
  · rfl
  · exact s.shell_performAcc _ _

theorem State.shell_performAll (s : State) (c p : Nat) : (s.performAll c p).shell = s.shell := by
  unfold State.performAll
  split
  · rfl
  · exact foldl_shell _ (fun s (a : Access) => s.shell_performOne c p a.id) _ _

theorem State.shell_publishGate (s : State) (c p : Nat) : (s.publishGate c p).shell = s.shell := by
  unfold State.publishGate
  split
  · rfl
  · simp only
    have h := fun l => foldl_shell (fun s e => s.publishEnt c p e) (fun s e => s.shell_publishEnt c p e) l s
    split
    · exact (State.shell_performAll _ c p).trans ((State.shell_modCtx _ _ _ _).trans (h _))
    · exact (State.shell_modCtx _ _ _ _).trans (h _)

/-- A mark leaves the focus and the open bundle. -/
theorem State.shell_takeMark (s : State) (c p : Nat) : (s.takeMark c p).shell = s.shell :=
  (State.shell_modCtx _ _ _ _).trans ((State.shell_publishGate _ c p).trans (s.shell_applyDue c p))

theorem State.takeMark_bundle (s : State) (c p : Nat) : (s.takeMark c p).bundle = s.bundle :=
  congrArg Prod.snd (s.shell_takeMark c p)
theorem State.takeMark_focus (s : State) (c p : Nat) : (s.takeMark c p).focus = s.focus :=
  congrArg Prod.fst (s.shell_takeMark c p)

/-! A slot operation given to exec. -/

/-- In an open bundle a slot operation only takes its place. -/
theorem runSlot_open (i : Instr) (plan : State → SlotPlan) (s : State) (x : Ctx) (hx : s.fctx? = some x)
    (hb : s.bundle.isSome = true) : runSlot i plan s = .next (s.stage i (plan s)) := by
  obtain ⟨b, hb⟩ := Option.isSome_iff_exists.1 hb
  simp [runSlot, hx, hb]

/-- The state without its open bundle. -/
theorem State.close_eq (s : State) (hb : s.bundle = none) (o : Option OpenBundle) :
    { { s with bundle := o } with bundle := none } = s := by
  cases s; simp only [State.mk.injEq, true_and, and_true] at *; exact hb.symm

/-- The bundle of one operation, its plan in place. -/
def loneBundle (x : Ctx) (i : Instr) (p : SlotPlan) : OpenBundle :=
  { header := none, slot := homeSlotOf i.word, ext := none,
    staged := [{ slot := homeSlotOf i.word, word := i.word, instr := some i, bad := none, plan := p }],
    rngs := rngsAfter x.arch.rngs p.acts, pre := [] }

/-- A plan that nothing stops. -/
structure SlotPlan.Goes (p : SlotPlan) (x : Ctx) : Prop where
  early : p.early = none
  stall : bit x.arch.check 0 = true → p.stall = none
  fault : p.fault = none
  wait : p.wait = none
  block : p.block = none

theorem slotOf_goes (names reads : List RegRef) (acts : List Act) (x : Ctx) : (slotOf names reads acts).Goes x :=
  ⟨rfl, fun _ => rfl, rfl, rfl, rfl⟩

theorem Clear.early {x i p} (h : Clear x i p.names p.reads) (hg : SlotPlan.Goes p x) (k w : Nat) :
    Staged.early x { slot := k, word := w, instr := some i, bad := none, plan := p } = none := by
  have hd : (decide (x.arch.dc > 0) && (Option.map Instr.delayBarred (some i)).getD false) = false := by
    by_cases e : x.arch.dc > 0
    · simp [h.delay e]
    · simp [e]
  have hn : p.names.find? x.outside = none := by
    rw [List.find?_eq_none]; intro r hr; simp [h.allotted r hr]
  unfold Staged.early
  simp only [hg.early, hd, hn, Bool.false_eq_true, if_false]
  by_cases hc : bit x.arch.check 0 = true
  · simp [hc, h.settled hc, hg.stall hc]
  · simp [hc]

/-- A bundle of one operation overflows no gated store buffer that has a place left (04 R137). -/
theorem overflows_lone {x : Ctx} {i : Instr} {p : SlotPlan} (hr : Instr.gates i = false ∨ x.gate.length + 1 ≤ 16) (k w : Nat) :
    overflows x (loneBundle x i p) { slot := k, word := w, instr := some i, bad := none, plan := p } = false := by
  unfold overflows
  rcases hr with h | h
  · simp [Staged.gates, h]
  · have : ((loneBundle x i p).staged.filter fun u => u.gates && decide (u.slot ≤ k)).length ≤ 1 :=
      Nat.le_trans (List.length_filter_le _ _) (by simp [loneBundle])
    rw [Bool.and_eq_false_imp]
    intro _
    exact decide_eq_false (by simp only [Config.gateEntries]; omega)

/-- A bundle of one operation whose plan goes is committed. -/
theorem closeBundle_lone {s : State} {x i p} (hb : s.bundle = none) (hx : s.fctx? = some x) (hc : Clear x i p.names p.reads)
    (hg : SlotPlan.Goes p x) (hr : Instr.gates i = false ∨ x.gate.length + 1 ≤ 16) :
    ((s.openBundle none (homeSlotOf i.word) none).stage i p).closeBundle = s.commit (loneBundle x i p) := by
  have hf : s.fctx = x := s.fctx_of x hx
  have e : (s.openBundle none (homeSlotOf i.word) none).stage i p = { s with bundle := some (loneBundle x i p) } := by
    simp [State.stage, State.openBundle, loneBundle, hf]
  have hx' : ({ s with bundle := some (loneBundle x i p) } : State).fctx? = some x := hx
  rw [e]
  unfold State.closeBundle
  simp only [hx', s.close_eq hb]
  have h1 := hc.early hg (homeSlotOf i.word) i.word
  have h2 : (loneBundle x i p).faultOf x
      { slot := homeSlotOf i.word, word := i.word, instr := some i, bad := none, plan := p } = none := by
    unfold OpenBundle.faultOf
    rw [h1]
    simp only [hg.fault]
    rw [if_neg (by rw [overflows_lone hr]; decide)]
    simp [Staged.fillFault, hg.block]
  simp only [loneBundle] at h2 ⊢
  simp [h1, h2, Staged.ringWait, Staged.pendingWait, hg.fault, hg.wait, hg.block]

/-- A slot operation by itself, no handoff, whose plan goes: its bundle commits. -/
theorem runSlot_commits {s x i p} (plan : State → SlotPlan) (hb : s.bundle = none) (hx : s.fctx? = some x)
    (hh : i.handoff = false) (hplan : plan (s.openBundle none (homeSlotOf i.word) none) = p)
    (hc : Clear x i p.names p.reads) (hg : SlotPlan.Goes p x)
    (hr : Instr.gates i = false ∨ x.gate.length + 1 ≤ 16) :
    runSlot i plan s = .next (s.commit (loneBundle x i p)) := by
  rw [← closeBundle_lone hb hx hc hg hr, ← hplan]
  simp [runSlot, hx, hb, State.openLone, hh]

/-- A handoff by itself whose plan goes: a mark, and its bundle commits. -/
theorem runSlot_commits_marked {s x i p} (plan : State → SlotPlan) (hb : s.bundle = none) (h0 : s.fctx?.isSome = true)
    (hx : (s.takeMark s.fc s.fp).fctx? = some x) (hh : i.handoff = true)
    (hplan : plan ((s.takeMark s.fc s.fp).openBundle none (homeSlotOf i.word) none) = p)
    (hc : Clear x i p.names p.reads) (hg : SlotPlan.Goes p x)
    (hr : Instr.gates i = false ∨ x.gate.length + 1 ≤ 16) :
    runSlot i plan s = .next ((s.takeMark s.fc s.fp).commit (loneBundle x i p)) := by
  obtain ⟨x0, h0⟩ := Option.isSome_iff_exists.1 h0
  rw [← closeBundle_lone ((s.takeMark_bundle s.fc s.fp).trans hb) hx hc hg hr, ← hplan]
  simp [runSlot, h0, hb, State.openLone, hh]

/-- No handoff is an operation of the matrix unit. -/
theorem handoff_notMatrix {i : Instr} (h : i.handoff = true) : i.isMatrix = false := by
  cases i <;> first | rfl | cases h

/-- A bundle of one operation runs at once, unless the operation is one of the matrix unit, which hands nothing over (13 R403). -/
theorem loneBundle_whole {s : State} {x : Ctx} {i : Instr} {p : SlotPlan}
    (h : i.isMatrix = false ∨ (i.handoff = false ∧ ∀ a ∈ p.acts, a.still = true)) : (loneBundle x i p).Whole s p.acts := by
  have hi : (loneBundle x i p).instrs = [i] := rfl
  rcases h with h | ⟨h, hs⟩
  · refine .inl ?_
    by_cases hz : i.word = 0
    · simp [OpenBundle.subSlots, loneBundle, hz, subTake]
    · have e : (loneBundle x i p).subSlots =
          [{ slot := homeSlotOf i.word, matrix := false, beat := Instr.isBeat i, handoff := i.handoff, acts := p.acts }] := by
        simp [OpenBundle.subSlots, loneBundle, hz, h]
      have hk : ∀ n, 1 ≤ max 1 n := fun n => Nat.le_max_left ..
      rw [e]
      unfold subTake
      split
      · split <;> simp
      · obtain ⟨k, hk⟩ := Nat.exists_eq_add_of_le (hk (4 - fld s.fcore.slotmask 2 0))
        rw [hk, Nat.add_comm]; simp
  · exact .inr ⟨by simp [OpenBundle.publishes, hi, h], by simp [OpenBundle.remarks, hi, h], hs⟩

/-- A slot operation by itself, no handoff, whose plan goes and whose acts are plain: one step of its context, then what
follows the step. -/
theorem runSlot_step {s x i p} (plan : State → SlotPlan) (hb : s.bundle = none) (hx : s.fctx? = some x)
    (hh : i.handoff = false) (hplan : plan (s.openBundle none (homeSlotOf i.word) none) = p)
    (hc : Clear x i p.names p.reads) (hg : SlotPlan.Goes p x)
    (hr : Instr.gates i = false ∨ x.gate.length + 1 ≤ 16)
    (hp : ∀ a ∈ p.acts, a.plain = true)
    (hm' : i.isMatrix = false ∨ (i.handoff = false ∧ ∀ a ∈ p.acts, a.still = true)) :
    ∃ s2 y, Near s s2 y (begun x s.fcore.mat p.acts).2 ∧
      Ctx.Moved { x.acted s.fcore.mat p.acts with run := .ready } y (xferOf p.acts) ∧
      runSlot i plan s = .next (p.acts.foldl State.actAfter (s2.closeWindow s.fc s.fp)) := by
  have e := runSlot_commits plan hb hx hh hplan hc hg hr
  have hi : (loneBundle x i p).instrs = [i] := rfl
  have hpub : (loneBundle x i p).publishes = false := by simp [OpenBundle.publishes, hi, hh]
  have hrem : (loneBundle x i p).remarks = false := by simp [OpenBundle.remarks, hi, hh]
  have hw := loneBundle_whole (s := s) (x := x) hm'
  obtain ⟨s2, y, hn, hm, hco⟩ := Near.commit hb hx (loneBundle x i p) p.acts rfl (by simp [loneBundle]) hw hp
  exact ⟨s2, y, hn, hm, by rw [e, hco, hpub, hrem]; rfl⟩

/-- A slot operation by itself, no handoff, whose plan goes and whose acts are plain: one step of its context. -/
theorem runSlot_lone {s x i p} (plan : State → SlotPlan) (hb : s.bundle = none) (hx : s.fctx? = some x)
    (hh : i.handoff = false) (hplan : plan (s.openBundle none (homeSlotOf i.word) none) = p)
    (hc : Clear x i p.names p.reads) (hg : SlotPlan.Goes p x)
    (hr : Instr.gates i = false ∨ x.gate.length + 1 ≤ 16)
    (hp : ∀ a ∈ p.acts, a.plain = true) (hs : ∀ a ∈ p.acts, a.still = true) :
    ∃ t y, runSlot i plan s = .next t ∧ Near s t y (begun x s.fcore.mat p.acts).2 ∧
      Ctx.Moved { x.acted s.fcore.mat p.acts with run := .ready } y (xferOf p.acts) := by
  obtain ⟨s2, y, hn, hm, e⟩ := runSlot_step plan hb hx hh hplan hc hg hr hp (.inr ⟨hh, hs⟩)
  rw [actsAfter_still p.acts hs] at e
  obtain ⟨z, hz, hs⟩ := hn.closeWindow
  exact ⟨_, z, e, hz, hm.same hs⟩

/-- A handoff by itself: its first mark, its step, and then its stores published, its effects, its second mark but for str,
and what follows the step (07 R209). -/
theorem runSlot_handoff {s x i p} (plan : State → SlotPlan) (hb : s.bundle = none) (h0 : s.fctx?.isSome = true)
    (hx : (s.takeMark s.fc s.fp).fctx? = some x)
    (hh : i.handoff = true)
    (hplan : plan ((s.takeMark s.fc s.fp).openBundle none (homeSlotOf i.word) none) = p)
    (hc : Clear x i p.names p.reads) (hg : SlotPlan.Goes p x)
    (hr : Instr.gates i = false ∨ x.gate.length + 1 ≤ 16)
    (hp : ∀ a ∈ p.acts, a.plain = true) :
    ∃ s2 y, Near (s.takeMark s.fc s.fp) s2 y (begun x (s.takeMark s.fc s.fp).fcore.mat p.acts).2 ∧
      Ctx.Moved { x.acted (s.takeMark s.fc s.fp).fcore.mat p.acts with run := .ready } y (xferOf p.acts) ∧
      runSlot i plan s = .next
        (p.acts.foldl State.actAfter
          (let s3 := (p.acts.foldl State.actHandoff (s2.publishGate s.fc s.fp)).closeWindow s.fc s.fp
            if i.isStr then s3 else s3.takeMark s.fc s.fp)) := by
  have hb1 := (s.takeMark_bundle s.fc s.fp).trans hb
  have hf1 := s.takeMark_focus s.fc s.fp
  have e := runSlot_commits_marked plan hb h0 hx hh hplan hc hg hr
  have hi : (loneBundle x i p).instrs = [i] := rfl
  have hpub : (loneBundle x i p).publishes = true := by simp [OpenBundle.publishes, hi, hh]
  have hrem : (loneBundle x i p).remarks = !i.isStr := by simp [OpenBundle.remarks, hi, hh]
  have hfc : (s.takeMark s.fc s.fp).fc = s.fc := congrArg Prod.fst hf1
  have hfp : (s.takeMark s.fc s.fp).fp = s.fp := congrArg Prod.snd hf1
  have hw := loneBundle_whole (s := s.takeMark s.fc s.fp) (x := x) (p := p) (.inl (handoff_notMatrix hh))
  obtain ⟨s2, y, hn, hm, hco⟩ := Near.commit hb1 hx (loneBundle x i p) p.acts rfl (by simp [loneBundle]) hw hp
  refine ⟨s2, y, hn, hm, ?_⟩
  rw [e, hco, hpub, hrem, hfc, hfp]
  cases i.isStr <;> rfl

/-- The completion of such an operation. -/
theorem completes_lone {s x i p a fs gs as m} (plan : State → SlotPlan) (he : exec i s = runSlot i plan s)
    (hb : s.bundle = none) (hx : s.fctx? = some x)
    (hh : i.handoff = false) (hplan : plan (s.openBundle none (homeSlotOf i.word) none) = p)
    (hc : Clear x i p.names p.reads) (hg : SlotPlan.Goes p x) (hr : Instr.gates i = false ∨ x.gate.length + 1 ≤ 16)
    (hp : ∀ a ∈ p.acts, a.plain = true) (hs : ∀ a ∈ p.acts, a.still = true)
    (ha : (x.acted s.fcore.mat p.acts).arch.move (xferOf p.acts) = a)
    (hf : (x.acted s.fcore.mat p.acts).flights = x.flights ++ fs) (hga : (x.acted s.fcore.mat p.acts).gate = x.gate ++ gs)
    (hac : (x.acted s.fcore.mat p.acts).acc = x.acc ++ as) (hm : (begun x s.fcore.mat p.acts).2 = m) :
    Completes s x i a fs gs as m := by
  obtain ⟨t, y, e, hn, mv⟩ := runSlot_lone plan hb hx hh hplan hc hg hr hp hs
  have k := Ctx.alike_acted x s.fcore.mat p.acts
  refine ⟨t, y, he.trans e, hn.stepped ⟨by rw [mv.stepNo]; simp [k.stepNo], mv.run, ?_, ?_, ?_⟩, mv.arch.trans ha,
    mv.flights.trans hf, mv.gate.trans hga, mv.acc.trans hac, ?_⟩
  · exact mv.alike.place.imp (fun h => h.trans k.place.1) fun h => by
      obtain ⟨_, k1, k2, k3, k4, k5, k6, k7, k8⟩ := k.place
      obtain ⟨h1, h2, h3, h4, h5, h6, h7, h8⟩ := h
      exact ⟨h1.trans k1, h2.trans k2, h3.trans k3, h4.trans k4, h5.trans k5, h6.trans k6, h7.trans k7, h8.trans k8⟩
  · obtain ⟨k1, k2, k3, k4, k5, k6, k7⟩ := k.kept
    obtain ⟨h1, h2, h3, h4, h5, h6, h7⟩ := mv.alike.kept
    exact ⟨h1.trans k1, h2.trans k2, h3.trans k3, h4.trans k4, h5.trans k5, h6.trans k6, h7.trans k7⟩
  · exact k.pends.trans mv.alike.pends
  · simp only [State.fcore, hn.fc, hn.mat]; exact hm

/-- A lone bundle lends no field: it reads as no bundle does. -/
theorem State.ext_open (s : State) (h : Option Header) (k : Nat) (hb : s.bundle = none) :
    (s.openBundle h k none).ext = s.ext := by simp [State.ext, State.openBundle, hb]

theorem State.ext_none (s : State) (hb : s.bundle = none) : s.ext = none := by simp [State.ext, hb]

theorem State.rngsNow_open (s : State) (h : Option Header) (k : Nat) (e : Option (BitVec 7)) (hb : s.bundle = none) :
    (s.openBundle h k e).rngsNow = s.rngsNow := by simp [State.rngsNow, State.openBundle, hb]

/-- An operation with one result: its place in an open bundle, and its completion by itself. -/
theorem computes_of {s x i names reads lat v} (plan : State → SlotPlan) (he : exec i s = runSlot i plan s)
    (hx : s.fctx? = some x) (hh : i.handoff = false) (hgt : Instr.gates i = false)
    (hp : plan s = slotOf names reads [.result lat v])
    (ho : s.bundle = none → plan (s.openBundle none (homeSlotOf i.word) none) = plan s) :
    Computes s x i names reads lat v := by
  constructor
  · intro hb; rw [he, runSlot_open i plan s x hx hb, hp]
  · intro hb hc
    exact completes_lone plan he hb hx hh ((ho hb).trans hp) hc (slotOf_goes _ _ _ x) (.inl hgt)
      (by simp [slotOf, Act.plain]) (by simp [slotOf, Act.still]) rfl rfl (List.append_nil _).symm
      (List.append_nil _).symm rfl

/-- An operation whose acts touch its context and the matrix unit alone: its place in an open bundle, and its completion by
itself. -/
theorem effects_of {s x i names reads acts a fs gs as m} (plan : State → SlotPlan) (he : exec i s = runSlot i plan s)
    (hx : s.fctx? = some x) (hh : i.handoff = false) (hp : plan s = slotOf names reads acts)
    (ho : s.bundle = none → plan (s.openBundle none (homeSlotOf i.word) none) = plan s)
    (hr : Instr.gates i = false ∨ x.gate.length + 1 ≤ 16)
    (hpl : ∀ a ∈ acts, a.plain = true) (hst : ∀ a ∈ acts, a.still = true)
    (ha : (x.acted s.fcore.mat acts).arch.move (xferOf acts) = a)
    (hf : (x.acted s.fcore.mat acts).flights = x.flights ++ fs) (hga : (x.acted s.fcore.mat acts).gate = x.gate ++ gs)
    (hac : (x.acted s.fcore.mat acts).acc = x.acc ++ as) (hm : (begun x s.fcore.mat acts).2 = m) :
    Effects s x i names reads acts a fs gs as m :=
  ⟨fun hb => by rw [he, runSlot_open i plan s x hx hb, hp],
    fun hb hc => completes_lone plan he hb hx hh ((ho hb).trans hp) hc (slotOf_goes _ _ _ x) hr hpl hst ha hf hga hac hm⟩

/-- The rounding of a slot is that of the same slot by itself. -/
theorem State.rctx_open (s : State) (h : Option Header) (k : Nat) (e : Option (BitVec 7)) (hb : s.bundle = none)
    (ext : Option (BitVec 7)) (pol : OvPol) (draws : Bool) :
    (s.openBundle h k e).rctx ext pol draws = s.rctx ext pol draws := by
  simp only [State.rctx, State.rngsNow_open s h k e hb]; rfl

/-- The flights of a slot's acts, with nothing else in flight from it, and the acts that draw. -/
theorem acted_vec (x : Ctx) (m : MatUnit) (lat : Nat) (v : FlightVal) (fl : Fl) (r : Option Word) :
    let acts := (match r with | some w => [Act.rngs w] | none => []) ++ .result lat v :: flagActs lat fl
    let y := x.acted m acts
    (∀ a ∈ acts, a.plain = true) ∧ (∀ a ∈ acts, a.still = true) ∧
      y.arch.move (xferOf acts) = ({ x.arch with rngs := r.getD x.arch.rngs } : Arch).move none ∧
      y.flights = x.flights ++ (x.flight 0 lat v :: if fl = 0 then [] else [x.flight 1 lat (.flags fl)]) ∧
      y.gate = x.gate ++ [] ∧ y.acc = x.acc ++ [] ∧ (begun x m acts).2 = m := by
  cases r <;> by_cases hf : fl = 0 <;> simp only [flagActs, hf, if_true, if_false]
  · exact ⟨by simp [Act.plain], by simp [Act.still], rfl, rfl, (List.append_nil _).symm, (List.append_nil _).symm, rfl⟩
  · exact ⟨by simp [Act.plain], by simp [Act.still], rfl, List.append_assoc x.flights _ _, (List.append_nil _).symm, (List.append_nil _).symm, rfl⟩
  · exact ⟨by simp [Act.plain], by simp [Act.still], rfl, rfl, (List.append_nil _).symm, (List.append_nil _).symm, rfl⟩
  · exact ⟨by simp [Act.plain], by simp [Act.still], rfl, List.append_assoc x.flights _ _, (List.append_nil _).symm, (List.append_nil _).symm, rfl⟩

/-- A rounding and its draw. -/
theorem State.rctx_draw (s : State) (ext : Option (BitVec 7)) (pol : OvPol) (draws : Bool) :
    ∃ r : Option Word, (s.rctx ext pol draws).2 = (match r with | some w => [Act.rngs w] | none => []) ∧
      (s.rctx ext pol draws).1.s = r.getD s.rngsNow := by
  simp only [State.rctx]
  split
  · exact ⟨some _, rfl, rfl⟩
  · exact ⟨none, rfl, rfl⟩

/-- A vector slot. -/
theorem vcomputes_of {s x i names reads lat d cause ext pol draws r} (plan : State → SlotPlan)
    (he : exec i s = runSlot i plan s) (hx : s.fctx? = some x) (hh : i.handoff = false) (hgt : Instr.gates i = false)
    (hp : plan s = vecPlan names reads lat d cause (s.rctx ext pol draws).2 r)
    (ho : s.bundle = none → plan (s.openBundle none (homeSlotOf i.word) none) = plan s) :
    VComputes s x i names reads lat d (s.rctx ext pol draws) r := by
  intro ht
  obtain ⟨w, h2, h1⟩ := s.rctx_draw ext pol draws
  have hp' : plan s = slotOf names reads ((s.rctx ext pol draws).2 ++ vecAct lat d r.data r.side :: flagActs lat r.fl) := by
    rw [hp]; simp only [vecPlan, ht]; rfl
  refine ⟨fun hb => by rw [he, runSlot_open i plan s x hx hb, hp'], fun hb hc => ?_⟩
  have hr : s.rngsNow = x.arch.rngs := by simp [State.rngsNow, hb, s.fctx_of x hx]
  rw [h1, hr]
  rw [h2] at hp'
  obtain ⟨a2, a3, a4, a5, a6, a7, a8⟩ := acted_vec x s.fcore.mat lat
    (.vec d.toNat r.data (BitVec.allOnes 16384) r.side (BitVec.allOnes 512)) r.fl w
  exact completes_lone plan he hb hx hh ((ho hb).trans hp') hc (slotOf_goes _ _ _ x) (.inl hgt) a2 a3 a4 a5 a6 a7 a8

theorem Stepped.of_moved {s s2 x y z m t} (hn : Near s s2 y m) (mv : Ctx.Moved { z with run := .ready } y t)
    (k : Ctx.Alike x z) : Stepped s s2 x y := by
  refine hn.stepped ⟨by rw [mv.stepNo]; simp [k.stepNo], mv.run, ?_, ?_, ?_⟩
  · obtain ⟨k0, k1, k2, k3, k4, k5, k6, k7, k8⟩ := k.place
    obtain ⟨h0, h1, h2, h3, h4, h5, h6, h7, h8⟩ := mv.alike.place
    exact ⟨h0.trans k0, h1.trans k1, h2.trans k2, h3.trans k3, h4.trans k4, h5.trans k5, h6.trans k6, h7.trans k7,
      h8.trans k8⟩
  · obtain ⟨k1, k2, k3, k4, k5, k6, k7⟩ := k.kept
    obtain ⟨h1, h2, h3, h4, h5, h6, h7⟩ := mv.alike.kept
    exact ⟨h1.trans k1, h2.trans k2, h3.trans k3, h4.trans k4, h5.trans k5, h6.trans k6, h7.trans k7⟩
  · exact k.pends.trans mv.alike.pends

/-- A handoff whose acts touch its context alone until its step. -/
theorem hands_of {s : State} {x i names reads acts a eff after} (plan : State → SlotPlan) (he : exec i s = runSlot i plan s)
    (h0 : s.fctx?.isSome = true) (hx : s.marked.fctx? = some x) (hh : i.handoff = true) (hstr : i.isStr = false)
    (h1 : s.bundle.isSome = true → plan s = slotOf names reads acts)
    (h2 : s.bundle = none → plan ((s.takeMark s.fc s.fp).openBundle none (homeSlotOf i.word) none) = slotOf names reads acts)
    (hr : Instr.gates i = false) (hpl : ∀ a ∈ acts, a.plain = true)
    (ha : ∀ m, (x.acted m acts).arch.move (xferOf acts) = a) (hf : ∀ m, (x.acted m acts).flights = x.flights)
    (hg : ∀ m, (x.acted m acts).gate = x.gate) (hac : ∀ m, (x.acted m acts).acc = x.acc)
    (hm : ∀ m, (begun x m acts).2 = m) (heff : ∀ t, acts.foldl State.actHandoff t = eff t)
    (haft : ∀ t, acts.foldl State.actAfter t = after t) : Hands s x i names reads acts a eff after := by
  refine ⟨fun hb => ?_, fun hb hc => ?_⟩
  · obtain ⟨x0, h0⟩ := Option.isSome_iff_exists.1 h0
    rw [he, runSlot_open i plan s x0 h0 hb, h1 hb]
  · have e : s.marked = s.takeMark s.fc s.fp := if_pos hb
    rw [e] at hx ⊢
    obtain ⟨s2, y, hn, mv, er⟩ := runSlot_handoff plan hb h0 hx hh (h2 hb) hc (slotOf_goes _ _ _ x) (.inl hr) hpl
    let m := (s.takeMark s.fc s.fp).fcore.mat
    refine ⟨s2, y, Stepped.of_moved (z := x.acted m acts) hn mv (x.alike_acted m acts), mv.arch.trans (ha m), mv.flights.trans (hf m),
      mv.gate.trans (hg m), mv.acc.trans (hac m), ?_, ?_⟩
    · rw [State.fcore, hn.fc]
      exact hn.mat.trans (hm m)
    · rw [he, er, hstr]
      simp only [Bool.false_eq_true, if_false]
      rw [← haft, ← heff]
      rfl

theorem State.marked_open (s : State) (h : s.bundle.isSome = true) : s.marked = s := by
  obtain ⟨b, hb⟩ := Option.isSome_iff_exists.1 h
  simp [State.marked, hb]
theorem State.marked_lone (s : State) (h : s.bundle = none) : s.marked = s.takeMark s.fc s.fp := if_pos h

/-- A handoff whose plan is the same once its bundle is open. -/
theorem hands_of_marked {s : State} {x i names reads acts a eff after} (plan : State → SlotPlan) (he : exec i s = runSlot i plan s)
    (h0 : s.fctx?.isSome = true) (hx : s.marked.fctx? = some x) (hh : i.handoff = true) (hstr : i.isStr = false)
    (h1 : plan s.marked = slotOf names reads acts)
    (h2 : ∀ t : State, t.bundle = none → ∀ k, plan (t.openBundle none k none) = plan t)
    (hr : Instr.gates i = false) (hpl : ∀ a ∈ acts, a.plain = true)
    (ha : ∀ m, (x.acted m acts).arch.move (xferOf acts) = a) (hf : ∀ m, (x.acted m acts).flights = x.flights)
    (hg : ∀ m, (x.acted m acts).gate = x.gate) (hac : ∀ m, (x.acted m acts).acc = x.acc)
    (hm : ∀ m, (begun x m acts).2 = m) (heff : ∀ t, acts.foldl State.actHandoff t = eff t)
    (haft : ∀ t, acts.foldl State.actAfter t = after t) : Hands s x i names reads acts a eff after :=
  hands_of plan he h0 hx hh hstr (fun hb => by rw [s.marked_open hb] at h1; exact h1)
    (fun hb => by rw [h2 _ ((s.takeMark_bundle _ _).trans hb), ← s.marked_lone hb]; exact h1) hr hpl ha hf hg hac hm heff haft

/-! A core's special registers. -/

/-- A core with its contexts replaced. -/
def Core.withCtxs (k : Core) (cs : Tab Ctx) : Core := { k with ctxs := cs }

/-- A change of a core that leaves its contexts alone, before or after a change of a context. -/
theorem State.modCore_setCtx (s : State) (c p : Nat) (z : Ctx) (f : Core → Core)
    (hf : ∀ k cs, f (k.withCtxs cs) = (f k).withCtxs cs) (hc : (f (s.core c)).ctxs = (s.core c).ctxs) :
    (s.setCtx c p z).modCore c f = (s.modCore c f).setCtx c p z := by
  have e (t : State) : t.setCtx c p z = t.setCore c ((t.core c).withCtxs (Tab.set (t.core c).ctxs p z)) := rfl
  rw [e, e]
  unfold State.modCore
  rw [State.core_setCore, State.core_setCore, hf, hc]
  unfold State.setCore
  simp only [Tab.set_set]

theorem Core.csrPut_ctxs (n : Nat) (v : Word) (k : Core) (cs : Tab Ctx) :
    (k.withCtxs cs).csrPut n v = (k.csrPut n v).withCtxs cs := by
  unfold Core.csrPut
  split <;> try rfl
  split <;> rfl

end Sys2Proof.Machine
end

