-- ==== Sys2Proof/Laws/Memory.lean ====
section
/-! SUPPORT. Byte memory: every memory operation keeps the canonical form (log entry 2), the reset state has it, and what a
read gives after a write. -/

namespace Sys2Proof.Machine

theorem Mem.wfFrom_mono : ∀ (m : Mem) (lo hi : Nat), lo ≤ hi → Mem.wfFrom hi m = true → Mem.wfFrom lo m = true
  | [], _, _, _, _ => rfl
  | (k, v) :: t, lo, hi, h, w => by
    simp only [Mem.wfFrom, Bool.and_eq_true, decide_eq_true_eq] at w ⊢
    exact ⟨⟨by omega, w.1.2⟩, w.2⟩

theorem Mem.wfFrom_write : ∀ (m : Mem) (lo a : Nat) (b : Byte), lo ≤ a → Mem.wfFrom lo m = true →
    Mem.wfFrom lo (Mem.write m a b) = true
  | [], lo, a, b, h, _ => by
    unfold Mem.write
    split <;> simp_all [Mem.wfFrom]
  | (k, v) :: t, lo, a, b, h, w => by
    have w' := w
    simp only [Mem.wfFrom, Bool.and_eq_true, decide_eq_true_eq, bne_iff_ne] at w'
    obtain ⟨⟨hk, hv⟩, ht⟩ := w'
    unfold Mem.write
    split
    · split
      · exact Mem.wfFrom_mono t _ _ (by omega) ht
      · subst_vars; simp_all [Mem.wfFrom]
    · split
      · split
        · exact w
        · simp only [Mem.wfFrom, Bool.and_eq_true, decide_eq_true_eq, bne_iff_ne]
          exact ⟨⟨h, ‹_›⟩, ⟨⟨by omega, hv⟩, ht⟩⟩
      · simp only [Mem.wfFrom, Bool.and_eq_true, decide_eq_true_eq, bne_iff_ne]
        exact ⟨⟨hk, hv⟩, Mem.wfFrom_write t _ a b (by omega) ht⟩

theorem Memory.wf_write (m : Mem) (a : Nat) (b : Byte) (h : Memory.wf m = true) : Memory.wf (Mem.write m a b) = true :=
  Mem.wfFrom_write m 0 a b (Nat.zero_le a) h

theorem Memory.wf_writeBytes : ∀ (bs : List Byte) (m : Mem) (a : Nat), Memory.wf m = true →
    Memory.wf (Mem.writeBytes m a bs) = true
  | [], _, _, h => h
  | b :: bs, m, a, h => Memory.wf_writeBytes bs _ _ (Memory.wf_write m a b h)

theorem Memory.wf_writeCells : ∀ (cs : List Host.Cell) (m : Mem), Memory.wf m = true →
    Memory.wf (Mem.writeCells m cs) = true
  | [], _, h => h
  | c :: cs, m, h => Memory.wf_writeCells cs _ (Memory.wf_write m c.1 c.2 h)

theorem Mem.wfFrom_filter (p : Host.Cell → Bool) : ∀ (m : Mem) (lo : Nat), Mem.wfFrom lo m = true →
    Mem.wfFrom lo (m.filter p) = true
  | [], _, _ => rfl
  | (k, v) :: t, lo, w => by
    simp only [Mem.wfFrom, Bool.and_eq_true, decide_eq_true_eq] at w
    have ih := Mem.wfFrom_filter p t (k + 1) w.2
    unfold List.filter
    split
    · simp only [Mem.wfFrom, Bool.and_eq_true, decide_eq_true_eq]
      exact ⟨w.1, ih⟩
    · exact Mem.wfFrom_mono _ _ _ (by omega) ih

theorem Memory.wf_filter (p : Host.Cell → Bool) (m : Mem) (h : Memory.wf m = true) : Memory.wf (m.filter p) = true :=
  Mem.wfFrom_filter p m 0 h

/-- The reset state's memory lists nothing, so it has the canonical form. -/
theorem Memory.wf_reset : Memory.wf State.reset.dev.mem = true := rfl

theorem Mem.read_below : ∀ (m : Mem) (lo a : Nat), Mem.wfFrom lo m = true → a < lo → Mem.read m a = memDefault
  | [], _, _, _, _ => rfl
  | (k, v) :: t, lo, a, w, h => by
    simp only [Mem.wfFrom, Bool.and_eq_true, decide_eq_true_eq] at w
    have : a ≠ k := by omega
    simp [Mem.read, this, Mem.read_below t (k + 1) a w.2 (by omega)]

/-- A read away from the byte written. -/
theorem Mem.read_write_other : ∀ (m : Mem) (a c : Nat) (b : Byte), c ≠ a → Mem.read (Mem.write m a b) c = Mem.read m c
  | [], a, c, b, h => by
    unfold Mem.write
    split <;> simp [Mem.read, h]
  | (k, v) :: t, a, c, b, h => by
    unfold Mem.write
    split
    · have : c ≠ k := by omega
      split <;> simp [Mem.read, h, this]
    · split
      · split
        · rfl
        · simp [Mem.read, h]
      · simp only [Mem.read]
        split
        · rfl
        · exact Mem.read_write_other t a c b h

/-- A read from the start of a memory's bytes is the bytes read one by one. -/
@[simp] theorem Mem.bytes_zero (m : Mem) (a : Nat) : Mem.bytes m a 0 = [] := rfl
@[simp] theorem Mem.bytes_succ (m : Mem) (a n : Nat) : Mem.bytes m a (n + 1) = Mem.read m a :: Mem.bytes m (a + 1) n := rfl
@[simp] theorem Mem.length_bytes (m : Mem) : ∀ (n a : Nat), (Mem.bytes m a n).length = n
  | 0, _ => rfl
  | n + 1, a => by simp [Mem.length_bytes m n]

theorem Tab.find?_set {α : Type} : ∀ (t : Tab α) (j k : Nat) (v : α), Tab.rising t = true →
    Tab.find? (Tab.set t j v) k = if k = j then some v else Tab.find? t k
  | [], j, k, v, _ => by simp [Tab.set, Tab.find?]
  | (i, w) :: t, j, k, v, h => by
    have ht : Tab.rising t = true := by
      cases t with
      | nil => rfl
      | cons p q => cases p; simp_all [Tab.rising]
    unfold Tab.set
    split
    · subst_vars
      simp only [Tab.find?]
      split <;> rfl
    · split
      · simp [Tab.find?]
      · simp only [Tab.find?, Tab.find?_set t j k v ht]
        split
        · have : k ≠ j := by omega
          simp [this]
        · rfl

end Sys2Proof.Machine
end

