-- ==== Sys2Proof/Tests/Slice0.lean ====
section
/-! SUPPORT. Tests: each limit of WellFormed refuses a term; words that the manual prints, or that are written out here from
its encoding tables, decode to what they stand for; what the machine does with a few of them; and for every statement of
Obligations a state and operands that meet its hypotheses. -/

set_option maxRecDepth 20000

namespace Sys2Proof.Tests

open Sys2Proof Sys2Proof.Machine

/-! Ill-formed terms (03 R82 check 4, R95 to R97, R100; 06 R193). -/

theorem test_wf_shift_amount : Instr.wf (.shli 1 2 true 32) = false ∧ Instr.wf (.shri 1 2 true 63) = false ∧
    Instr.wf (.srai 1 2 true 32) = false ∧ Instr.wf (.roti 1 2 true 32) = false ∧ Instr.wf (.roti 1 2 true 31) = true := by
  decide
theorem test_wf_bit_field : Instr.wf (.extf 1 2 63 1) = false ∧ Instr.wf (.extfn 1 2 1 63) = false ∧
    Instr.wf (.insf 1 2 32 32) = false ∧ Instr.wf (.insf 1 2 0 63) = true := by decide
theorem test_wf_wid_field : Instr.wf (.widf 1 6) = false ∧ Instr.wf (.widf 1 5) = true := by decide
theorem test_wf_load_width : Instr.wf (.ld 1 2 .w3 true 0) = false ∧ Instr.wf (.ldg 1 2 .w3 true 0) = false ∧
    Instr.wf (.lda 1 2 .w3 true 0) = false ∧ Instr.wf (.ld 1 2 .w3 false 0) = true := by decide
theorem test_wf_integer_types : Instr.wf (.vmulh 0 1 2 0 .f32) = false ∧ Instr.wf (.vand 0 1 2 0 .bf16) = false ∧
    Instr.wf (.vshl 0 1 2 0 .f32) = false ∧ Instr.wf (.vadds 0 1 2 0 .f32) = false ∧ Instr.wf (.vclz 0 1 0 .f32) = false ∧
    Instr.wf (.vredAnd 0 1 0 .f32) = false ∧ Instr.wf (.vscanSumi 0 1 0 .f32) = false := by decide
theorem test_wf_float_types : Instr.wf (.vfma 0 1 2 0 .i32) = false ∧ Instr.wf (.vcmpUn 1 0 1 0 .i32) = false ∧
    Instr.wf (.vcopysign 0 1 2 0 .i8) = false ∧ Instr.wf (.vmathExp2 0 1 0 .n8) = false ∧
    Instr.wf (.vscanSumf 0 1 0 .i32) = false ∧ Instr.wf (.vabs 0 1 0 .n32) = false := by decide
theorem test_wf_conversions : Instr.wf (.vcvt 0 1 0 .f32 .f32) = false ∧ Instr.wf (.vcvt 0 1 0 .raw .f32) = false ∧
    Instr.wf (.vcvt 0 1 0 .e8m0 .i32) = false ∧ Instr.wf (.vcvt 0 1 0 .e8m0 .bf16) = true := by decide
theorem test_wf_element_index : Instr.wf (.vins 0 1 .w0 512) = false ∧ Instr.wf (.vext 0 1 .w1 1024) = false ∧
    Instr.wf (.vins 0 1 .w3 256) = false ∧ Instr.wf (.vins 0 1 .w2 2047) = true := by decide
theorem test_wf_planes : Instr.wf (.vblkPlpack 0 1 2 0 1) = false ∧ Instr.wf (.vblkPlunpk 0 1 0 9) = false ∧
    Instr.wf (.mmode .pni 1 false false) = false ∧ Instr.wf (.mmode .bf16 2 false false) = false := by decide
theorem test_wf_matrix_mode : Instr.wf (.mmode .e4m3 0 true false) = false ∧ Instr.wf (.mmode .i8 0 false true) = false ∧
    Instr.wf (.mmode .i8 0 true true) = true ∧ Instr.wf (.mzero 255 1) = false := by decide
theorem test_wf_gather_type : Instr.wf (.vgath 0 1 2 0 .e8m0) = false ∧ Instr.wf (.vscat 0 1 2 0 .pni) = false := by decide
theorem test_wf_events : Instr.wf (.timer 288 0) = false ∧ Instr.wf (.timer 0 4) = false ∧ Instr.wf (.coreHung 288) = false ∧
    Instr.wf (.claimGrant 36) = false ∧ Instr.wf (.balanceWindowEnd 18) = false ∧ Instr.wf (.valveStep 20) = false ∧
    Instr.wf (.coolantFlowCondition 20) = false ∧ Instr.wf (.thermalEvaluation 2) = false ∧
    Instr.wf (.counterWrite 0 1024 0) = false ∧ Instr.wf (.trellisRefire 0 4096) = false ∧
    Instr.wf (.groupStart 64) = false ∧ Instr.wf (.retrain 8) = false := by decide

/-! Words. -/

/-- 04 R112: FUNC, W and the registers of major 0x01 written out (03 R80, R94). -/
theorem test_word_scalar : decodeTableWord 32 0x04A10500 = some (.add 10 4 5 false) ∧
    decodeTableWord 32 (0x01 * 2 ^ 26 + 3 * 2 ^ 20 + 4 * 2 ^ 14 + 5 * 2 ^ 8 + 2 ^ 7 + 1) = some (.sub 3 4 5 true) ∧
    decodeTableWord 32 (0x01 * 2 ^ 26 + 3 * 2 ^ 20 + 4 * 2 ^ 14 + 5 * 2 ^ 8 + 29) = some (.sel 3 4 5) := by decide
/-- 14: the immediate forms of the three listings. -/
theorem test_word_immediate : decodeTableWord 32 0x24D00020 = some (.li 13 32) ∧
    decodeTableWord 32 0x0891FFFC = some (.addi 9 7 (-4)) ∧ decodeTableWord 32 0x2C824A80 = some (.lea 8 9 10 2 0) ∧
    decodeTableWord 32 0x18515001 = some (.shri 5 5 false 1) ∧ decodeTableWord 32 0x244FFFFF = some (.li 4 (-1)) := by decide
/-- 14 and 15: special-register accesses. -/
theorem test_word_special : decodeTableWord 32 0x38051811 = some (.csrw 0 20 0x811) ∧
    decodeTableWord 32 0x39500812 = some (.csrr 21 0x812) ∧ decodeTableWord 32 0x38049812 = some (.csrw 0 18 0x812) := by
  decide
/-- 14 and 15; 04 R125 to R130: control transfers. -/
theorem test_word_control : decodeTableWord 32 0x49963003 = some (.bru .ge 11 6 3) ∧
    decodeTableWord 32 0x448A07FB = some (.brl .ne 5 0 (-5)) ∧ decodeTableWord 32 0x40963004 = some (.br .ne 11 6 4) ∧
    decodeTableWord 32 0x4C000004 = some (.j 4) ∧ decodeTableWord 32 0x452277F8 = some (.brl .lt 17 14 (-8)) ∧
    decodeTableWord 32 0x422AB7FD = some (.br .ltn 21 22 (-3)) ∧ decodeTableWord 32 0x56000000 = some .ret ∧
    decodeTableWord 32 0x58414603 = some (.jtab 4 5 6 3) ∧ decodeTableWord 32 0x5C000F03 = some (.land 0xF03) := by decide
/-- 14: memory accesses and atomics. -/
theorem test_word_memory : decodeTableWord 32 0x80E03000 = some (.ld 14 0 .w3 false 0) ∧
    decodeTableWord 32 0x80602008 = some (.ld 6 0 .w2 false 8) ∧ decodeTableWord 32 0x8441E100 = some (.st 4 7 .w2 0x100) ∧
    decodeTableWord 32 0x94D2B008 = some (.str 13 10 .w3 8) ∧ decodeTableWord 32 0x9162B008 = some (.lda 22 10 .w3 false 8) ∧
    decodeTableWord 32 0x8972B000 = some (.ldg 23 10 .w3 false 0) ∧
    decodeTableWord 32 0x9CC28810 = some (.cas 12 10 8 false false false .system) ∧
    decodeTableWord 32 0x9C3105C8 = some (.cas 3 4 5 true true false .gang) ∧
    decodeTableWord 32 0x9861C0B0 = some (.amoAdd 6 7 false false true .device) := by decide
/-- 05: vector arithmetic, comparisons, reductions, permutations, functions, masks, moves and blocks. -/
theorem test_word_vector : decodeTableWord 32 0xA0400B06 = some (.vadd 2 0 1 3 .f32) ∧
    decodeTableWord 32 0xA9002106 = some (.vcmpLt 2 0 1 0 .f32) ∧ decodeTableWord 32 0xB0400006 = some (.vredSum 2 0 0 .f32) ∧
    decodeTableWord 32 0xB4400045 = some (.vpermSlideup 2 0 0 0 .w32 5) ∧
    decodeTableWord 32 0xB8400C06 = some (.vmathRsqrt 2 0 0 .f32) ∧ decodeTableWord 32 0xBC308400 = some (.mcnt 3 2) ∧
    decodeTableWord 32 0xBC440600 = some (.mset 4 2) ∧ decodeTableWord 32 0xC0400B00 = some (.vsel 2 0 1 3) ∧
    decodeTableWord 32 0xC4108007 = some (.vins 2 4 .w0 7) ∧ decodeTableWord 32 0xC5108809 = some (.vext 2 4 .w1 9) ∧
    decodeTableWord 32 0xC7108805 = some (.vscWr 2 4 5) := by decide
theorem test_word_block : decodeTableWord 32 0xC8200000 = some (.vblkBexp 1 0 0) ∧
    decodeTableWord 32 0xC8601020 = some (.vblkAnc 3 0 2 0) ∧ decodeTableWord 32 0xC8A40040 = some (.vblkUnanc 5 4 0) ∧
    decodeTableWord 32 0xC8400865 = some (.vblkPlpack 2 0 1 0 5) ∧ decodeTableWord 32 0xD0421602 = some (.vld 2 4 1 .f32 2) := by
  decide
/-- 06 and 15: the matrix operations. -/
theorem test_word_matrix : decodeTableWord 32 0xE1FDF800 = some (.mpush 15 7 63) ∧
    decodeTableWord 32 0xE81C1C00 = some (.macc 0 7 7) ∧ decodeTableWord 32 0xE8743000 = some (.macc 3 5 12) ∧
    decodeTableWord 32 0xEC2C1C00 = some (.mdrain 2 3 7) ∧ decodeTableWord 32 0xEE443000 = some (.mdrainz 4 1 12) ∧
    decodeTableWord 32 0xE5000000 = some (.mmode .bf16 0 false false) ∧
    decodeTableWord 32 0xE5550000 = some (.mmode .pni 5 false false) ∧
    decodeTableWord 32 0xE530C000 = some (.mmode .i8 0 true true) := by decide
/-- 07: engine commands. -/
theorem test_word_engine : decodeTableWord 32 0xF0041462 = some (.cpy 4 5 3 2) ∧
    decodeTableWord 32 0xF0440022 = some (.press 4 1 2) ∧ decodeTableWord 32 0xF0841420 = some (.stash 4 5 1) ∧
    decodeTableWord 32 0xF0C40002 = some (.fetch 4 2) ∧ decodeTableWord 32 0xF1040000 = some (.drop 4) ∧
    decodeTableWord 32 0xF1430060 = some (.send 12 3) ∧ decodeTableWord 32 0xF1841400 = some (.arm 4 5) ∧
    decodeTableWord 32 0xF1C41400 = some (.ctradd 4 5) ∧ decodeTableWord 32 0xF2041400 = some (.rmap 4 5) ∧
    decodeTableWord 32 0xF2440000 = some (.rflush 4) ∧ decodeTableWord 32 0xF2840000 = some (.rinv 4) := by decide
/-- 07, 14 and 15: rings, synchronisation and system functions. -/
theorem test_word_ring : decodeTableWord 32 0xF4080000 = some (.waitf 2) ∧ decodeTableWord 32 0xF4880000 = some (.rels 2) ∧
    decodeTableWord 32 0xF5040000 = some (.radv 1) ∧ decodeTableWord 32 0xF6010000 = some (.own 16) ∧
    decodeTableWord 32 0xF7044000 = some (.rinit 1 4) ∧ decodeTableWord 32 0x60000000 = some .sync ∧
    decodeTableWord 32 0x69800000 = some .endTask ∧ decodeTableWord 32 0 = some .nop := by decide
/-- 03 R82, R85, R98: a reserved field, a reserved major, a header's word and an event decode to nothing. -/
theorem test_word_refused : decodeTableWord 32 1 = none ∧ decodeTableWord 32 0x3C000000 = none ∧
    decodeTableWord 32 0xFC200000 = none ∧ decodeTableWord 32 0x04A10542 = none ∧ decodeTableWord 64 0 = none ∧
    encodeNat .stallStep = none := by decide
/-- 03 R82: each check of a slot in its order. -/
theorem test_slot_checks : (match decodeSlot 1 0xFC200000 0 with | .error f => f.cause == .headerMisplaced | _ => false) = true ∧
    (match decodeSlot 1 0x3C000000 0 with | .error f => f.cause == .illegalOpcode | _ => false) = true ∧
    (match decodeSlot 0 0x80E03000 0 with | .error f => f.cause == .slotIllegal | _ => false) = true ∧
    (match decodeSlot 1 0x04A10500 5 with | .error f => f.cause == .extUnused | _ => false) = true := by decide

/-! States for what follows. -/

/-- A context at supervisor privilege at place 0 of core 0, with a bundle of no-operations to issue next. -/
def here : State := State.reset.loadBundle (List.replicate 16 0)

/-- That context. -/
def hereCtx : Ctx := here.fctx

/-- The same state with some scalar registers written. -/
def withRegs (l : List (Nat × Word)) : State := l.foldl (fun s q => s.writeScalar 0 0 q.1 q.2) here

/-- The same state with its context, its core or its device changed. -/
def withCtx (f : Ctx → Ctx) : State := here.modCtx 0 0 f
def withCore (f : Core → Core) : State := here.modCore 0 f
def withDev (f : Dev → Dev) : State := here.modDev f

/-- The context there once it has taken the first mark of a handoff. -/
def markedOf (s : State) : Ctx := s.marked.fctx

theorem marked_ctx (s : State) (h : s.marked.fctx?.isSome = true) : s.marked.fctx? = some (markedOf s) := by
  obtain ⟨x, hx⟩ := Option.isSome_iff_exists.mp h
  simp [markedOf, State.fctx, hx]

theorem here_ctx : here.fctx? = some hereCtx := by decide
theorem here_alone : here.bundle = none := by decide
theorem here_open : (here.openBundle none 1 none).bundle.isSome = true := by decide

/-- The context passes checks 6 to 8 for any operation that names registers of its allotment. -/
theorem here_clear (i : Instr) (names reads : List RegRef) (h : names.all (fun r => !hereCtx.outside r) = true) :
    Clear hereCtx i names reads where
  delay := fun h => absurd h (by decide)
  allotted := by simpa [List.all_eq_true] using h
  settled := fun h => absurd h (by decide)

/-- An engine ring of two slots of one tile, with one slot full, no side an engine's. -/
def halfRing : Ring := { Ring.reset with valid := true, perm1 := 0, countm1 := 1, prod := 1, tiles := [8, 9] }

/-! What the machine does. -/

/-- 03 R82; 01 R25: a step of a loaded instruction runs it: one issue step, and the queue moves on by one bundle. -/
theorem test_step_runs : (match step (State.reset.withFetchWord 32 0x24D00020) with
    | .next t => t.fctx.stepNo == 1 && t.fctx.arch.pc.addr.toNat == 0x1001 && t.fctx.flights.map Flight.val == [.scalar 13 32]
    | _ => false) = true := by decide
/-- 04 R112: a sum wraps. -/
theorem test_add_wraps : (match exec (.add 3 4 5 false) (withRegs [(4, BitVec.allOnes 64), (5, 2)]) with
    | .next t => t.fctx.flights.map Flight.val == [.scalar 3 1]
    | _ => false) = true := by decide
/-- 04 R110: a W form extends the sign of its 32 bits. -/
theorem test_add_word : (match exec (.add 3 4 5 true) (withRegs [(4, 0x7FFFFFFF), (5, 1)]) with
    | .next t => t.fctx.flights.map Flight.val == [.scalar 3 0xFFFFFFFF80000000#64]
    | _ => false) = true := by decide
/-- 04 R113: a quotient by zero is all ones, its remainder the dividend. -/
theorem test_divide_by_zero : (match exec (.div 3 4 5 false) (withRegs [(4, 7)]) with
    | .next t => t.fctx.flights.map Flight.val == [.scalar 3 (BitVec.allOnes 64)]
    | _ => false) = true := by decide
theorem test_remainder_by_zero : (match exec (.rem 3 4 5 false) (withRegs [(4, 7)]) with
    | .next t => t.fctx.flights.map Flight.val == [.scalar 3 7]
    | _ => false) = true := by decide
/-- 04 R115, R118: li, then lih joins 20 bits below: 14 prints the ring descriptor of q1. -/
theorem test_lih : (match exec (.lih 4 0x38010) (withRegs [(4, 0xFFFFFFFFFF800000#64)]) with
    | .next t => t.fctx.flights.map Flight.val == [.scalar 4 0xFFFFF80000038010#64]
    | _ => false) = true := by decide
/-- 04 R125: 14, the bru.ge not taken and taken. -/
theorem test_bru_taken : (match exec (.bru .ge 11 6 3) (withRegs [(11, 238), (6, 213)]) with
    | .next t => t.fctx.arch.pc.n && t.fctx.arch.q1.n && t.fctx.arch.q2.addr.toNat == 0x1003 && t.fctx.arch.dc == 2
    | _ => false) = true := by decide
theorem test_bru_not_taken : (match exec (.bru .ge 11 6 3) (withRegs [(11, 158), (6, 213)]) with
    | .next t => !t.fctx.arch.pc.n && !t.fctx.arch.q1.n && t.fctx.arch.q2.addr.toNat == 0x1003
    | _ => false) = true := by decide
/-- 04 R136; 14: the lookup beyond the single allotted bank faults SP_RANGE in S1, with its address. -/
theorem test_lookup_faults : (match exec (.ld 17 16 .w1 true 0)
      (({ withRegs [(16, 0x40086)] with focus := (0, 0) }).modCtx 0 0 fun x => { x with banks := [0] }) with
    | .next t => t.fctx.arch.ecause == 0x10 && t.fctx.arch.einfo == 0x40086 && t.fctx.arch.epc == 0x10000 &&
        t.fctx.arch.slotfault == 0x12 && t.fctx.stepNo == 0
    | _ => false) = true := by decide
/-- 04 R137: a store waits in the gated store buffer, and a load of the next bundle sees it. -/
theorem test_store_then_load : (match exec (.st 4 5 .w2 0) (withRegs [(4, 0x12345678), (5, 0x100)]) with
    | .next t => (match exec (.ld 6 5 .w2 false 0) t with
        | .next u => u.fctx.flights.map Flight.val == [.scalar 6 0x12345678] && u.fcore.sp == []
        | _ => false)
    | _ => false) = true := by decide
/-- 07 R244; 10 R311: trap commits, and BREAK saves the queue behind it. -/
theorem test_trap_saves : (match exec (.trap 7) here with
    | .next t => t.fctx.arch.ecause == Cause.brk.code.setWidth 64 && t.fctx.arch.einfo == 7 && t.fctx.arch.epc == 0x10010 &&
        t.fctx.arch.epcq1 == 0x10020 && t.fctx.arch.epcq2 == 0x10030 && t.fctx.arch.slotfault == 1 && t.fctx.arch.inHandler
    | _ => false) = true := by decide
/-- 07 R220; 14: the register that rinit makes of the descriptor word of q1. -/
theorem test_rinit : (match exec (.rinit 1 4) (withRegs [(4, 0x8000003801000000#64)]) with
    | .next t => (t.fcore.ring 1).valid && (t.fcore.ring 1).countm1 == 7 && (t.fcore.ring 1).first == 8 &&
        (t.fcore.ring 1).tiles == [8, 9, 10, 11, 12, 13, 14, 15]
    | _ => false) = true := by decide
/-- 01 R40: a TABDAT write goes to the word that TABSEL and TABIDX select, and TABIDX moves. -/
theorem test_tabdat : (match exec (.csrw 0 15 0x812)
      ((withRegs [(15, 0x006405A000000000#64)]).modCtx 0 0 fun x => { x with arch := { x.arch with tabsel := 8 } }) with
    | .next t => t.fctx.arch.tabidx == 1
    | _ => false) = true := by decide
/-- The one fault of the model: a slot operation given to exec while no context is at the focus. -/
theorem test_no_context : (match exec (.add 1 2 3 false) State.reset with | .fault f => f == .noContext | _ => false) = true := by
  decide

/-! For each statement, a state and operands that meet its hypotheses, clause by clause where it has several. -/

theorem met_IntegerOperationsCompute : here.fctx? = some hereCtx ∧ here.bundle = none ∧
    Clear hereCtx (.add 1 2 3 false) [rS 1, rS 2, rS 3] [rS 2, rS 3] ∧ (here.openBundle none 1 none).fctx? = some hereCtx ∧
    (here.openBundle none 1 none).bundle.isSome = true :=
  ⟨here_ctx, here_alone, here_clear _ _ _ (by decide), by decide, here_open⟩
theorem met_ProductsAndQuotientsCompute : here.fctx? = some hereCtx ∧ here.bundle = none ∧
    Clear hereCtx (.div 62 63 0 true) [rS 62, rS 63, rS 0] [rS 63, rS 0] :=
  ⟨here_ctx, here_alone, here_clear _ _ _ (by decide)⟩
theorem met_BitCountsAndSelectionCompute : here.fctx? = some hereCtx ∧ here.bundle = none ∧
    Clear hereCtx (.sel 1 2 3) [rS 1, rS 2, rS 3] [rS 2, rS 3, rS 1] :=
  ⟨here_ctx, here_alone, here_clear _ _ _ (by decide)⟩
theorem met_ImmediateOperationsCompute : here.fctx? = some hereCtx ∧ here.bundle = none ∧
    Clear hereCtx (.insf 1 2 63 0) [rS 1, rS 2] [rS 2, rS 1] ∧ (63 : BitVec 6).toNat + (0 : BitVec 6).toNat + 1 ≤ 64 :=
  ⟨here_ctx, here_alone, here_clear _ _ _ (by decide), by decide⟩
theorem met_VectorArithmeticCompletes : here.fctx? = some hereCtx ∧ here.bundle = none ∧
    Clear hereCtx (.vadd 1 2 3 1 .i32) [rV 1, rV 2, rV 3, rM 1] [rV 2, rV 3, rM 1, rV 1] ∧
    (vOp .and .i32 (here.rctx none .ieee false).1 0 0 0 0).trap = none :=
  ⟨here_ctx, here_alone, here_clear _ _ _ (by decide), rfl⟩
theorem met_VectorIntegerElementsAreRight : VType.fmt? .n8 = none ∧ 2047 < 2048 / VType.width .n8 ∧
    VType.fmt? .i32 = none ∧ 511 < 2048 / VType.width .i32 := by decide
theorem met_FusedCompareAndConvertComplete : here.fctx? = some hereCtx ∧ here.bundle = none ∧
    Clear hereCtx (.vcmpLt 2 0 1 0 .f32) [rM 2, rV 0, rV 1, rM 0] [rV 0, rV 1, rM 0] :=
  ⟨here_ctx, here_alone, here_clear _ _ _ (by decide)⟩
theorem met_ReductionsScansAndPermutationsComplete : here.fctx? = some hereCtx ∧ here.bundle = none ∧
    Clear hereCtx (.vpermBcast 2 1 31 0 .w32 7) [rV 2, rV 1, rM 0] [rV 1, rM 0] ∧ immU none 8 ((31 : BitVec 5) ++ (7 : BitVec 3)) < 512 :=
  ⟨here_ctx, here_alone, here_clear _ _ _ (by decide), by decide⟩
theorem met_PermutedElementsAreRight : 511 < 2048 / ElemW.bytes .w32 ∧ ElemW.bytes .w32 = 4 ∧
    1023 < 2048 / ElemW.bytes .w16 ∧ ElemW.bytes .w16 = 2 ∧ 2047 < 2048 / ElemW.bytes .w8 ∧ ElemW.bytes .w8 = 1 := by decide
theorem met_MathMasksAndMovesComplete : here.fctx? = some hereCtx ∧ here.bundle = none ∧
    Clear hereCtx (.vscWr 31 1 63) [rV 31, rS 1] [rSide 31, rS 1] :=
  ⟨here_ctx, here_alone, here_clear _ _ _ (by decide)⟩
theorem met_BlockOperationsComplete : here.fctx? = some hereCtx ∧ here.bundle = none ∧
    Clear hereCtx (.vblkAnc 3 0 2 0) [rV 3, rV 0, rV 2, rM 0] [rV 0, rV 2, rM 0] :=
  ⟨here_ctx, here_alone, here_clear _ _ _ (by decide)⟩
theorem met_SpecialRegisterAccessCompletes : here.fctx? = some hereCtx ∧ csrKnown 0x80A = true ∧ (0x80A : BitVec 12) ≠ 0x812 ∧
    csrBarred 0x80A hereCtx.arch.priv true = false ∧ csrOwn 0x80A = true ∧
    Clear hereCtx (.csrs 1 2 0x80A) [rS 1, rS 2] [rS 2] ∧
    csrKnown 0x004 = true ∧ csrBarred 0x004 false true = false ∧ csrKnown 0xC00 = true ∧ csrBarred 0xC00 true false = false :=
  ⟨here_ctx, by decide, by decide, by decide, by decide, here_clear _ _ _ (by decide), by decide, by decide, by decide,
    by decide⟩
theorem met_SharedRegisterWritesComplete : here.fctx? = some hereCtx ∧ hereCtx.arch.priv = true ∧
    Clear hereCtx (.csrw 0 1 0x409) [rS 0, rS 1] [rS 1] ∧ fld ((withRegs [(1, 4)]).sreg 1) 2 0 ≤ 4 ∧
    4 < fld ((withRegs [(1, 5)]).sreg 1) 2 0 :=
  ⟨here_ctx, by decide, here_clear _ _ _ (by decide), by decide, by decide⟩
/-- The target of a jump: the loaded bundle itself, landing pad and all. -/
def landed : State :=
  ((State.reset.withFetchWord 32 0x5C000F03).writeScalar 0 0 1 0x10000).writeScalar 0 0 63 0x10000
theorem met_ControlTransfersComplete : here.fctx? = some hereCtx ∧
    (0 : Int) ≤ (hereCtx.arch.pc.addr.toNat * 16 : Nat) + 16 * (0x3FF : BitVec 11).toInt ∧
    landed.translate 0 landed.fctx .fetch 0x10000 = .ok 0x10000 ∧ landed.sreg 1 = 0x10000 ∧ landed.sreg 63 = 0x10000 ∧
    landed.fctx.landsAt 0x10000 0xF03 = true ∧ Clear hereCtx (.jr 1 0xF03) [rS 1] [rS 1] :=
  ⟨here_ctx, by decide, by decide, by decide, by decide, by decide, here_clear _ _ _ (by decide)⟩
/-- A jump table at 0x10008, in the same page, whose word 0 names the bundle at 0x10000. -/
def tabled : State :=
  ((landed.modDev fun d => { d with mem := Mem.writeBytes d.mem 0x10008 (bytesLE 8 0x10000) }).writeScalar 0 0 2
    0x10008).writeScalar 0 0 3 1
theorem met_ControlTransfersComplete_table : (tabled.sreg 0).toNat < (tabled.sreg 3).toNat ∧
    (tabled.sreg 2 + 8 * tabled.sreg 0).toNat = 0x10008 ∧ tabled.dataXlate .read 0x10008 8 = .ok 0x10008 ∧
    tabled.tableWord 0x10008 0x10008 = 0x10000 ∧ tabled.fctx.landsAt 0x10000 (0xF00#12 + (3 : BitVec 8).setWidth 12) = true := by
  decide
theorem met_ScratchpadAccessesComplete : here.fctx? = some hereCtx ∧ (0x7FFF8 : Nat) < 2 ^ 23 ∧
    viewOffs hereCtx.banks 0x7FFF8 8 = some [0x7FFF8, 0x7FFF9, 0x7FFFA, 0x7FFFB, 0x7FFFC, 0x7FFFD, 0x7FFFE, 0x7FFFF] ∧
    0x7FFF8 % 8 = 0 ∧ here.fcore.engineOwns (tileOf 0x7FFF8) = false ∧ here.fcore.unfilledOf [0x7FFF8] = [] ∧
    hereCtx.gate.length < 16 ∧ Clear hereCtx (.st 1 2 .w3 0) [rS 1, rS 2] [rS 1, rS 2] :=
  ⟨here_ctx, by decide, by decide, by decide, by decide, by decide, by decide, here_clear _ _ _ (by decide)⟩
/-- A state whose s2 addresses the loaded page, and the context it has after a first mark. -/
def global : State := withRegs [(2, 0x1FFF8)]
theorem met_GlobalAccessesComplete : global.fctx? = some hereCtx ∧ (global.sreg 2 + immS global.ext 11 0).toNat < 2 ^ 56 ∧
    (global.sreg 2 + immS global.ext 11 0).toNat % 8 = 0 ∧ global.dataXlate .read 0x1FFF8 8 = .ok 0x1FFF8 ∧
    global.dataXlate .write 0x1FFF8 8 = .ok 0x1FFF8 ∧ hereCtx.gate.length < 16 ∧ global.fctx?.isSome = true ∧
    global.marked.fctx?.isSome = true ∧ global.marked.dataXlate .write 0x1FFF8 8 = .ok 0x1FFF8 :=
  ⟨by decide, by decide, by decide, by decide, by decide, by decide, by decide, by decide, by decide⟩
theorem met_AtomicsComplete : global.marked.fctx?.isSome = true ∧ (global.marked.sreg 2).toNat < 2 ^ 56 ∧
    (global.marked.sreg 2).toNat % 8 = 0 ∧ global.marked.dataXlate .readWrite 0x1FFF8 8 = .ok 0x1FFF8 ∧
    isWindow 0x1FFF8 = false ∧ ((global.marked.performAll global.fc global.fp).fctx?).isSome = true ∧
    ((markedOf global).outside (rS 1) = false ∧ (markedOf global).arch.dc = 0) := by decide
/-- The matrix array held, in mode bf16, with row 7 settled. -/
def matrixed : State := withCore fun k => { k with mat := { k.mat with mode := some ⟨.bf16, 0, false, false⟩ } }
theorem met_MatrixOperationsComplete : matrixed.fctx? = some hereCtx ∧ matrixed.fcore.mat.holder = some matrixed.fp ∧
    matrixed.fcore.mat.mode = some ⟨.bf16, 0, false, false⟩ ∧ matrixed.swapStall = none ∧
    matrixed.fcore.mat.lastRow 7 = none ∧ Clear hereCtx (.mzero 255 0) [rA 255] [] :=
  ⟨by decide, by decide, by decide, by decide, by decide, here_clear _ _ _ (by decide)⟩
/-- Ring q1 half full, and s4 the descriptor word of 14's q1. -/
def ringed : State := (withRegs [(4, 0x8000003801000000#64), (5, 0)]).modCore 0 fun k => k.setRing 1 halfRing
theorem met_RingInstructionsComplete : ringed.fctx? = some hereCtx ∧ ringed.marked.fctx?.isSome = true ∧
    (ringed.fcore.ring 1).cside = false ∧ (ringed.fcore.ring 1).occ ≠ 0 ∧ (ringed.fcore.ring 1).pside = false ∧
    (ringed.fcore.ring 1).occ ≠ (ringed.fcore.ring 1).count ∧ (ringed.marked.fcore.ring 1).valid = true ∧
    ringed.marked.fcore.cmds = [] := by decide
theorem met_RingInstructionsComplete_words : rangePhys (markedOf ringed).banks 0 = some [0] ∧ ringed.marked.fcore.engineRingTiles = [] ∧
    bit (ringed.marked.sreg 5) 63 = false ∧ bit (ringed.marked.sreg 4) 63 = true ∧
    fld (ringed.marked.sreg 4) 46 41 ≤ fld (ringed.marked.sreg 4) 40 35 ∧ fld (ringed.marked.sreg 4) 40 35 ≠ 0 ∧
    ((List.range 8).map fun i => 8 + i).mapM (viewTile (markedOf ringed).banks) = some [8, 9, 10, 11, 12, 13, 14, 15] := by decide
/-- A context whose sync and whose barx on channel 12 have been released. -/
def released : State := withCtx fun x => { x with actIn := true, barSent := [(12, 0, true)] }
theorem met_SynchronisationCompletes : released.fctx?.isSome = true ∧ released.marked.fctx?.isSome = true ∧
    (released.marked.sreg 1).toNat < 2 ^ 23 ∧ viewOffs (markedOf released).banks 0 16 = some (List.range 16) ∧
    (List.range 16).all (fun q => !released.marked.fcore.engineOwns (tileOf q)) = true ∧
    released.marked.fcore.unfilledOf (List.range 16) = [] ∧ bit (released.marked.fcore.spWord 0) 63 ≠ true ∧
    (markedOf released).actIn = true ∧ (12, 0, true) ∈ (markedOf released).barSent ∧
    released.marked.drained released.fc released.fp = true ∧ released.marked.ownCmds = [] := by decide
/-- A core whose sync object at 0 has one arrival and 16 bytes pending, and reloads 3 and 0. -/
def sobjCore : Core :=
  { released.core 0 with
    sp := Mem.writeBytes [] 0 (bytesLE 8 (2 ^ 40 + 16) ++ bytesLE 8 (3 * 2 ^ 40)), undef := [], sobj := [⟨0, 1, 16, .context 0 0 0 0 0⟩] }
theorem met_SynchronisationCompletes_sobj : Memory.wf sobjCore.sp = true ∧ fld (sobjCore.spWord 0) 62 40 = 1 ∧
    fld (sobjCore.spWord 0) 39 0 = 16 ∧ (sobjCore.syncPut 0 1 16).2 = true ∧ (sobjCore.syncPut 0 2 16).2 = false ∧
    (sobjCore.syncPut 0 0 16).2 = true := by decide
/-- 07 R237: the phase flips and the counts are reloaded from word 1. -/
theorem test_sobj_phase : (((released.setCore 0 sobjCore).sobjEnd.core 0).spWord 0) = 0x8000030000000000#64 := by decide
theorem met_TrapReturnAndIdleComplete : here.fctx? = some hereCtx ∧ here.bundle = none ∧ hereCtx.arch.priv = true ∧
    Clear hereCtx .eret [] [] :=
  ⟨here_ctx, here_alone, by decide, here_clear _ _ _ (by decide)⟩
/-- Rings q1 and q2 valid, and an identity shape of one byte a row in entry 0. -/
def engines : State := (withRegs [(2, 0x100), (6, 0x1000)]).modCore 0 fun k => (k.setRing 1 halfRing).setRing 2 halfRing
theorem met_EngineCommandsComplete : engines.fctx?.isSome = true ∧ engines.marked.fctx?.isSome = true ∧
    (engines.marked.fcore.ring 1).valid = true ∧ (engines.marked.fcore.ring 2).valid = true ∧
    (List.range 5).all (fun e => decide ((engines.marked.fcore.cmds.countP fun m => m.eng == e) + engines.marked.stagedCmds e < 32)) = true ∧
    (engines.marked.sreg 1).toNat ≤ 1023 ∧ (engines.marked.sreg 1).toNat ≤ 4095 ∧
    viewOffs (markedOf engines).banks 0 64 = some (List.range 64) ∧
    rangePhys (markedOf engines).banks 0 = some [0] ∧ engines.marked.regionsNow.length < 8 ∧
    (engines.marked.rmapBase false (engines.marked.sreg 6)).isSome = true := by decide
/-- v1, s2 and the first mask lane, for a vector access of the first 2,048 bytes of a raw bank. -/
theorem met_VectorMemoryAccessesComplete : here.fctx? = some hereCtx ∧
    ((here.vCheck 0 .raw false).toOption.map VAcc.offs).isSome = true ∧
    ((here.vCheck 0 .raw true).toOption.map VAcc.kind).isSome = true ∧ hereCtx.gate.length < 16 :=
  ⟨here_ctx, by decide, by decide, by decide⟩
/-- A context with two stall steps left, one whose bundle is nullified, and one whose load has its value. -/
def loadAcc : Access :=
  { id := 5, ord := 5, kind := .ldg, va := 0x10000, pa := 0x10000, len := 8, zext := false, bytes := [], fwd := [],
    got := some 7, win := false, acq := false, rel := false, atom := none }
theorem met_StepsResultsAndRepliesHappen : here.ctx? 0 0 = some hereCtx ∧ here.focus = (0, 0) ∧
    (withCtx fun x => { x with stalls := 2 }).fctx.stalls ≠ 0 ∧
    (withCtx fun x => { x with arch := { x.arch with pc := ⟨0x1000, true⟩ } }).fctx.arch.pc.n = true ∧
    (withCtx fun x => { x with acc := [loadAcc] }).fctx.acc.find? (fun a => a.id == 5) = some loadAcc ∧
    loadAcc.got = some 7 ∧ loadAcc.pending = false ∧ (withCtx fun x => { x with acc := [loadAcc] }).fctx.run = .ready := by
  decide
/-- A core frozen on account of its context since cycle 0, for a bound of 4,096 cycles. -/
def frozen (k : FrzKind) : State :=
  { withCore fun q => { q with freeze := some ⟨0, 0, 4096, k⟩ } with cycle := 300000 }
theorem met_StepsResultsAndRepliesHappen_walks : ((frozen (.xlate 0x30000)).core 0).freeze = some ⟨0, 0, 4096, .xlate 0x30000⟩ ∧
    (frozen (.xlate 0x30000)).dev.walk 0x30000 = none := by decide
theorem met_TrapAndWaitEventsHappen : here.ctx? 0 0 = some hereCtx ∧ here.focus = (0, 0) ∧
    (hereCtx.withPend .timer 9).nextPend = some ⟨.timer, 9⟩ ∧ Cause.isMachineCheck .timer = false ∧
    (hereCtx.withPend .mcData 9).nextPend = some ⟨.mcData, 9⟩ ∧ Cause.isMachineCheck .mcData = true ∧
    hereCtx.arch.inHandler = false ∧ hereCtx.arch.bpExempt = false ∧ hereCtx.arch.pc.n = false ∧
    hereCtx.arch.pc.addr.toNat = fld 0x10000 55 4 ∧ (5 : Word) ≠ 0 ∧
    (withCore fun k => { k with turnSteps := 5 }).fcore.turnSteps = (5 : Word).toNat := by decide
theorem met_TrapAndWaitEventsHappen_pends : bit (0x10 : Word) 4 = true ∧ (0 : Word).toNat ≤ here.cycle ∧
    hereCtx.hasPend .timer = false ∧ hereCtx.hasPend .hostEvent = false ∧
    (hereCtx.withPend .hostEvent 1).hasPend .hostEvent = true ∧
    4096 * fld (here.core 0).watchdog 31 0 < 16777217 - 0 ∧ hereCtx.hasPend .syncTimeout = false ∧
    ({ hereCtx with run := .parked } : Ctx).hostParked = true ∧ (here.performAll 0 0).drained 0 0 = true ∧
    hereCtx.barSent = [] := by decide
theorem met_TrapAndWaitEventsHappen_barrier :
    let s := withDev fun d => d.setChan 12 2 1
    fld (s.dev.chanWord 12 2) 15 0 ≠ 0 ∧ 65536 * fld (s.dev.chanWord 12 2) 15 0 < 65537 - 0 ∧
    hereCtx.hasPend .barrierTimeout = false := by decide
theorem met_FreezesAndErrorsAreHandled : (frozen (.xlate 0)).ctx? 0 0 = some hereCtx ∧
    ((frozen (.migrate 0)).core 0).freeze = some ⟨0, 0, 4096, .migrate 0⟩ ∧ 0 + 4096 ≤ (frozen (.migrate 0)).cycle ∧
    (frozen (.migrate 0)).pgmig = false ∧ hereCtx.hasPend .freezeTimeout = false ∧
    64 * fld ((frozen (.migrate 0)).core 0).watchdog 31 0 < (frozen (.migrate 0)).cycle - 0 ∧
    ((frozen (.migrate 0)).core 0).ctxs = [(0, hereCtx)] ∧ hereCtx.run ≠ .retired ∧
    hereCtx.window = none ∧ ((frozen (.migrate 0)).core 0).mat.holder = some 0 := by decide
theorem met_FreezesAndErrorsAreHandled_replies :
    let s := (frozen (.reply 5)).modCtx 0 0 fun x => { x with acc := [loadAcc] }
    s.fctx.acc.find? (fun a => a.id == 5) = some loadAcc ∧ loadAcc.kind ≠ .atomic ∧ s.pageHere (pageOf loadAcc.va) = true ∧
    0 + 16 * fld (s.core 0).watchdog 31 0 ≤ s.cycle := by decide
/-- A page table at 0x100000 whose one page of 1 GiB maps addresses 0 to 2^30 - 1 to themselves for every use. -/
def mapped : State := withDev fun d => { d with
  ptroot := 0x100000, mem := Mem.writeBytes (Mem.writeBytes d.mem 0x100000 (bytesLE 8 0x200001)) 0x200000 (bytesLE 8 0x1F) }
/-- A page table at 0x100000 whose one page of 64 KiB at 0x10000 is host-visible, and owned as the last bit says. -/
def shared (hown : Nat) : State := withDev fun d => { d with
  ptroot := 0x100000,
  mem := Mem.writeBytes (Mem.writeBytes (Mem.writeBytes (Mem.writeBytes d.mem 0x100000 (bytesLE 8 0x200001)) 0x200000
    (bytesLE 8 0x300001)) 0x300000 (bytesLE 8 0x400001)) 0x400008 (bytesLE 8 (0x1000000000500000 + 0x1F + hown * 2 ^ 61)) }
theorem test_walk : (mapped.dev.walk 0x12345).map (fun e => (e.va, e.size, e.phys 0x12345)) = some (0, 0x40000000, 0x12345) ∧
    ((shared 1).dev.walk 0x12345).map (fun e => (e.va, e.size, e.phys 0x12345, e.hv, e.hown)) =
      some (0x10000, 0x10000, 0x502345, true, true) := by decide
theorem met_StepsResultsAndRepliesHappen_walk : ((frozen (.xlate 0x30000)).modDev fun _ => mapped.dev).dev.walk 0x30000 =
    some (leafEnt 1 0x30000 0x1F) := by decide
/-- A record of one core at class 1 with task type 0, and the task-type table with it: 8 scalars, 4 vectors, one bank. -/
def record : LRec :=
  { words := [0x0400000000000000#64, 0, 0, 0, 0, 0, 0, 0, 0, 0, 0, 0, 0, 0, 0, 0], queue := some 3, count := 0, gangIdx := 0,
    dog := none, saved := none }
def listed : State := { State.reset with
  dev := { Dev.reset with
    bootst := 4,
    taskTab := [(0, 0x8000000000000000#64), (1, 0x1011)], irrTab := Tab.set Dev.reset.irrTab 80 60000, classq := [(1, [record])] } }
/-- A gang of the one core 0. -/
def oneGang (st : GangSt) : Gang :=
  { launch := record, tt := [0x8000000000000000#64, 0x1011], st := st, die := 0, row := 0, col := 0, w := 1, h := 1, line := 0,
    cls := 1, cool := 0, budget := some 100, ebal := 60, placedAt := 0, order := 0, coresLeft := [0], groups := [], slots := [],
    energy := 0, esat := false, lastMig := none, dest := none }
/-- The loaded context as the one context of gang 0 in a state of its own. -/
def ganged (st : GangSt) (f : Ctx → Ctx) : State :=
  { (withCtx f).modDev fun d => { d with gangs := [(0, oneGang st)], savebase := 0x1000000, saveslots := 4 } with cycle := 300000 }
theorem met_GangEventsHappen_placement : listed.dev.coresHeld = false ∧ (1 : Nat) < 8 ∧ listed.dev.preempt = [] ∧ listed.classQueue 0 = [] ∧
    listed.classQueue 1 = [record] ∧ record.saved = none ∧ taskOk (listed.wantOf record).tt (listed.wantOf record).cpc = true ∧
    (listed.chooseRect [] (listed.wantOf record)).isSome = true := by decide
theorem met_GangEventsHappen_empty : (List.range 8).all (fun j => (State.reset.classQueue j).isEmpty) = true ∧
    State.reset.dev.preempt = [] ∧ ({ hereCtx with run := .starting 4 } : Ctx).run = .starting 4 := by decide
/-- 13 R424: the stages of BOOTST in which the cores are held in reset. -/
theorem met_GangEventsHappen_held :
    ([0, 1, 15].all fun n => (withDev fun d => { d with bootst := n }).dev.coresHeld) = true ∧
    ([2, 3, 4].all fun n => !(withDev fun d => { d with bootst := n }).dev.coresHeld) = true := by decide
theorem met_GangEventsHappen_saving : Tab.find? (ganged .saving id).dev.gangs 0 = some (oneGang .saving) ∧
    (ganged .saving id).saveReady 0 (oneGang .saving) = true ∧ (ganged .saving id).reclaimWait 0 (oneGang .saving) = none := by
  decide
theorem met_GangEventsHappen_retirement :
    let s := ganged .placed fun x => { x with run := .retired }
    Tab.find? s.dev.gangs 0 = some (oneGang .placed) ∧ s.groupEnded 0 0 = true ∧ (oneGang .placed).st = .placed ∧
    s.wbWait 0 (s.core 0).wbFails (s.reclaimCells 0 0) = none ∧ s.fctx.gang = 0 ∧ s.gangOn 0 = some (0, oneGang .placed) := by decide
theorem met_GangEventsHappen_sync :
    let s := ganged .placed fun x => { x with run := .blocked .sync 0, syncIn := true }
    s.syncReady 0 = true ∧ s.fctx.atSync = true ∧ (oneGang .placed).cores = [0] := by decide
theorem met_GangEventsHappen_claim :
    let s := State.reset.modCluster 0 fun q => { q with claims := [⟨0, 180, 0, [0]⟩] }
    (s.dev.cluster 0).claims = [⟨0, 180, 0, [0]⟩] ∧ s.rampDue 0 = true := by decide
/-- A gang of class 2 takes all the coolant there is, and a record of class 1 waits. -/
def full : State := { listed with
  dev := { listed.dev with
    saveslots := 1, savebase := 0x1000000, irrTab := Tab.set (Tab.set Dev.reset.irrTab 64 (60 * 2 ^ 16)) 80 60,
    gangs := [(0, { oneGang .placed with cls := 2 })], nextGang := 1 } }
theorem met_GangEventsHappen_preemption : full.blockedHead = some (1, full.wantOf record) ∧
    (full.victims (full.wantOf record) [] [] (full.eligible 1)).isSome = true := by decide
/-- Queue 3 resident with room for 4 records, tail at 1, its records at 0x80000 in device memory, through an identity map. -/
def queued : State := { listed with
  die0 := { Die.reset with tlb := [leafEnt 1 0 0x1F] },
  dev := { mapped.dev with
    taskTab := listed.dev.taskTab, irrTab := listed.dev.irrTab, qtcount := 4, qtbase := 0x90000, resident := [3],
    queues := [(3, { LQueue.reset with base := 0x80002, last := 4, tail := 1 })] } }
theorem met_LaunchQueueEventsHappen : (3 : Nat) < queued.dev.qcount ∧ (3 ∈ queued.dev.resident) ∧
    (queued.dev.lqueue 3).error = false ∧
    tailOk (fld (queued.dev.lqueue 3).base 4 0) (queued.dev.lqueue 3).progress (queued.dev.lqueue 3).head 4 = true ∧
    tailOk (fld (queued.dev.lqueue 3).base 4 0) (queued.dev.lqueue 3).progress (queued.dev.lqueue 3).head 5 = false ∧
    (2 ∉ queued.dev.resident) ∧ queued.dev.qcount ≤ 4 ∧ queued.mayForward 3 = true := by decide
theorem met_LaunchQueueEventsHappen_entry :
    let s := queued.modDev fun d => { d with pendingQ := [2], mem := Mem.writeBytes d.mem 0x90040 (bytesLE 8 0x80002) }
    s.queueEntry 2 = some (0x80002, 0, 0) ∧ s.dev.pendingQ.head? = some 2 ∧ s.dev.resident.length < 64 ∧
    2 ≤ fld (0x80002 : Word) 4 0 ∧ fld (0x80002 : Word) 4 0 ≤ 15 ∧ bit (0x80002 : Word) 6 = false ∧
    tailOk 2 0 0 1 = true ∧ (s.hostqPut (s.dev.qentry 2 1) (bytesLE 4 1)).isSome = true := by decide
theorem met_LaunchQueueEventsHappen_records : queued.headRecord 3 ≠ none ∧
    ((queued.headRecord 3).map fun r => (queued.waitMet r, queued.recordOk r)) = some (true, true) ∧
    ({ queued with die0 := Die.reset, dev := { queued.dev with ptroot := 0x900000 } }).headRecord 3 = none := by decide
theorem met_LaunchQueueEventsHappen_done :
    let s := queued.modDev fun d => { d with queues := [(3, { LQueue.reset with base := 0x80002, last := 4, error := true })] }
    s.queueDone 3 = true ∧ (s.hostqPut (s.dev.qentry 3 0) (bytesLE 8 0x80042 ++ bytesLE 4 0 ++ bytesLE 4 0 ++ bytesLE 8 0)).isSome =
      true := by decide
theorem met_SheepdogEventsHappen :
    let a : Arrival := ⟨7, 1⟩
    (withDev fun d => { d with heldArr := [(2, a)] }).dev.heldArr.find? (fun h => h.1 == 2) = some (2, a) ∧
    (here.dev.arrivalsOf 2).length < 512 ∧ (a ∉ here.dev.arrivalsOf 0) ∧ here.dogWaiting = false ∧
    512 ≤ (((List.range 512).map fun i => (⟨i, 0⟩ : Arrival)).length) := by decide
/-- A policy row 0 that takes the oldest of queue 1, whatever stands, and an arrival there. -/
def dogged : State := withDev fun d => { d with
  sctl := 0x8000000000000000#64, arrivals := [(1, [⟨7, 1⟩])], polTab := [(0, 0xC000000000000000#64), (1, 0x4000000000000000#64)] }
theorem met_SheepdogEventsHappen_row :
    let u := (dogged.modDev fun d => { d with dogDue := false }).vintagesReady
    bit u.dev.sctl 63 = true ∧ bit u.funcMode 0 = false ∧ u.dogWaiting = false ∧ u.dev.polWord 0 0 = 0xC000000000000000#64 ∧
    (u.dev.rowPick 0).isSome = true ∧ (dogged.dev.arrivalsOf 1).findIdx? (· == ⟨7, 1⟩) = some 0 := by decide
/-- A region tile 0 of core 0 that is being filled from 0x40000. -/
def filling : State := ({ queued with cores := here.cores }).modCore 0 fun k =>
  { k with tiles := [(0, { filled := false, filling := true, base := 0x40000, priv := true, dirty := 0, flushed := 0, held := [] })] }
theorem met_MapUnitEventsHappen : (Tab.find? (filling.core 0).tiles 0).isSome = true ∧
    filling.migrateNeed 0 true .read 0x40000 0x2000 = none ∧
    ({ filling with die0 := (shared 1).die0, dev := (shared 1).dev }).migrateNeed 0 true .read 0x10000 0x2000 = some 0x10000 := by
  decide
theorem met_MapUnitEventsHappen_words : (withDev fun d => { d with invBusy := some 0x8000000000000000#64 }).dev.invBusy =
      some 0x8000000000000000#64 ∧ bit (0x8000000000000000#64 : Word) 63 = true ∧ 0 < invSize 0x10000 ∧
    here.dev.invBusy = none ∧ here.dev.migs = [] ∧ (shared 1).movable 0x10000 false = true ∧
    (shared 0).movable 0x10000 true = true ∧ here.movable 0x10000 false = false ∧
    (withDev fun d => { d with migs := [⟨0x10000, true⟩] }).dev.migs.find? (fun g => g.page == 0x10000) =
      some ⟨0x10000, true⟩ := by decide
/-- A command of a function at the head of its engine's queue on core 0. -/
def cmdOf (eng fn : Nat) : Cmd :=
  { id := 0, eng := eng, fn := fn, place := 0, gang := 0, coreIdx := 0, field0 := 0, ordinal := 0, sa := 0, sb := 0, qa := 1,
    qb := 2, priv := true, mbt := 0, stage := 0, shape := List.replicate 32 0, md := 0, sr := 1, banks := [0, 1], range := [],
    order := 0, accOrd := 0, st := .queued, data := [], aux := 0, page := none, waitTiles := [], cells := [], bad := none }
def engine (m : Cmd) : State := here.modCore 0 fun k =>
  { (k.setRing 1 { halfRing with pside := true, cside := true }).setRing 2 { halfRing with pside := true, cside := true } with
    cmds := [m] }
theorem met_MapUnitEventsHappen_commands : [8, 9, 10].all (fun f => (engine (cmdOf 4 f)).nextFor 0 4 == some (cmdOf 4 f)) = true ∧
    (engine (cmdOf 4 9)).wbWait 0 [] [] = none ∧ (engine (cmdOf 4 9)).wbBad 0 [] [] = [] := by decide
theorem met_CopyAndPressEventsHappen : (engine (cmdOf 0 0)).nextFor 0 0 = some (cmdOf 0 0) ∧
    ((engine (cmdOf 0 0)).core 0).ringsAdmit (cmdOf 0 0) = true ∧ (engine (cmdOf 1 1)).nextFor 0 1 = some (cmdOf 1 1) ∧
    ((engine (cmdOf 1 1)).core 0).ringsAdmit (cmdOf 1 1) = true ∧
    ((engine { cmdOf 1 1 with st := .fired }).core 0).cmds.find? (fun m => m.fn == 1 && m.st == .fired) =
      some { cmdOf 1 1 with st := .fired } ∧ viewOffs hereCtx.banks 0 8 = some (List.range 8) := by decide
theorem met_CellarEventsHappen : (engine (cmdOf 2 2)).nextFor 0 2 = some (cmdOf 2 2) ∧
    ((engine (cmdOf 2 2)).core 0).ringsAdmit (cmdOf 2 2) = true ∧ (engine (cmdOf 2 4)).readyDrop 0 = none ∧
    (engine (cmdOf 2 4)).stashBefore 0 0 = false ∧ (engine (cmdOf 2 4)).dev.laterKey 0 0 = false ∧
    (engine (cmdOf 2 4)).dirRoom 0 = true ∧ (engine (cmdOf 2 3)).nvmeBusy 0 (cmdOf 2 3) = false ∧
    ((engine { cmdOf 2 2 with st := .fired }).core 0).cmd? 0 = some { cmdOf 2 2 with st := .fired } ∧
    (engine { cmdOf 2 2 with aux := 1 }).celdecFor 0x0100000000000000#64 = some (0, { cmdOf 2 2 with aux := 1 }) ∧
    fld (0x0100000000000000#64 : Word) 57 56 ≠ 0 := by decide
/-- A read of one block that a queue pair of a storage port carries. -/
def nvOp : NvOp := { id := 2, write := false, port := 0, nsid := 1, lba := 0, blocks := 1, tries := 0, pair := some 0 }
theorem met_CellarEventsHappen_entries :
    let e : CEntry := { stashed := true, tier := 2, units := [], size := 0, bytes := 0 }
    let s := withDev fun d => { d with cellar := [(0x100, e)], prefs := [⟨0x100, [3], 0⟩], nvmeOps := [nvOp] }
    Tab.find? s.dev.cellar (0x100 : BitVec 24).toNat = some e ∧ e.tier ≠ 1 ∧
    s.dev.prefs.find? (fun p => p.key == (0x100 : BitVec 24).toNat) = some ⟨0x100, [3], 0⟩ ∧
    (∀ o ∈ s.dev.nvmeOps, o.id ≠ nvmeId 1024 0 0) ∧
    s.dev.nvmeOps.find? (fun o => o.id == 2 && o.pair.isSome) = some nvOp := by decide
theorem met_NetworkCommandsFire : [5, 6, 7].all (fun f => (engine (cmdOf 3 f)).nextFor 0 3 == some (cmdOf 3 f)) = true ∧
    ((engine (cmdOf 3 5)).core 0).ringsAdmit (cmdOf 3 5) = true ∧ (engine (cmdOf 3 5)).dev.chanOk 0 = false ∧
    bit ((((engine (cmdOf 3 6)).performFor (cmdOf 3 6)).die 0).word 0 0) 63 = false ∧
    armBad [0, 0, 0, 0, 0, 0, 8, 0] = false ∧
    ((engine { cmdOf 3 5 with st := .fired }).core 0).cmd? 0 = some { cmdOf 3 5 with st := .fired } := by decide
/-- A message for the device of identifier 0, which is this one, and what follows of it for another. -/
def message : Msg :=
  { kind := 0, dst := 0, src := 1, route := 0, hops := 0, det := false, dirn := false, ch := 0, seq := 0, rcen := false,
    rctr := 0, runit := false, accop := 1, rdie := false, tag := 0, slots := 1, sbytes := 0, format := 0, word1 := 0x40000,
    fromAddr := 0x40000, len := 8, op := 0, cause := 0, reason := 0, detail := 0, comp := false, data := List.replicate 8 1, via := none }
theorem met_MessagesArePerformed : message.dst = queued.dev.id ∧ { message with dst := 5 }.dst ≠ queued.dev.id ∧
    message.route.toNat ≠ 1 ∧ message.route.toNat ≠ 2 ∧ message.comp = false ∧
    msgBehind queued.dev.waitMsgs { message with kind := 7 } = false ∧ queued.dev.discards { message with kind := 7 } = false ∧
    queued.msgReach { message with kind := 7 } = .ok ∧ queued.accepts { message with kind := 0 } = false ∧
    fabSide message.word1 message.data.length = some (.glob 0x40000) ∧ message.accop.toNat ≤ 4 ∧
    accAligned message.accop.toNat (.glob 0x40000) 8 = true ∧ State.reset.dev.bootst ≠ 4 ∧ Msg.port message = none := by decide
theorem met_MessagesArePerformed_window :
    let s := queued.modDev fun d => { d with bootst := 4 }
    s.dev.bootst = 4 ∧ (s.memberAccess { message with word1 := 0x10 }).2.isSome = true ∧
    (s.memberAccess { message with word1 := 0x10, op := 1 }).2 = none := by decide
theorem met_PortAndTrellisEventsHappen : (Tab.get State.reset.dev.ports Port.reset 7).refusals < 7 ∧
    (Tab.get State.reset.dev.ports Port.reset 7).state = 0 ∧ (Tab.get [(7, { Port.reset with refusals := 7, state := 1 })] Port.reset 7).state = 1 ∧
    (Tab.get [(7, { Port.reset with refusals := 7, state := 2 })] Port.reset 7).state = 2 ∧
    bit (0x8000000000000000#64 : Word) 63 = true ∧ bit (0 : Word) 63 = false ∧ (1 : Nat) < 2 ∧
    (4095 ∈ { Die.reset with refire := [4095] }.refire) ∧
    ({ w0 := 0x0100000000000000#64, fthr := 0, gbuf := 0, progress := 0, forwarded := false, startMet := true, wrote := [] } : Group).startMet = true := by
  decide
theorem met_WindowAndBootEventsHappen : (1023 : Nat) < 1024 ∧ (7 : Nat) < 8 ∧ (63 : Nat) < 64 ∧ (here.ctx? 0 0).isSome = true ∧
    fld (1 : Word) 1 0 = 1 ∧ fld (2 : Word) 1 0 = 2 ∧ 0x20008 % 8 = 0 ∧ State.reset.dev.bootst ≠ 15 ∧
    State.reset.dev.waiting = [] ∧ State.reset.dev.devidSet = false ∧ bit State.reset.dev.attStatus 0 = false ∧
    bit (1 : Word) 0 = true ∧ State.reset.dev.bootst = 0 := by decide
theorem met_PowerEventsHappen : (17 : Nat) < 18 ∧ bit (Tab.get State.reset.dev.energyTab 0 (129 + 2 * 17)) 2 = false ∧
    fld (Tab.get State.reset.dev.energyTab 0 200) 15 0 ≤ fld (Tab.get State.reset.dev.energyTab 0 201) 15 0 ∧
    State.reset.thermalPick 0 = none ∧ bit (Tab.get State.reset.dev.valveTab 0 (4 * 19)) 63 = false ∧
    Tab.find? State.reset.dev.evacs 19 = none ∧ (18 : Nat) % 10 ≠ 9 ∧ (State.reset.dev.cluster 35).hot = false := by decide
theorem met_PowerEventsHappen_zone :
    let e : Evac := { failed := false, flushFrom := 0, valve := 128, gangs := [] }
    let s := { withDev fun d => { d with
      evacs := [(19, e)], valveTab := Tab.set d.valveTab 79 0x8000000000000000#64,
      irrTab := Tab.set (Tab.set d.irrTab 38 (1000 * 2 ^ 32)) 36 (1000 * 2 ^ 32 + 500 * 2 ^ 48),
      sensors := [(72, { since := some 0, raised := false, ceased := none })] } with cycle := 60000000 }
    Tab.find? s.dev.evacs 19 = some e ∧ e.failed = false ∧ e.flushFrom + 60000000 ≤ s.cycle ∧ s.floorOf 19 ≤ s.flowOf 19 ∧
    bit (Tab.get s.dev.valveTab 0 79) 63 = true ∧ s.flowOf 18 < s.floorOf 18 ∧ (s.dev.sensor 72).due 6000000 s.cycle = true ∧
    s.sensorHolds 72 = true := by decide

theorem met_DecodingUndoesEncoding : Instr.wf (.add 10 4 5 false) = true ∧ encodeNat (.add 10 4 5 false) = some 0x04A10500 := by decide
theorem met_EncodingUndoesDecoding : 0x04A10500 < 2 ^ 32 ∧ decodeWord 0x04A10500 = some (.add 10 4 5 false) := by decide
/-- The loaded instruction's state, whose agenda gives its context the turn. -/
def loaded : State := State.reset.withFetchWord 32 0x24D00020
theorem met_StepRunsTheDecodedBundle :
    let s1 := { loaded with agenda := [] }
    let s2 := s1.takeTurn 0 0
    let b := decodeBytes (s2.fctx.fetchBytes 0x10000)
    loaded.agenda = .issue 0 0 :: [] ∧ s1.issuer 0 = some 0 ∧ s2.fctx?.isSome = true ∧ s2.hasDue 0 0 = false ∧
    s2.fctx.lateId = none ∧ s2.fctx.arch.pc.n = false ∧ s2.fctx.inUnit = false ∧ s2.quantumFirst s2.fctx = false ∧
    s2.fctx.nextPend = none ∧ s2.fctx.atBreakpoint = false ∧
    s2.translate 0 s2.fctx .fetch (16 * s2.fctx.arch.pc.addr.toNat) = .ok 0x10000 ∧
    (s2.beginUnit b).fctx.stalls = 0 ∧ (liveSlots b).map SlotDec.slot = [0] ∧
    (liveSlots b).all (fun d => match d.op with | .ok i => i == .li 13 32 | .error _ => false) = true := by decide
/-- The same with a header that asks for two stall steps. -/
theorem met_StepRunsTheDecodedBundle_stall :
    let s := State.reset.loadBundle (leBytes 16 0xFC400000)
    let s2 := { s with agenda := [] }.takeTurn 0 0
    (s2.beginUnit (decodeBytes (s2.fctx.fetchBytes 0x10000))).fctx.stalls = 2 := by decide
theorem met_BundlesCommitTogether : here.fctx? = some hereCtx ∧ here.bundle = none ∧ (0 : Nat) < 3 ∧
    bit hereCtx.arch.check 0 = false ∧ [rS 1, rS 62, rS 63, rS 0].all (fun r => !hereCtx.outside r) = true ∧
    (withCtx fun x => { x with sCount := 8 }).fctx.outside (rS 8) = true ∧
    (withCtx fun x => { x with sCount := 8 }).fctx.outside (rS 62) = true := by decide
theorem met_EveryStepKeepsMemoryCanonical : loaded.memOk = true ∧ (match step loaded with | .next _ => true | _ => false) = true := by
  decide
theorem met_TrapEntrySavesTheContext : ((here.applyDue 0 0).ctx? 0 0).isSome = true ∧ hereCtx.flights = [] ∧
    bit here.funcMode (8 + causeGroup Cause.brk.code) = false ∧
    bit (withDev fun d => { d with funcmode := 0x3F00 }).funcMode (8 + causeGroup Cause.brk.code) = true := by decide
theorem met_TrapReturnRestoresTheContext : here.ctx? 0 0 = some hereCtx := by decide
theorem met_ReturnUndoesEntry :
    let f : Flight := hereCtx.flight 0 4 (.scalar 5 1)
    let s := withCtx fun x => { x with flights := [f] }
    (s.applyDue 0 0).fctx.flights = [f] ∧ f.lvl = hereCtx.arch.lvl ∧ hereCtx.stepNo ≤ f.due ∧
    bit s.funcMode (8 + causeGroup Cause.timer.code) = false := by decide
theorem met_StagePrivilegeIsKept :
    let s := withCtx fun x => { x with arch := { x.arch with priv := false } }
    encodeNat (.trap 1) ≠ none ∧ s.fctx?.isSome = true ∧ s.fctx.arch.priv = false ∧
    (match exec (.trap 1) s with | .next t => t.fctx.arch.priv && t.fctx.arch.inHandler | _ => false) = true := by decide
theorem met_AccessFaultsTrap : here.bundle = none ∧ here.fctx? = some hereCtx ∧ here.marked.fctx?.isSome = true ∧
    2 ^ 23 ≤ ((withRegs [(2, 0x800000)]).sreg 2).toNat ∧ viewOffs hereCtx.banks 0x80000 1 = none ∧
    (viewOffs hereCtx.banks 0x7FFFC 4).isSome = true ∧ (0x7FFFD : Nat) % 4 ≠ 0 ∧
    (withCore fun k => { k with owner := 1 }).fcore.engineOwns (tileOf 0) = true ∧
    2 ^ 56 ≤ ((withRegs [(2, 0x100000000000000#64)]).sreg 2).toNat ∧
    ((frozen (.xlate 0)).modCtx 0 0 fun x => { x with walks := [(3, .fault .pageNotPresent)] }).dataXlate .read 0x30000 8 =
      .fault .pageNotPresent := by decide
theorem met_ControlAndRegisterFaultsTrap :
    let user := withCtx fun x => { x with arch := { x.arch with priv := false } }
    csrKnown 0x005 = false ∧ csrKnown 0x800 = true ∧ user.fctx.arch.priv = false ∧ (0x800 : BitVec 12).getLsbD 11 = true ∧
    (0x400 : BitVec 12).getLsbD 10 = true ∧ (0xC00 : BitVec 12).getLsbD 10 = true ∧ (0xC00 : BitVec 12).getLsbD 11 = true ∧
    (here.sreg 3).toNat ≤ (here.sreg 1).toNat ∧ landed.fctx.landsAt 0x10000 0xF04 = false ∧
    landed.translate 0 landed.fctx .fetch 0x10000 = .ok 0x10000 ∧
    ((engine (cmdOf 1 1)).fcore.ring 1).cside = true ∧ ((engine (cmdOf 1 1)).fcore.ring 1).pside = true ∧
    (here.marked.fcore.ring 5).valid = false ∧ (here.marked.fcore.ring 5).occ = 0 ∧
    (withCore fun k => { k with mat := MatUnit.reset }).fcore.mat.holder ≠ some here.fp := by decide
theorem met_EarlyChecksTrap :
    let d := withCtx fun x => { x with arch := { x.arch with dc := 1 } }
    let n := withCtx fun x => { x with sCount := 8 }
    let c := withCtx fun x => { x with
      flights := [x.flight 0 4 (.scalar 2 0)], arch := { x.arch with check := 1 } }
    let g := withCtx fun x => { x with gate := List.replicate 16 (.sp [] false) }
    0 < d.fctx.arch.dc ∧ 0 < (markedOf d).arch.dc ∧ [rS 1, rS 8, rS 9].find? n.fctx.outside = some (rS 8) ∧
    c.fctx.premature [rS 2, rS 3] = some (rS 2) ∧ bit c.fctx.arch.check 0 = true ∧ 16 ≤ g.fctx.gate.length ∧
    g.spCheck 0 1 1 = .ok [0] := by decide
theorem met_WaitsBlock :
    let b := withCtx fun x => { x with acc := [{ loadAcc with got := none }] }
    let o := here.modCore 0 fun k => { k with cmds := [cmdOf 2 4] }
    let f := here.modCore 0 fun k => k.setRing 1 { halfRing with prod := 2 }
    (here.fcore.ring 1).cside = false ∧ (here.fcore.ring 1).occ = 0 ∧ (f.fcore.ring 1).pside = false ∧
    (f.fcore.ring 1).occ = (f.fcore.ring 1).count ∧ here.marked.spCheck 0 16 16 = .ok (List.range 16) ∧
    bit (here.marked.fcore.spWord 0) 63 = false ∧ (markedOf here).actIn = false ∧ (markedOf here).barSent = [] ∧
    (withDev fun d => d.setChan 12 0 0x8000000000000000#64).marked.dev.chanOk 12 = true ∧
    b.marked.drained b.fc b.fp = false ∧ o.marked.ownCmds ≠ [] := by decide
theorem met_RollbackReturnsToTheMark : (here.takeMark 0 0).fctx.mark.isSome = true ∧ ((here.takeMark 0 0).ctx? 0 0).isSome = true ∧
    ((here.takeMark 0 0).fctx.mark.map fun m => m.sregs.length) = some 64 := by decide
theorem met_PendingTrapsComeInOrder :
    bestPend [⟨.timer, 1⟩, ⟨.mcData, 2⟩, ⟨.mcData, 3⟩] = some ⟨.mcData, 2⟩ ∧
    ({ hereCtx with pends := [⟨.timer, 1⟩, ⟨.mcData, 2⟩] } : Ctx).nextPend = some ⟨.mcData, 2⟩ ∧
    ({ hereCtx with pends := [⟨.timer, 1⟩], arch := { hereCtx.arch with inHandler := true } } : Ctx).nextPend = none := by decide
theorem met_ResultsAreWrittenWhenDue :
    let f : Flight := hereCtx.flight 0 0 (.scalar 5 1)
    let g : Flight := hereCtx.flight 1 0 (.scalar 5 2)
    let s := withCtx fun x => { x with flights := [f, g] }
    s.fctx.flights = [f, g] ∧ s.fctx.isDue f = true ∧ s.fctx.isDue g = true ∧ s.fctx.isDue (hereCtx.flight 0 1 (.scalar 5 1)) = false ∧
    (s.applyDue 0 0).sreg 5 = 2 := by decide
theorem met_RegistersReadWhatWasWritten : here.ctx? 0 0 = some hereCtx ∧
    ((here.setCtx 0 1 { hereCtx with sBase := 64 }).ctx? 0 1).isSome = true ∧ 64 + 63 ≠ hereCtx.sBase + 5 := by decide
theorem met_MemoryReadsWhatWasWritten : Memory.wf [(3, 1), (4, 2)] = true ∧
    Mem.write [(3, 1), (4, 2)] 3 memDefault = [(4, 2)] ∧ Memory.wf [(4, 2)] = true ∧ Memory.wf [(4, 0)] = false ∧
    Memory.wf [(4, 1), (3, 1)] = false := by decide
theorem met_SpecialRegistersKeepTheirFields : here.fctx? = some hereCtx ∧ here.dev.funcPast = [] := by decide

/-! Further clauses of the same statements, at their bounds. -/

theorem met_StepsResultsAndRepliesHappen_lacks : (State.reset.lacks .resultDue) ∧ (withDev fun d => { d with ports := [(6, { Port.reset with state := 2 })] }).lacks (.retrain 6) ∧
    State.reset.lacks .invalidationComplete ∧ State.reset.lacks (.copyFire 0) := by
  refine ⟨?_, ?_, ?_, ?_⟩ <;> (unfold State.lacks; decide)
theorem met_PowerEventsHappen_bounds : percentOff 100 95 = 5 ∧ percentOff 100 94 = 6 ∧ percentOff 90 100 = 10 ∧
    percentOff 89 100 = 11 ∧ percentOff 100 80 = 20 ∧ percentOff 100 79 = 21 ∧ percentOff 0 0 = 0 := by decide
/-- Yoke 0 unbalanced by 21 percent for the tenth window, in a state or before a severe one. -/
def severe (sev : Bool) : State := withDev fun d => { d with
  meters := [(0, (79, 100))], energyTab := Tab.set d.energyTab 129 (BitVec.ofNat 64 (9 * 8 + sev.toNat * 4)) }
theorem met_PowerEventsHappen_severe :
    bit (Tab.get (severe true).dev.energyTab 0 129) 2 = true ∧ bit (Tab.get (severe false).dev.energyTab 0 129) 2 = false ∧
    fld (Tab.get (severe false).dev.energyTab 0 129) 7 3 = 9 ∧ Tab.get (severe false).dev.meters (0, 0) 0 = (79, 100) := by decide
theorem met_PowerEventsHappen_caps :
    let s := withDev fun d => { d with
      junction := [(0, 100), (1, 106)], energyTab := Tab.set d.energyTab 200 3601, clusters := [(0, { Cluster.reset with hot := true })] }
    fld (Tab.get s.dev.energyTab 0 201) 15 0 < fld (Tab.get s.dev.energyTab 0 200) 15 0 ∧
    fld (Tab.get s.dev.energyTab 0 202) 15 0 ≤ fld (Tab.get s.dev.energyTab 0 200) 15 0 ∧
    Tab.get s.dev.junction 0 0 % 256 ≤ 100 ∧ (s.dev.cluster 0).hot = true ∧ 105 < Tab.get s.dev.junction 0 1 % 256 ∧
    (s.dev.cluster 1).hot = false := by decide
/-- The gang of core 0 on a cluster at 96 °C, placed long enough ago to be moved. -/
def warm (n : Nat) : State := { (ganged .placed id).modDev fun d => { d with junction := [(0, 96)], saveslots := n } with cycle := 4800000 }
theorem met_PowerEventsHappen_picks : ((warm 4).thermalRelax 0).thermalPick 0 = some (0, oneGang .placed) ∧
    bit ((warm 4).thermalRelax 0).funcMode 4 = false ∧ ((warm 4).thermalRelax 0).junctionOf 1 ≤ 95 ∧
    (oneGang .placed).coresLeft.length ≤ ((warm 4).thermalRelax 0).slotsFree ∧
    ((warm 0).thermalRelax 0).slotsFree < (oneGang .placed).coresLeft.length ∧
    bit ((warm 4).modDev fun d => { d with funcmode := 0x10 }).funcMode 4 = true ∧
    (((warm 4).thermalRelax 0).thermalDest 0 (oneGang .placed)).isSome = true := by decide
theorem met_PowerEventsHappen_periphery :
    let s := { withDev fun d => { d with
      valveTab := Tab.set d.valveTab 77 5, irrTab := Tab.set d.irrTab 38 (10 * 2 ^ 48),
      sensors := [(76, { since := some 0, raised := false, ceased := none })] } with cycle := 6000000 }
    19 % 10 = 9 ∧ (s.dev.sensor (4 * 19)).due 6000000 s.cycle = true ∧ s.sensorHolds (4 * 19) = true ∧
    Tab.find? s.dev.evacs 19 = none := by decide
/-- Channel 3 from device 1 into ring 1 of core 0, of group 5: slots of one byte. -/
def chanTo : State := ((withCore fun k => k.setRing 1 { halfRing with pside := true }).modDev fun d =>
  (d.setChan 3 0 (0x8005000000000001#64 + 4 * 2 ^ 32)).setChan 3 3 0x10000000000#64)
theorem met_MessagesArePerformed_channel :
    chanTo.dev.rootChannel 5 1 = some 3 ∧ fld (chanTo.dev.chanWord 3 4) 63 48 = message.seq.toNat ∧
    chanTo.accepts { message with ch := 3, sbytes := 1, format := 4 } = true := by decide
theorem met_MessagesArePerformed_more :
    let o : FiredOp := { id := 4, entry := 2, kind := 1, words := [0, 0, 0, 0, 0, 0x40000], armer := 0, started := true, sent := true, dead := false }
    let s := { here with die0 := { here.die0 with fired := [o] } }
    s.opOf { message with op := 8 } = some (0, o) ∧ fabSide (o.words.getD 5 0) message.data.length = some (.glob 0x40000) ∧
    Msg.plain { message with comp := true, data := [0] } = none ∧ State.reset.dev.bootst ≠ 4 ∧ message.src ≠ queued.dev.id ∧
    ({ message with route := 1, hops := 2 } : Msg).route.toNat = 1 ∧ 1 < ({ message with route := 1, hops := 2 } : Msg).hops.toNat := by decide
theorem met_MessagesArePerformed_bridge :
    let s := withDev fun d => { d with bridge := true, gidx := 1, members := [(0, 0), (2, 0)], bootst := 4, sizes := 0 }
    let m : Msg := { message with src := 0, op := 0, fromAddr := 0x1000010 }
    m.src = s.dev.id ∧ s.dev.bridge = true ∧ (barSlice m).1 = fld s.dev.gidx 5 0 ∧
    (barSlice { m with fromAddr := 0x2000010 }).1 ≠ fld s.dev.gidx 5 0 ∧ Tab.find? s.dev.members 2 = some 0 ∧
    Tab.find? s.dev.members 3 = none ∧ s.dev.names (BitVec.ofNat 16 0) = true ∧ s.dev.names 0x4001 = false ∧
    s.dev.hop { m with dst := 0 } = none ∧
    (s.memberAccess { m with kind := 13, fromAddr := 0x10 }).2.isSome = true := by decide
theorem met_PortAndTrellisEventsHappen_due :
    let s := { here with die0 := { here.die0 with due := [7], refire := [9], trellis := [(56, 0x8000000000000000#64)] } }
    7 ∈ (s.die 0).due ∧ 9 ∉ (s.die 0).due ∧ (s.die 0).met 7 = true ∧ 7 ∉ (s.die 0).refire ∧
    ({ Port.reset with refusals := 7 }).refusals = 7 := by decide
/-- Group 5 RUNNING, with a send on its channel 3, an armed entry, and a second context at a barx on that channel. -/
def aborting : State :=
  let s := (chanTo.setCtx 0 1 { hereCtx with run := .blocked (.barx 3) 0, gang := 1 }).modCore 0 fun k =>
    { k with cmds := [{ cmdOf 3 5 with aux := 3, qa := 1 }] }
  { s with
    die0 := { s.die0 with trellis := [(56, 0x8014000000000002#64)] },
    dev := { s.dev with
      groups := [(5, { w0 := 0x1000000000000000#64, fthr := 2, gbuf := 0, progress := 0, forwarded := false, startMet := false, wrote := [] })],
      abortsDue := [5] } }
theorem met_PortAndTrellisEventsHappen_abort :
    (aborting.dev.group 5).state = 1 ∧ (aborting.dev.group 5).forwarded = false ∧ aborting.dev.abortsDue = [5] ∧
    bit (aborting.dev.chanWord 3 0) 63 = true ∧ aborting.dev.chanGroup 3 = 5 ∧ (7 ∈ (aborting.die 0).armed) ∧
    fld ((aborting.die 0).word 7 0) 55 50 = 5 ∧ fld ((aborting.die 0).word 7 6) 50 40 ≠ 0x7FF ∧
    Tab.rising aborting.cores = true ∧ (aborting.cores.all fun q => Tab.rising q.2.ctxs) = true ∧
    aborting.fctx.isThe 0 0 0 = true ∧ aborting.fctx.run ≠ .retired ∧
    ((aborting.allCtxs.filter fun r => r.2.2.isThe 0 0 0).map fun r => (r.1, r.2.1)) = [(0, 0)] := by decide
/-- 12 R393: the abort as the cycle ends. -/
theorem test_abort : ((aborting.abortsEnd).dev.group 5).state = 3 ∧ bit ((aborting.abortsEnd.die 0).word 7 0) 63 = false ∧
    ([0, 1].map fun p => ((aborting.abortsEnd.ctx? 0 p).map fun x => x.pends.map Pend.cause)) =
      [some [.channelAbort], some [.channelAbort]] := by decide +kernel
/-- 12 R374, R381: the eighth corrupt packet in succession, and the resend that succeeds. -/
theorem met_MessagesArePerformed_corrupt :
    let s (n : Nat) := withDev fun d => { d with ports := [(3, { Port.reset with state := 2, corrupt := n })] }
    Msg.port { message with via := some 3 } = some 3 ∧ Msg.port { message with route := 2 } = some 6 ∧
    (Tab.get (s 7).dev.ports Port.reset 3).state = 2 ∧ (Tab.get (s 7).dev.ports Port.reset 3).corrupt = 7 ∧
    (Tab.get ((s 7).refuseMsg { message with via := some 3 }).dev.ports Port.reset 3).state = 1 ∧
    (Tab.get ((s 3).resent { message with via := some 3 }).dev.ports Port.reset 3).replay = 1 ∧
    (Tab.get ((s 3).resent { message with via := some 3 }).dev.ports Port.reset 3).corrupt = 0 := by decide
theorem met_WindowAndBootEventsHappen_refused :
    let s := withDev fun d => { d with bootst := 15 }
    s.dev.bootst = 15 ∧ s.dev.refused = true ∧ (0x10000 : Nat) ≤ 0x80010 ∧ ((0x08 : Nat) < 0x10000) := by decide
/-- 64 queues resident, of which the first has a record that waits, and a 65th pending. -/
def crowded : State := { State.reset with
  cycle := 2 ^ 20,
  dev := { listed.dev with
    resident := 3 :: (List.range 63).map (· + 10), pendingQ := [100], classq := [(1, [record])], lastSwitch := some 0 } }
theorem met_LaunchQueueEventsHappen_driven :
    crowded.dev.pendingQ ≠ [] ∧ 64 ≤ crowded.dev.resident.length ∧ crowded.queueWaits 3 = true ∧ crowded.queueWaits 10 = false ∧
    crowded.queueDriven = some 10 ∧ crowded.queueDone 10 = false ∧ (10 ∈ crowded.dev.resident) ∧
    ({ crowded with cycle := 2 ^ 20 - 1 } : State).queueDriven = none ∧
    ((queued.hostqPut (queued.dev.qentry 3 0) (bytesLE 8 0x80002 ++ bytesLE 4 1 ++ bytesLE 4 0 ++ bytesLE 8 0)).isSome) = true := by
  decide
/-- A stage slot for stage 7 whose vintage 0 is OPEN, and the same with tag 1 bound already. -/
def slotted (bound : Bool) : State := dogged.modDev fun d => { d with
  vintTab := [(0, 0x8000000000000007#64), (9, 2)], tagMap := if bound then [(0, 0x80)] else [] }
theorem met_SheepdogEventsHappen_bind : (slotted false).dev.canBind ⟨1, 7⟩ = true ∧ (slotted true).dev.canBind ⟨1, 7⟩ = false ∧
    (slotted false).dev.canBind ⟨1, 8⟩ = false := by decide
/-- Operands at which the clauses of O9 about values apply: 2 = 1.414..., 4 = 2 × 2, an anchor above and below a lane's exponent,
and a line of ones. -/
theorem met_PermutedElementsAreRight_values :
    valF32 0x40000000 * valF32 0x40000000 = valF32 0x40800000 * 2 ^ 149 ∧ valF32 0x3F000000 * valF32 0x40000000 = 2 ^ 298 ∧
    valF32 0x3F000000 * valF32 0x3F000000 * valF32 0x40800000 = 2 ^ 447 ∧ valF32 0x40800000 = 2 ^ 151 ∧
    valF32 0x40000000 = ((151 : Nat) - 149) * 2 ^ 149 ∧ 2047 < 2048 / Width.insBytes .w2 ∧ 255 < 2048 / Width.insBytes .w3 ∧
    ((2 : Int) ^ 149 ∣ 2 ^ 149 * 3 ∧ (2 ^ 149 * 3 : Int).natAbs < 2 ^ (149 + 37)) ∧ (100 : Int) * 2 ^ (16 + 133) = valF32 0x42C80000 := by
  decide
/-- 05 R173: 1 + 2^-23 against an anchor of 175, one unit of which is 4, and of 150, one unit of which is 2^-23. -/
theorem test_anchored : ([175, 150].map fun e => let r := vAnc 1 0x3F800001 (BitVec.ofNat 16384 e)
    (elem 8 r.data 0, r.fl == flNX, r.trap)) = [(0, true, none), (0x800001, false, none)] := by decide +kernel
theorem met_WindowAndBootEventsHappen_stages :
    (∀ n ∈ [1, 2, 3], (withDev fun d => { d with bootst := n }).dev.bootst = n) ∧
    bit (withDev fun d => { d with attStatus := 1 }).dev.attStatus 0 = true ∧ hostOnly 0x10000 = true ∧ hostOnly 0x40000 = false ∧
    State.reset.dev.resident = [] ∧ State.reset.dev.pendingQ = [] ∧ queued.dev.resident ≠ [] ∧ (here.ctx? 0 0).isSome = true ∧
    (1023 : Nat) < 1024 ∧ 0x100000 + 0x400 * 287 + 0x208 < 0x200000 := by decide
/-- One slot of a pair fails REG_ALLOT, the other passes; and a pair of both that pass, of other operations. -/
theorem met_BundlesCommitTogether_one :
    let one := withCtx fun x => { x with sCount := 8 }
    let a := (one.openBundle none 0 none).atSlot ⟨0, none, .ok (.add 9 1 2 false)⟩
    let p := alu2 1 9 1 2 (wForm false (· + ·) (· + ·)) a
    let b := (a.stage (.add 9 1 2 false) p).atSlot ⟨3, none, .ok (.xor 3 1 2)⟩
    let q := alu2 1 3 1 2 (wForm false (· ^^^ ·) (· ^^^ ·)) b
    p.wait = none ∧ p.block = none ∧ p.fault = none ∧ q.wait = none ∧ q.block = none ∧ q.fault = none ∧
    Staged.early one.fctx ⟨0, (Instr.add 9 1 2 false).word, some (.add 9 1 2 false), none, p⟩ = some (.regAllot, 9) ∧
    Staged.early one.fctx ⟨3, (Instr.xor 3 1 2).word, some (.xor 3 1 2), none, q⟩ = none ∧
    Instr.gates (.add 9 1 2 false) = false ∧ Instr.handoff (.xor 3 1 2) = false := by decide
theorem met_BundlesCommitTogether_plans (d a b : SReg) (s : State) : exec (.xor d a b) s = runSlot (.xor d a b)
    (alu2 1 d a b (· ^^^ ·)) s := rfl
theorem met_RollbackReturnsToTheMark_array :
    let s := matrixed.modCore 0 fun k => { k with mat := { k.mat with pend := [⟨9, 0, 0, .row 7 5⟩] } }
    (s.core 0).mat.holder = some 0 ∧ ((s.takeMark 0 0).ctx? 0 0).isSome = true ∧ (s.takeMark 0 0).fctx.ownsRow 7 = true ∧
    (((s.takeMark 0 0).fctx.mark.bind fun m => m.mat).map fun h => (h.pend, Tab.get h.rows 0 7)) = some ([], 5) := by decide
theorem met_EarlyChecksTrap_array :
    let s := matrixed.modCore 0 fun k => { k with mat := { k.mat with pend := [⟨9, 0, 0, .push false 0 Line.zero 6⟩, ⟨9, 0, 1, .row 7 5⟩] } }
    let t := s.modCtx 0 0 fun x => { x with arch := { x.arch with check := 1 } }
    t.fcore.mat.holder = some t.fp ∧ bit t.fctx.arch.check 0 = true ∧ t.swapStall = some 0x106 ∧
    t.fcore.mat.lastRow 7 = some ⟨9, 0, 1, .row 7 5⟩ ∧ (⟨9, 0, 1, .row 7 5⟩ : MatFlight).notDue t.fctx = true ∧
    ((here.vCheck 0 .raw true).toOption.map VAcc.kind).isSome = true := by decide
theorem met_AccessFaultsTrap_view : viewPhys hereCtx.banks 0x3FFFFF = none ∧ viewPhys hereCtx.banks 0x7FFFF ≠ none ∧
    viewOffs hereCtx.banks 0x7FFFC 8 = none ∧ 0x7FFFC % 4 = 0 ∧ isWindow 0 = false := by decide
/-- 03 R82: in an open bundle a load past scratchpad, and a ring operation past its ring's state, take their places with their
faults. -/
theorem met_AccessFaultsTrap_open :
    let s := (withRegs [(2, 0x800000)]).openBundle none 0 none
    s.bundle.isSome = true ∧ 2 ^ 23 ≤ (s.sreg 2 + immS s.ext 11 0).toNat ∧
    (match exec (.ld 1 2 .w3 false 0) s with
      | .next t => (t.bundle.bind fun b => (b.staged.getLast?).bind fun d => d.plan.fault) == some (.spRange, 0x800000)
      | _ => false) = true := by decide
theorem met_ControlAndRegisterFaultsTrap_open :
    let s := here.openBundle none 0 none
    s.bundle.isSome = true ∧ (s.marked.fcore.ring 5).valid = false ∧
    (match exec (.rels 5) s with
      | .next t => (t.bundle.bind fun b => (b.staged.getLast?).bind fun d => d.plan.fault) == some (.ringState, 5)
      | _ => false) = true := by decide
theorem met_WaitsBlock_ends :
    let e := withCtx fun x => x.withPend .copyShape 0
    (markedOf e).engineFault = true ∧ e.marked.ownCmds = [] ∧ hereCtx.fillBad = [] := by decide
theorem met_ResultsAreWrittenWhenDue_late :
    let f : Flight := hereCtx.flight 0 0 (.load 5 3 none)
    let g : Flight := hereCtx.flight 1 0 (.scalar 5 2)
    let s := withCtx fun x => { x with flights := [f, g] }
    s.fctx.isDue f = true ∧ s.fctx.isDue g = true ∧ (s.applyDue 0 0).sreg 5 = 2 ∧
    (s.applyDue 0 0).fctx.flights = [{ f with val := .load 0 3 none }] := by decide
theorem met_ResultsAreWrittenWhenDue_order :
    let f : Flight := hereCtx.flight 0 0 (.vec 5 1 1 0 0)
    let g : Flight := hereCtx.flight 1 0 (.mask 2 3)
    let s := (withCtx fun x => { x with flights := [f, g] }).modCore 0 fun k => { k with mat := MatUnit.reset }
    s.fctx.flights = [f, g] ∧ s.fctx.isDue f = true ∧ s.fctx.isDue g = true ∧ f.val.late = false ∧ g.val.late = false ∧
    (s.core 0).mat.holder ≠ some 0 ∧ here.bundle = none ∧ bit hereCtx.arch.check 0 = false :=
  ⟨rfl, by decide, by decide, rfl, rfl, by decide, rfl, by decide⟩
theorem met_TrapReturnRestoresTheContext_entry : ((here.applyDue 0 0).ctx? 0 0).isSome = true := by decide
theorem met_FreezesAndErrorsAreHandled_pages :
    let s := frozen (.read 0x30000 true)
    (s.core 0).freeze = some ⟨0, 0, 4096, .read 0x30000 true⟩ ∧ hereCtx.hasPend .freezeTimeout = false ∧
    (withDev fun d => { d with funcmode := 2 }).pgmig = true := by decide
/-- 04 R127: a bundle at the lowest address, so that a branch or jump back leaves the address space. -/
theorem met_ControlAndRegisterFaultsTrap_beyond :
    let s := withCtx fun x => { x with arch := { x.arch with pc := ⟨0, false⟩ } }
    condHolds .eq (s.sreg 0) (s.sreg 0) = true ∧ (s.fctx.arch.pc.addr.toNat * 16 : Int) + 16 * (0x400 : BitVec 11).toInt < 0 ∧
    (2 : Int) ^ 56 ≤ ((2 ^ 52 - 1 : Nat) * 16 : Int) + 16 * (1 : BitVec 26).toInt ∧ s.bundle = none ∧
    (match exec (.bru .eq 0 0 0x400) s with
      | .next t => t.fctx.arch.ecause == Cause.globalRange.code.setWidth 64 && t.fctx.arch.einfo == 0xFFFFFFFFFFFFC000#64
      | _ => false) = true := by decide
/-- A page that the core's map unit knows to be the host's, addressed by s2; and the same where the host decides. -/
def awayPage (host : Bool) : State :=
  (((shared 1).writeScalar 0 0 2 0x10008).modCore 0 fun k => { k with utlb := ((shared 1).dev.walk 0x10008).toList }).modDev
    fun d => { d with funcmode := if host then 2 else 0 }
theorem met_WaitsBlock_freezes :
    (withRegs [(2, 0x30000)]).dataXlate .read 0x30000 8 = .miss ∧ (withRegs [(2, 0x30000)]).fcore.freeze = none ∧
    (∀ h, (awayPage h).dataXlate .read 0x10008 8 = .migrate 0x10008 ∧ (awayPage h).bundle = none ∧
      ((awayPage h).requestPage 0x10000).hostDecides 0x10000 = h ∧ (awayPage h).fcore.freeze = none) ∧
    (match exec (.ldg 1 2 .w3 false 0) (awayPage false) with
      | .next t => t.fcore.freeze == some ⟨0, 0, 4096, .migrate 0x10008⟩
      | _ => false) = true := by decide
/-- A jump table whose read an earlier pending lda orders. -/
theorem met_WaitsBlock_table :
    let s := tabled.modCtx 0 0 fun x => { x with acc := [{ loadAcc with kind := .lda, got := none }] }
    (s.sreg 0).toNat < (s.sreg 3).toNat ∧ (s.sreg 2 + 8 * s.sreg 0).toNat = 0x10008 ∧
    s.dataXlate .read 0x10008 8 = .ok 0x10008 ∧ s.fctx.tableWaits 0x10008 0x10008 false = true ∧ s.fcore.freeze = none := by
  decide
/-- 01 R49: a slot that waits for a translation, above one with a result. -/
theorem met_WaitsBlock_pair :
    let s := withRegs [(2, 0x30000)]
    let at1 := (s.openBundle none 0 none).atSlot ⟨0, none, .ok (.add 9 1 2 false)⟩
    let p := alu2 1 9 1 2 (wForm false (· + ·) (· + ·)) at1
    let at2 := (at1.stage (.add 9 1 2 false) p).atSlot ⟨1, none, .ok (.ldg 1 2 .w3 false 0)⟩
    (match exec (.ldg 1 2 .w3 false 0) at2 with
      | .next t => (t.bundle.bind fun b => (b.staged.getLast?).bind fun d => d.plan.wait) == some (.xlate 0x30000)
      | _ => false) = true ∧ p.wait = none ∧ p.block = none ∧
    (match runSlots [⟨0, none, .ok (.add 9 1 2 false)⟩, ⟨1, none, .ok (.ldg 1 2 .w3 false 0)⟩] (s.openBundle none 0 none) with
      | .next t => t.fcore.freeze == some ⟨0, 0, 4096, .xlate 0x30000⟩ && t.fctx.flights == []
      | _ => false) = true := by decide
/-- Two gated stores of global memory and one of scratchpad. -/
def gated : State := withCtx fun x => { x with
  gate := [.gl 0x40000 0x40000 [1, 2] false 0, .sp [⟨8, 5, 0xFF, false⟩] false, .gl 0x40001 0x40001 [7] true 0] }
theorem met_MemoryReadsWhatWasWritten_publish :
    (gated.ctx? 0 0).isSome = true ∧ Memory.wf (gated.core 0).sp = true ∧ (gated.fctx.gate.all fun e => !e.isWin) = true ∧
    gated.dev.walk 0x40000 = none ∧ gated.fctx.acc = [] ∧ gated.heldBy gated.fctx = [] ∧ Memory.wf gated.dev.mem = true ∧
    Tab.find? (gated.core 0).tiles (tileOf 8) = none ∧ gateGlobal gated.fctx.gate 0x40000 = some 1 ∧
    gateGlobal gated.fctx.gate 0x40001 = some 7 ∧ ((gated.publishGate 0 0).performAll 0 0).devByte 0x40001 = 7 ∧
    (gated.publishGate 0 0).padByte 0 8 = 5 := by decide
theorem met_MemoryReadsWhatWasWritten_perform :
    let load : Access := { loadAcc with got := none, fwd := List.replicate 8 none }
    let store : Access := { loadAcc with kind := .stg, got := none, bytes := [9] }
    let s := withCtx fun x => { x with acc := [load] }
    let t := withCtx fun x => { x with acc := [store] }
    s.fctx.acc.find? (fun b => b.id == load.id) = some load ∧ s.mayDo s.fctx load = true ∧ load.fwd.length = load.len ∧
    t.fctx.acc.find? (fun b => b.id == store.id) = some store ∧ t.mayDo t.fctx store = true ∧
    (t.performAcc t.fctx 5).1.devByte 0x10000 = 9 := by decide
/-- 02 R51, R52, R64, R71: 1.5 and 0.5 as f32, and what is rounded, overflows or has no value, element 511 of its registers. -/
def roundCtx (m : RMode) : RCtx := ⟨m, .ieee, false, 0x123456789ABCDEF#64⟩
def lane511 (v : Nat) : VData := BitVec.ofNat 16384 (v * 2 ^ 16352)
theorem met_VectorArithmeticCompletes_values :
    (∀ x ∈ [0x3FC00000, 0x3F000000, 0x40000000, 0x3F800000, 0x3F400000], finiteF32 (wideF32 .f32 x)) ∧
    valF32 0x3FC00000 + valF32 0x3F000000 = valF32 0x40000000 ∧ valF32 0x3FC00000 - valF32 0x3F000000 = valF32 0x3F800000 ∧
    valF32 0x3FC00000 * valF32 0x3F000000 = valF32 0x3F400000 * 2 ^ 149 ∧ valF32 0x3F400000 ≠ 0 ∧
    wideF32 .bf16 0x3FC0 = 0x3FC00000 ∧ 0x7F800000 < 0xFFC00001 % 2 ^ 31 := by
  refine ⟨by unfold finiteF32 wideF32; decide, ?_⟩; decide
theorem test_float_rounding : [(VFn.add, RMode.rna, 0x3F800000, 0x33800000, 0x3F800001), (.sub, .rdn, 0x3F800000, 0x3F800000, 0x80000000),
    (.mul, .rup, 0x7F7FFFFF, 0xC0000000, 0xFF7FFFFF), (.mul, .rne, 0x00800000, 0x3F000000, 0x00400000)].all (fun r =>
      elem 4 (vOp r.1 .f32 (roundCtx r.2.1) (BitVec.ofNat 2048 (2 ^ 2044)) (lane511 r.2.2.1) (lane511 r.2.2.2.1) 0).data 511 ==
        r.2.2.2.2) = true := by decide +kernel
theorem met_FusedCompareAndConvertComplete_values :
    valF32 0x3FC00000 * valF32 0x3F000000 + valF32 0x3E800000 * 2 ^ 149 = valF32 0x3F800000 * 2 ^ 149 ∧
    (-3 : Int) * 2 ^ 149 = valF32 0xC0400000 ∧ 0x3FC00000 = 0x3FC0 * 2 ^ 16 ∧ valF32 0x40400000 = 3 * 2 ^ 149 := by decide
theorem met_ReductionsScansAndPermutationsComplete_values :
    (List.range 512).filter (fun i => (0x10 : VMask).getLsbD (4 * i)) = [1] ∧
    (List.range 512).filter (fun i => (0x110 : VMask).getLsbD (4 * i)) = [1, 2] ∧
    (List.range 512).filter (fun i => (0 : VMask).getLsbD (4 * i)) = [] := by decide
/-- 10 R321: a hung core with a context that runs, one that is starting and one that has retired. -/
theorem met_FreezesAndErrorsAreHandled_contexts :
    let s := ((frozen (.xlate 0)).setCtx 0 1 { hereCtx with run := .starting 9 }).setCtx 0 2 { hereCtx with run := .retired }
    ((s.core 0).ctxs.filter fun q => q.2.run != .retired).map Prod.fst = [0, 1] ∧ (s.ctx? 0 0).isSome = true ∧
    (s.core 0).freeze = some ⟨0, 0, 4096, .xlate 0⟩ ∧ 64 * fld (s.core 0).watchdog 31 0 < s.cycle - 0 ∧
    (match exec (.coreHung 0) s with
      | .next t => [0, 1].all fun q => ((t.ctx? 0 q).map fun y => y.arch.ecause) == some (Cause.coreHung.code.setWidth 64)
      | _ => false) = true := by decide
theorem met_FreezesAndErrorsAreHandled_decides :
    let s := (frozen (.migrate 0x10000)).modDev fun d => { d with funcmode := 2 }
    s.hostDecides (pageOf 0x10000) = true ∧ (frozen (.migrate 0x10000)).hostDecides (pageOf 0x10000) = false := by decide
theorem met_AtomicsComplete_effect :
    let s1 := global.marked
    let x := s1.fctx
    let P := s1.performAll s1.fc s1.fp
    (∀ a ∈ x.acc, a.id < x.nextId ∧ a.ord < x.nextId) ∧ P.fctx.acc = [] ∧ P.heldBy P.fctx = [] := by decide
/-- Channels 3 and 4 of group 5, of which 3 has an arrival of sequence number 9 outstanding. -/
theorem met_MessagesArePerformed_mismatch :
    let s := (chanTo.modDev fun d => d.setChan 4 0 (0x8005000000000001#64 + 4 * 2 ^ 32)).modDev fun d => { d with barOut := [(3, 9)], bootst := 4 }
    s.dev.chanGroup 3 = 5 ∧ s.dev.chanGroup 4 = 5 ∧ (3, 9) ∈ s.dev.barOut ∧
    { message with kind := 6, ch := 4, seq := 9, op := 2 }.op = 2 ∧ { message with kind := 6, ch := 5, seq := 9, op := 3 }.op = 3 ∧
    (match exec (.mismatch { message with kind := 6, ch := 5, seq := 9, op := 3 }) s with
      | .next t => bit (t.dev.chanWord 3 0) 62 && t.dev.barOut == []
      | _ => false) = true := by decide
theorem met_MessagesArePerformed_shut :
    let s := withDev fun d => { d with bridge := true, gidx := 1, members := [(0, 0)], bootst := 15 }
    let m : Msg := { message with src := 0, op := 0, fromAddr := 0x1050000 }
    m.src = s.dev.id ∧ s.dev.bridge = true ∧ s.dev.bootst = 15 ∧ (barSlice m).1 = fld s.dev.gidx 5 0 ∧
    0x10000 ≤ (barSlice m).2 ∧ (barSlice { m with fromAddr := 0x1000010 }).2 < 0x10000 := by decide
theorem met_CellarEventsHappen_prefetch :
    let e : CEntry := { stashed := true, tier := 2, units := [], size := 4096, bytes := 4096 }
    let s := withDev fun d => { d with cellar := [(0x100, e)], sizes := 1 }
    Tab.find? s.dev.cellar (0x100 : BitVec 24).toNat = some e ∧ e.stashed = true ∧ e.tier ≠ 1 ∧ s.dev.prefs = [] := by decide
/-- 11 R359: what stood for a key before a later stash took its place. -/
theorem met_CellarEventsHappen_past :
    let e : CEntry := { stashed := true, tier := 2, units := [], size := 0, bytes := 0 }
    let s := (engine (cmdOf 2 3)).modDev fun d => { d with cellar := [(0, { e with tier := 1 })], keyPast := [⟨0, 0, 4, some e⟩] }
    s.dev.keyPast.find? (fun g => g.key == (cmdOf 2 3).key && decide ((cmdOf 2 3).order < g.hi)) = some ⟨0, 0, 4, some e⟩ ∧
    s.found (cmdOf 2 3) = some e ∧ (engine (cmdOf 2 3)).found (cmdOf 2 3) = none := by decide
theorem met_MapUnitEventsHappen_uses :
    let far : Access := { loadAcc with kind := .stg, va := 0x40000, pa := 0x40000, got := none, bytes := [1] }
    let held := withCtx fun x => { x with acc := [{ far with kind := .lda, va := 0x40000, win := false }, far] }
    (far.pending && !far.win && pageOf far.va == 0x40000) = true ∧ held.fctx.usesPage 0x40000 = true ∧
    here.fctx.usesPage 0x40000 = false ∧
    (withDev fun d => { d with migs := [⟨0x40000, true⟩] }).dev.migs.find? (fun g => g.page == 0x40000) =
      some ⟨0x40000, true⟩ := by decide
/-- A jump table in the register window, which no gated store of the context holds. -/
theorem met_ControlTransfersComplete_window :
    let s := (tabled.writeScalar 0 0 2 0x00FFFFFFFF080010).writeScalar 0 0 3 1
    isWindow 0x00FFFFFFFF080010 = true ∧ s.dataXlate .read 0x00FFFFFFFF080010 8 = .ok 0x00FFFFFFFF080010 ∧
    s.tableActs 0x00FFFFFFFF080010 0x00FFFFFFFF080010 ≠ [] ∧ tabled.tableActs 0x10008 0x10008 = [] := by decide

/-- A copy of one element from bank 0 of a context to bank 1, whose formats the two banks' words give. -/
def copying (f g : Word) : State :=
  (engine { cmdOf 0 0 with st := .fired, sa := 0x8000000000000000#64, sb := 0x8000000000040002#64 }).modCore 0 fun k =>
    { k with bankFmt := [(0, f), (1, g)] }
theorem met_CopyAndPressEventsHappen_elements :
    let m := { cmdOf 0 0 with st := .fired, sa := 0x8000000000000000#64, sb := 0x8000000000040002#64 }
    ((copying 0 0).core 0).cmd? 0 = some m ∧ (copying 0 0).nvmeBusy 0 m = false ∧ (copying 0 0).copyHeld 0 m.gang = false ∧
    ((copying 0 0).copyOf 0 m).map CopyPlan.elems = some [⟨.plain, 1, 1⟩] ∧
    ((copying 1 2).copyOf 0 m).map CopyPlan.elems = some [⟨.convert .f32 .bf16, 4, 2⟩] ∧
    ((copying 1 7).copyOf 0 m).map (fun q => q.elems.map fun e => e.kind == .bad) = some [true] ∧
    (match exec (.copyComplete 0 0 none) (copying 1 7) with
      | .next t => t.fctx.pends.map (fun p => p.cause) == [.engineFault]
      | _ => false) = true := by decide
/-- 08 R254; 11 R341: a shape load of the first 256 bytes of scratchpad, whose tile is the engines'. -/
theorem met_CopyAndPressEventsHappen_shapes :
    let s := (withCtx fun x => { x with run := .blocked (.shapes false 0 256) 0 }).modCore 0 fun k => { k with owner := 1 }
    let P := s.performAll 0 0
    s.fctx.run = .blocked (.shapes false 0 256) 0 ∧ (P.ctx? 0 0).isSome = true ∧ P.copyHeld 0 s.fctx.gang = false ∧
    P.heldBy s.fctx = [] ∧ viewOffs s.fctx.banks 0 256 = some (List.range 256) ∧
    ((List.range 256).all fun o => (P.core 0).engineOwns (tileOf o)) = true := by decide

end Sys2Proof.Tests
end

section
/-! SUPPORT. The register window (12 R394): when a write of it is taken, which block's writes and reads an offset belongs to, and
which events its words stand for. -/

namespace Sys2Proof.Machine

/-! A write that is taken. -/

/-- A write at offset o is open to its writer (log entry 78), and the device's boot does not refuse it (13 R424; log entry 49). -/
def State.Takes (s : State) (o : Nat) (host : Bool) : Prop :=
  (host = true ∨ hostOnly o = false) ∧ (s.dev.bootst ≠ 15 ∨ o < 0x10000)

theorem State.Takes.notBarred {s : State} {o : Nat} {host : Bool} (h : s.Takes o host) : (!host && hostOnly o) = false := by
  obtain ⟨h | h, -⟩ := h <;> simp [h]

theorem State.Takes.notRefused {s : State} {o : Nat} {host : Bool} (h : s.Takes o host) :
    ¬(s.dev.refused = true ∧ 0x10000 ≤ o) := by
  obtain ⟨-, h | h⟩ := h
  · simp [Dev.refused, h]
  · omega

theorem exec_registerWrite (p : WinPlace) (w : Word) (s : State) :
    exec (.registerWrite p w) s = execRegisterWrite p w s := rfl

/-- What is not taken is ignored. -/
theorem exec_write_not_taken {s : State} {o : Nat} {host : Bool} (w : Word) (h : ¬s.Takes o host) :
    exec (.registerWrite ⟨o, host⟩ w) s = .next s := by
  by_cases hb : (!host && hostOnly o) = true
  · simp only [exec_registerWrite, execRegisterWrite, hb, if_true]
  · have hr : s.dev.refused = true ∧ 0x10000 ≤ o := by
      simp only [State.Takes, Dev.refused, beq_iff_eq] at *
      cases host <;> simp_all
    simp only [exec_registerWrite, execRegisterWrite, hb, hr, and_self, if_true, if_false, Bool.false_eq_true]

/-! The block an offset belongs to: its writes. -/

section
variable {s : State} {o : Nat} {host : Bool} (w : Word) (h : s.Takes o host)
include h

theorem exec_write_identity (hi : o < 0x10000) :
    exec (.registerWrite ⟨o, host⟩ w) s = .next (s.writeIdentity o w) := by
  simp only [exec_registerWrite, execRegisterWrite, h.notBarred, h.notRefused, hi, if_true, if_false, Bool.false_eq_true]

theorem exec_write_sched (lo : 0x10000 ≤ o) (hi : o < 0x20000) :
    exec (.registerWrite ⟨o, host⟩ w) s = .next (s.writeSched (o - 0x10000) w) := by
  simp (disch := omega) only [exec_registerWrite, execRegisterWrite, h.notBarred, h.notRefused, if_neg, if_pos, if_false,
    Bool.false_eq_true]

theorem exec_write_mapUnit (lo : 0x40000 ≤ o) (hi : o < 0x50000) :
    exec (.registerWrite ⟨o, host⟩ w) s = .next (s.writeMapUnit (o - 0x40000) w) := by
  simp (disch := omega) only [exec_registerWrite, execRegisterWrite, h.notBarred, h.notRefused, if_neg, if_pos, if_false,
    Bool.false_eq_true]

theorem exec_write_events (lo : 0x50000 ≤ o) (hi : o < 0x60000) :
    exec (.registerWrite ⟨o, host⟩ w) s = .next (s.writeEvents (o - 0x50000) w) := by
  simp (disch := omega) only [exec_registerWrite, execRegisterWrite, h.notBarred, h.notRefused, if_neg, if_pos, if_false,
    Bool.false_eq_true]

theorem exec_write_port {p q : Nat} (ho : o = 0x60000 + 0x100 * p + q) (hp : p < 8) (hq : q < 0x100) :
    exec (.registerWrite ⟨o, host⟩ w) s = .next (s.writePort p q w) := by
  have hd : (o - 0x60000) / 0x100 = p := by omega
  have hm : o % 0x100 = q := by omega
  simp (disch := omega) only [exec_registerWrite, execRegisterWrite, h.notBarred, h.notRefused, if_neg, if_pos, if_false,
    Bool.false_eq_true, hd, hm]

theorem exec_write_group {g q : Nat} (ho : o = 0x90000 + 0x20 * g + q) (hg : g < 64) (hq : q < 0x20) :
    exec (.registerWrite ⟨o, host⟩ w) s = .next (s.writeGroup g q w) := by
  have hd : (o - 0x90000) / 0x20 = g := by omega
  have hm : o % 0x20 = q := by omega
  simp (disch := omega) only [exec_registerWrite, execRegisterWrite, h.notBarred, h.notRefused, if_neg, if_pos, if_false,
    Bool.false_eq_true, offTabdat, hd, hm]

theorem exec_write_control {c q : Nat} (ho : o = 0x100000 + 0x400 * c + q) (hc : c < 288) (hq : q < 0x400) :
    exec (.registerWrite ⟨o, host⟩ w) s = .next (s.writeControl c q w) := by
  have hd : (o - 0x100000) / 0x400 = c := by omega
  have hm : o % 0x400 = q := by omega
  simp (disch := omega) only [exec_registerWrite, execRegisterWrite, h.notBarred, h.notRefused, if_neg, if_pos, if_false,
    Bool.false_eq_true, offTabdat, hd, hm]

theorem exec_write_doorbell {q : Nat} (ho : o = 0x200000 + 64 * q) (hq : q < 1024) :
    exec (.registerWrite ⟨o, host⟩ w) s = .next (s.after (exec (.tailWrite q (w.setWidth 32)))) := by
  have hd : (o - 0x200000) / 64 = q := by omega
  simp (disch := omega) only [exec_registerWrite, execRegisterWrite, h.notBarred, h.notRefused, if_neg, if_pos, if_false,
    Bool.false_eq_true, offTabdat, hd]
  rfl

end

/-! The block an offset belongs to: its reads. -/

section
variable (s : State) {o : Nat}

theorem windowRead_identity (hi : o < 0x10000) : s.windowRead o = s.readIdentity o := if_pos hi

theorem windowRead_sched (lo : 0x10000 ≤ o) (hi : o < 0x20000) : s.windowRead o = s.readSched (o - 0x10000) := by
  simp (disch := omega) only [State.windowRead, if_neg, if_pos]

theorem windowRead_events (lo : 0x50000 ≤ o) (hi : o < 0x60000) : s.windowRead o = s.readEvents (o - 0x50000) := by
  simp (disch := omega) only [State.windowRead, if_neg, if_pos]

theorem windowRead_port {p q : Nat} (ho : o = 0x60000 + 0x100 * p + q) (hp : p < 8) (hq : q < 0x100) :
    s.windowRead o = (Tab.get s.dev.ports Port.reset p).readWord q := by
  have hd : (o - 0x60000) / 0x100 = p := by omega
  have hm : o % 0x100 = q := by omega
  simp (disch := omega) only [State.windowRead, if_neg, if_pos, hd, hm]

theorem windowRead_group {g q : Nat} (ho : o = 0x90000 + 0x20 * g + q) (hg : g < 64) (hq : q < 0x20) :
    s.windowRead o = (s.dev.group g).readWord q := by
  have hd : (o - 0x90000) / 0x20 = g := by omega
  have hm : o % 0x20 = q := by omega
  simp (disch := omega) only [State.windowRead, if_neg, if_pos, hd, hm, Dev.group]

theorem windowRead_control {c q : Nat} (ho : o = 0x100000 + 0x400 * c + q) (hc : c < 288) (hq : q < 0x400) :
    s.windowRead o = s.readControl c q := by
  have hd : (o - 0x100000) / 0x400 = c := by omega
  have hm : o % 0x400 = q := by omega
  simp (disch := omega) only [State.windowRead, if_neg, if_pos, hd, hm]

theorem windowRead_gap (lo : 0xA0000 ≤ o) (hi : o < 0x100000) : s.windowRead o = 0 := by
  simp (disch := omega) only [State.windowRead, if_neg]

end

/-! Words that keep what is written. -/

/-- A write of w at offset o, where it is taken, leaves r, in which the word at o reads v (01 R11). -/
def State.Becomes (s : State) (w : Word) (o : Nat) (v : Word) (r : State) : Prop :=
  (s.dev.bootst ≠ 15 ∨ o < 0x10000) → ∀ host, host = true ∨ hostOnly o = false →
    exec (.registerWrite ⟨o, host⟩ w) s = .next r ∧ r.windowRead o = v

theorem State.Becomes.of_taken {s r : State} {w v : Word} {o : Nat}
    (hw : ∀ host, s.Takes o host → exec (.registerWrite ⟨o, host⟩ w) s = .next r) (hr : r.windowRead o = v) :
    s.Becomes w o v r := fun ho host hh => ⟨hw host ⟨hh, ho⟩, hr⟩

section
variable {s r : State} {w v : Word} {o : Nat}

theorem becomes_identity (hi : o < 0x10000) (hw : s.writeIdentity o w = r) (hr : r.readIdentity o = v) : s.Becomes w o v r :=
  .of_taken (fun _ h => hw ▸ exec_write_identity w h hi) (hr ▸ windowRead_identity r hi)

theorem becomes_sched (lo : 0x10000 ≤ o) (hi : o < 0x20000) (hw : s.writeSched (o - 0x10000) w = r)
    (hr : r.readSched (o - 0x10000) = v) : s.Becomes w o v r :=
  .of_taken (fun _ h => hw ▸ exec_write_sched w h lo hi) (hr ▸ windowRead_sched r lo hi)

theorem becomes_events (lo : 0x50000 ≤ o) (hi : o < 0x60000) (hw : s.writeEvents (o - 0x50000) w = r)
    (hr : r.readEvents (o - 0x50000) = v) : s.Becomes w o v r :=
  .of_taken (fun _ h => hw ▸ exec_write_events w h lo hi) (hr ▸ windowRead_events r lo hi)

/-- A word of a port's block, stored by a change of the port (12 R377). -/
theorem becomes_port {p q : Nat} (f : Port → Port) (ho : o = 0x60000 + 0x100 * p + q) (hp : p < 8) (hq : q < 0x100)
    (hw : s.writePort p q w = s.modPort p f) (hr : ∀ t, (f t).readWord q = v) : s.Becomes w o v (s.modPort p f) :=
  .of_taken (fun _ h => hw ▸ exec_write_port w h ho hp hq)
    (by rw [windowRead_port _ ho hp hq]; simp [State.modPort, hr])

/-- A word of a collective group slot, stored by a change of the slot (12 R391). -/
theorem becomes_group {g q : Nat} (f : Group → Group) (ho : o = 0x90000 + 0x20 * g + q) (hg : g < 64) (hq : q < 0x20)
    (hw : s.writeGroup g q w = s.modGroup g f) (hr : ∀ t, (f t).readWord q = v) : s.Becomes w o v (s.modGroup g f) :=
  .of_taken (fun _ h => hw ▸ exec_write_group w h ho hg hq)
    (by rw [windowRead_group _ ho hg hq]; simp [State.modGroup, Dev.group, hr])

/-- A word of a core, stored by a change of the core (10 R332). -/
theorem becomes_core {c q : Nat} (f : Core → Core) (ho : o = 0x100000 + 0x400 * c + q) (hc : c < 288) (hq : q < 0x400)
    (hw : s.writeControl c q w = s.modCore c f) (hr : (s.modCore c f).readControl c q = v) : s.Becomes w o v (s.modCore c f) :=
  .of_taken (fun _ h => hw ▸ exec_write_control w h ho hc hq) (hr ▸ windowRead_control _ ho hc hq)

end

/-! The words of a context in its core's control block (10 R332). -/

theorem writeControl_context (s : State) (c : Nat) {p q : Nat} (hp : p < 4) (hq : q < 0x80) (w : Word) :
    s.writeControl c (0x80 * p + q) w = s.writeContext c p q w := by
  have hd : (0x80 * p + q) / 0x80 = p := by omega
  have hm : (0x80 * p + q) % 0x80 = q := by omega
  simp (disch := omega) only [State.writeControl, if_neg, if_pos, hd, hm]

theorem readControl_context {s : State} {c p q : Nat} {x : Ctx} (hx : s.ctx? c p = some x) (hp : p < 4) (hq : q < 0x80) :
    s.readControl c (0x80 * p + q) = x.readBlock q := by
  have hd : (0x80 * p + q) / 0x80 = p := by omega
  have hm : (0x80 * p + q) % 0x80 = q := by omega
  simp (disch := omega) only [State.readControl, if_neg, if_pos, hd, hm, hx]

theorem exec_write_context {s : State} {o c p q : Nat} {host : Bool} (w : Word) (h : s.Takes o host)
    (ho : o = 0x100000 + 0x400 * c + 0x80 * p + q) (hc : c < 288) (hp : p < 4) (hq : q < 0x80) :
    exec (.registerWrite ⟨o, host⟩ w) s = .next (s.writeContext c p q w) := by
  rw [exec_write_control w h (q := 0x80 * p + q) (by omega) hc (by omega), writeControl_context s c hp hq]

theorem becomes_context {s : State} {w v : Word} {o c p q : Nat} {x : Ctx} (f : Ctx → Ctx)
    (ho : o = 0x100000 + 0x400 * c + 0x80 * p + q) (hc : c < 288) (hp : p < 4) (hq : q < 0x80) (hx : s.ctx? c p = some x)
    (hw : s.writeContext c p q w = s.modCtx c p f) (hr : (f x).readBlock q = v) : s.Becomes w o v (s.modCtx c p f) := by
  have hfx : (s.modCtx c p f).ctx? c p = some (f x) := by rw [State.ctx?_modCtx, hx]; rfl
  exact .of_taken (fun _ h => hw ▸ exec_write_context w h ho hc hp hq)
    (by rw [windowRead_control _ (q := 0x80 * p + q) (by omega) hc (by omega), readControl_context hfx hp hq, hr])

/-! Words that stand for events. -/

/-- The host's write of w at offset o, where it is taken, is the event i, which leads to a next state. -/
def State.StandsFor (s : State) (w : Word) (o : Nat) (i : Instr) : Prop :=
  (s.dev.bootst ≠ 15 ∨ o < 0x10000) →
    exec (.registerWrite ⟨o, true⟩ w) s = exec i s ∧ ∃ t, exec i s = .next t

theorem State.after_next {s t : State} {f : State → Host.Outcome State Fault Refusal} (h : f s = .next t) : s.after f = t := by
  simp only [State.after, h]

theorem standsFor_of_taken {s t : State} {w : Word} {o : Nat} {i : Instr} (hi : exec i s = .next t)
    (hw : s.Takes o true → exec (.registerWrite ⟨o, true⟩ w) s = .next (s.after (exec i))) : s.StandsFor w o i :=
  fun ho => ⟨by rw [hw ⟨.inl rfl, ho⟩, State.after_next hi, hi], t, hi⟩

/-! The event queue's words (12 R396), with no event kept in the device. -/

theorem Dev.postWaiting_of_none_waiting (n : Nat) {d : Dev} (h : d.waiting = []) : Dev.postWaiting n d = d := by
  cases n <;> simp only [Dev.postWaiting, h]

theorem State.modDev_postWaiting {s : State} (n : Nat) (f : Dev → Dev) (h : (f s.dev).waiting = []) :
    (s.modDev fun d => Dev.postWaiting n (f d)) = s.modDev f := by
  simp only [State.modDev, Dev.postWaiting_of_none_waiting n h]

theorem writeEvents_eqlog {s : State} (w : Word) (h : s.dev.waiting = []) :
    s.writeEvents 0x08 w = s.modDev fun d => { d with eqlog := w &&& 0x1F#64 } :=
  State.modDev_postWaiting 64 (fun d => { d with eqlog := w &&& 0x1F#64 }) h

theorem exec_eqheadWrite {s : State} (w : Word) (h : s.dev.waiting = []) :
    exec (.eqheadWrite w) s = .next (s.modDev fun d => { d with eqhead := w.setWidth 32 }) :=
  congrArg Host.Outcome.next (State.modDev_postWaiting 64 (fun d => { d with eqhead := w.setWidth 32 }) h)

/-! The scheduling block's table while queues are resident or pending (09 R275). -/

theorem writeSched_qtbase_idle {s : State} (w : Word) (h : s.dev.resident = [] ∧ s.dev.pendingQ = []) :
    s.writeSched 0x00 w = s.modDev fun d => { d with qtbase := w &&& 0x00FFFFFFFFFFF000#64 } := by
  simp [State.writeSched, h]

theorem writeSched_qtcount_idle {s : State} (w : Word) (h : s.dev.resident = [] ∧ s.dev.pendingQ = []) :
    s.writeSched 0x08 w = s.modDev fun d => { d with qtcount := BitVec.ofNat 64 (min 1024 (fld w 10 0)) } := by
  simp [State.writeSched, h]

theorem writeSched_table_busy {s : State} (w : Word) {o : Nat} (ho : o = 0x00 ∨ o = 0x08)
    (h : ¬(s.dev.resident = [] ∧ s.dev.pendingQ = [])) : s.writeSched o w = s := by
  have hb : (s.dev.resident.isEmpty && s.dev.pendingQ.isEmpty) = false := by simpa using h
  obtain rfl | rfl := ho <;> simp [State.writeSched, hb]

theorem leads_schedTable_busy {s : State} (w : Word) {o : Nat} (ho : o = 0x10000 ∨ o = 0x10008) (host : Bool)
    (h : ¬(s.dev.resident = [] ∧ s.dev.pendingQ = [])) : Leads s (.registerWrite ⟨o, host⟩ w) fun t => t = s := by
  by_cases ht : s.Takes o host
  · exact ⟨_, exec_write_sched w ht (by omega) (by omega), writeSched_table_busy w (by omega) h⟩
  · exact ⟨s, exec_write_not_taken w ht, rfl⟩

/-! Offsets that store nothing: past the last word of the identity block that is written (12 R395), and between blocks. -/

theorem writeIdentity_past (s : State) (w : Word) {o : Nat} (h : 0x70 ≤ o) : s.writeIdentity o w = s := by
  simp (disch := omega) only [State.writeIdentity, if_neg]

theorem exec_write_identity_past (s : State) (w : Word) {o : Nat} (lo : 0x70 ≤ o) (hi : o < 0x10000) (host : Bool) :
    exec (.registerWrite ⟨o, host⟩ w) s = .next s := by
  by_cases ht : s.Takes o host
  · rw [exec_write_identity w ht hi, writeIdentity_past s w lo]
  · exact exec_write_not_taken w ht

/-- Between the group slots and the control blocks the window names nothing (12 R394). -/
theorem exec_write_gap (s : State) (w : Word) {o : Nat} (lo : 0xA0000 ≤ o) (hi : o < 0x100000) (host : Bool) :
    exec (.registerWrite ⟨o, host⟩ w) s = .next s := by
  by_cases ht : s.Takes o host
  · simp (disch := omega) only [exec_registerWrite, execRegisterWrite, ht.notBarred, ht.notRefused, if_neg, if_false,
      Bool.false_eq_true, offTabdat]
  · exact exec_write_not_taken w ht

/-! The attestation nonce (13 R423). -/

theorem becomes_nonce (s : State) (w : Word) {i : Nat} (h : i < 4) :
    s.Becomes w (0x40 + 8 * i) w (s.modDev fun d => { d with nonce := Tab.set d.nonce i w }) := by
  have hd : (0x40 + 8 * i - 0x40) / 8 = i := by omega
  refine becomes_identity (by omega) ?_ ?_
  · simp (disch := omega) only [State.writeIdentity, if_neg, if_pos, hd]
  · simp (disch := omega) only [State.readIdentity, if_neg, if_pos, hd, State.modDev_dev, Tab.get_set_self]

/-! The host table port's words (01 R40). -/

theorem becomes_hostTabsel (s : State) (w : Word) :
    s.Becomes w 0x80000 (w &&& 0xFF#64) (s.modDev fun d => { d with hostTabsel := w &&& 0xFF#64 }) :=
  .of_taken (fun _ h => by
    simp (disch := omega) only [exec_registerWrite, execRegisterWrite, h.notBarred, h.notRefused, if_neg, if_true, if_false,
      Bool.false_eq_true]) rfl

theorem becomes_hostTabidx (s : State) (w : Word) :
    s.Becomes w 0x80008 (w &&& 0xFFFFFFFF#64) (s.modDev fun d => { d with hostTabidx := w &&& 0xFFFFFFFF#64 }) :=
  .of_taken (fun _ h => by
    simp (disch := omega) only [exec_registerWrite, execRegisterWrite, h.notBarred, h.notRefused, if_neg, if_true, if_false,
      Bool.false_eq_true]) rfl

theorem exec_write_tabdat {s : State} {host : Bool} (w : Word) (h : s.Takes 0x80010 host) :
    exec (.registerWrite ⟨0x80010, host⟩ w) s = .next (s.after (exec (.hostTabdatAccess (some w)))) := by
  simp (disch := omega) only [exec_registerWrite, execRegisterWrite, h.notBarred, h.notRefused, if_neg, if_true, if_false,
    Bool.false_eq_true, offTabdat]
  rfl

/-! The boot's link training (13 R424). -/

/-- Every port of a list starts its training, and the stage stays. -/
theorem foldl_training (ps : List Nat) (s : State) :
    let t := ps.foldl (fun s p => s.modPort p fun q => { q with state := 1 }) s
    t.dev.bootst = s.dev.bootst ∧
      ∀ p, p ∈ ps ∨ (Tab.get s.dev.ports Port.reset p).state = 1 → (Tab.get t.dev.ports Port.reset p).state = 1 := by
  induction ps generalizing s with
  | nil => exact ⟨rfl, fun p h => h.resolve_left List.not_mem_nil⟩
  | cons a ps ih =>
    obtain ⟨hb, hp⟩ := ih (s.modPort a fun q => { q with state := 1 })
    refine ⟨hb, fun p h => hp p ?_⟩
    by_cases ha : p = a
    · subst ha
      exact .inr (by simp [State.modPort])
    · simpa [State.modPort, Tab.get_set_ne _ _ _ _ _ ha, ha] using h

/-! Words whose writes depend on the bits written. -/

theorem writeIdentity_attcmd (s : State) {w : Word} (h : bit w 0 = true) : s.writeIdentity 0x68 w = s.after (exec .attcmd) := by
  show s.writeIdentity 0x68 w = s.after execAttcmd
  simp [State.writeIdentity, h]

theorem writeEvents_clearOvf (s : State) {w : Word} (h : bit w 63 = true) :
    s.writeEvents 0x20 w = s.modDev fun d => { d with ovf := false } := by
  simp [State.writeEvents, h]

theorem writeMapUnit_refuse (s : State) {w : Word} (h : bit w 62 = true) :
    s.writeMapUnit 0x18 w = s.after (exec (.migrationRefuse w)) := by
  show s.writeMapUnit 0x18 w = s.after (execMigrationRefuse w)
  simp [State.writeMapUnit, h]

theorem writeMapUnit_toDevice (s : State) {w : Word} (hr : bit w 62 = false) (h : bit w 63 = false) :
    s.writeMapUnit 0x18 w = s.after (exec (.migrateToDevice w)) := by
  show s.writeMapUnit 0x18 w = s.after (execMigrateToDevice w)
  simp [State.writeMapUnit, hr, h]

theorem writeMapUnit_toHost (s : State) {w : Word} (hr : bit w 62 = false) (h : bit w 63 = true) :
    s.writeMapUnit 0x18 w = s.after (exec (.migrateToHost w)) := by
  show s.writeMapUnit 0x18 w = s.after (execMigrateToHost w)
  simp [State.writeMapUnit, hr, h]

theorem writePort_retrain (s : State) (p : Nat) {w : Word} (h : bit w 63 = true) :
    s.writePort p 0x00 w = s.after (exec (.retrain p)) := by
  show s.writePort p 0x00 w = s.after (execRetrain p)
  simp [State.writePort, h]

theorem writeGroup_start (s : State) (g : Nat) {w : Word} (h : fld w 1 0 = 1) :
    s.writeGroup g 0x18 w = s.after (exec (.groupStart g)) := by
  show s.writeGroup g 0x18 w = s.after (execGroupStart g)
  simp [State.writeGroup, h]

theorem writeGroup_abort (s : State) (g : Nat) {w : Word} (h : fld w 1 0 = 2) :
    s.writeGroup g 0x18 w = s.after (exec (.groupAbort g)) := by
  show s.writeGroup g 0x18 w = s.after (execGroupAbort g)
  simp [State.writeGroup, h]

section
variable {s : State} {c p : Nat} {x : Ctx} (w : Word) (hx : s.ctx? c p = some x)
include hx

theorem writeContext_ctl : s.writeContext c p 0x00 w = s.modCtx c p fun x => { x with ctl := w &&& 0x1F#64 } := by
  simp only [State.writeContext, hx, if_true]

theorem writeContext_bpaddr :
    s.writeContext c p 0x08 w = s.modCtx c p fun x => { x with bpaddr := w &&& 0x00FFFFFFFFFFFFF0#64 } := by
  simp [State.writeContext, hx]

theorem writeContext_tcmp : s.writeContext c p 0x10 w = s.modCtx c p fun x => { x with tcmp := w } := by
  simp [State.writeContext, hx]

theorem writeContext_hostevt : s.writeContext c p 0x18 w = s.after (exec (.hostevt c p w)) := by
  show s.writeContext c p 0x18 w = s.after (execHostevt c p w)
  simp [State.writeContext, hx]

theorem writeContext_resume (h : fld w 1 0 = 0) : s.writeContext c p 0x20 w = s.after (exec (.actionResume c p)) := by
  show s.writeContext c p 0x20 w = s.after (execActionResume c p)
  simp [State.writeContext, hx, h]

theorem writeContext_handler (h : fld w 1 0 = 1) : s.writeContext c p 0x20 w = s.after (exec (.actionHandler c p)) := by
  show s.writeContext c p 0x20 w = s.after (execActionHandler c p)
  simp [State.writeContext, hx, h]

theorem writeContext_abort (h : fld w 1 0 = 2) : s.writeContext c p 0x20 w = s.after (exec (.actionAbort c p)) := by
  show s.writeContext c p 0x20 w = s.after (execActionAbort c p)
  simp [State.writeContext, hx, h]

end

/-! The host's accesses and the table port (01 R40; 12 R394; 13 R422), answered unless the boot was refused (13 R424). -/

theorem exec_hostWindowAccess_wide {s : State} {o : Nat} (wr : Option Word) (ho : o % 8 = 0)
    (hop : s.dev.bootst ≠ 15 ∨ o < 0x10000) :
    exec (.hostWindowAccess ⟨o, wr, true⟩) s = .next (s.hostAccess ⟨o, wr, true⟩) := by
  have hr : ¬(s.dev.refused = true ∧ 0x10000 ≤ o) := State.Takes.notRefused (host := true) ⟨.inl rfl, hop⟩
  have he : exec (.hostWindowAccess ⟨o, wr, true⟩) s = execHostWindowAccess ⟨o, wr, true⟩ s := rfl
  simp only [he, execHostWindowAccess, hr, if_false, if_true, ho]

/-- A host's read of a whole word is answered by the word; one of TABDAT moves TABIDX (01 R40). -/
theorem hostAccess_read_wide (s : State) (o : Nat) :
    s.hostAccess ⟨o, none, true⟩ = (if o = 0x80010 then s.nextHostIdx else s).reply (s.windowRead o) := by
  by_cases ht : o = 0x80010
  · subst ht
    rfl
  · simp only [State.hostAccess, State.windowLoad, offTabdat, if_true, ht, if_false]

theorem Dev.refused_of_bootst {d : Dev} (h : d.bootst = 15) : d.refused = true := by simp [Dev.refused, h]

theorem Dev.not_refused_of_bootst {d : Dev} (h : d.bootst ≠ 15) : ¬d.refused = true := by simp [Dev.refused, h]

section
variable {s : State}

theorem exec_hostTabdatAccess_refused (wr : Option Word) (h : s.dev.bootst = 15) :
    exec (.hostTabdatAccess wr) s = .next s := congrArg Host.Outcome.next (if_pos (Dev.refused_of_bootst h))

theorem exec_tabdatLowRead_refused (h : s.dev.bootst = 15) : exec .tabdatLowRead s = .next s :=
  congrArg Host.Outcome.next (if_pos (Dev.refused_of_bootst h))

theorem exec_tabdatHighRead_refused (h : s.dev.bootst = 15) : exec .tabdatHighRead s = .next s :=
  congrArg Host.Outcome.next (if_pos (Dev.refused_of_bootst h))

theorem exec_hostTabdatAccess_read (h : s.dev.bootst ≠ 15) :
    exec (.hostTabdatAccess none) s = .next (s.reply s.hostTable).nextHostIdx :=
  congrArg Host.Outcome.next (if_neg (Dev.not_refused_of_bootst h))

theorem exec_hostTabdatAccess_write (w : Word) (h : s.dev.bootst ≠ 15) : exec (.hostTabdatAccess (some w)) s =
    .next (s.tableWrite (fld s.dev.hostTabsel 7 0) (fld s.dev.hostTabidx 31 0) w).nextHostIdx :=
  congrArg Host.Outcome.next (if_neg (Dev.not_refused_of_bootst h))

theorem exec_tabdatLowRead (h : s.dev.bootst ≠ 15) : exec .tabdatLowRead s =
    .next ((s.modDev fun d => { d with latch := BitVec.ofNat 64 (fld s.hostTable 63 32) }).reply
      (BitVec.ofNat 64 (fld s.hostTable 31 0))) :=
  congrArg Host.Outcome.next (if_neg (Dev.not_refused_of_bootst h))

theorem exec_tabdatHighRead (h : s.dev.bootst ≠ 15) : exec .tabdatHighRead s = .next (s.reply s.dev.latch).nextHostIdx :=
  congrArg Host.Outcome.next (if_neg (Dev.not_refused_of_bootst h))

end

/-! Identity, attestation and boot (12 R395; 13 R423 to R425). -/

theorem exec_devidWrite_first {s : State} (w : Word) (h : s.dev.devidSet = false) :
    exec (.devidWrite w) s = .next (s.modDev fun d => { d with devid := w &&& 0xFFFF#64, devidSet := true }) :=
  congrArg Host.Outcome.next (if_neg (by simp [h]))

theorem exec_devidWrite_later {s : State} (w : Word) (h : s.dev.devidSet = true) : exec (.devidWrite w) s = .next s :=
  congrArg Host.Outcome.next (if_pos h)

theorem exec_attcmd_begins {s : State} (h : bit s.dev.attStatus 0 = false) :
    exec .attcmd s = .next (s.modDev fun d => { d with attStatus := 1, attBody := s.report }) :=
  congrArg Host.Outcome.next (if_neg (by simp [h]))

theorem exec_attcmd_busy {s : State} (h : bit s.dev.attStatus 0 = true) : exec .attcmd s = .next s :=
  congrArg Host.Outcome.next (if_pos h)

theorem exec_attestationReportDone {s : State} (h : bit s.dev.attStatus 0 = true) (ok : Bool) :
    exec (.attestationReportDone ok) s = .next (s.modDev fun d =>
      if ok then
        { d with
          hostMem := Mem.writeBytes d.hostMem (fld d.attaddr 55 13 * 0x2000) d.attBody, attStatus := 2, attBody := [] }
      else { d with attStatus := 4, attBody := [] }) :=
  congrArg Host.Outcome.next (if_pos h)

theorem exec_attestationReportDone_none {s : State} (h : bit s.dev.attStatus 0 = false) (ok : Bool) :
    exec (.attestationReportDone ok) s = .next s :=
  congrArg Host.Outcome.next (if_neg (by simp [h]))

theorem exec_deviceReset (s : State) (g : BootStage) : exec (.deviceReset g) s = execDeviceReset g s := rfl

theorem exec_deviceReset_verify {s : State} (ok : Bool) (h : s.dev.bootst = 0) :
    exec (.deviceReset (.verify ok)) s = .next (s.modDev fun d => { d with bootst := if ok then 1 else 15 }) := by
  cases ok <;> simp only [exec_deviceReset, execDeviceReset, h] <;> rfl

theorem exec_deviceReset_tables {s : State} (h : s.dev.bootst = 1) :
    exec (.deviceReset .tables) s = .next (s.modDev fun d => { d with bootst := 2 }) := by
  simp only [exec_deviceReset, execDeviceReset, h]

theorem exec_deviceReset_training {s : State} (h : s.dev.bootst = 2) :
    exec (.deviceReset .training) s = .next ((List.range 8).foldl (fun s p => s.modPort p fun q => { q with state := 1 })
      (s.modDev fun d => { d with bootst := 3 })) := by
  simp only [exec_deviceReset, execDeviceReset, h]
  rfl

theorem exec_deviceReset_ready {s : State} (h : s.dev.bootst = 3) :
    exec (.deviceReset .ready) s = .next (s.modDev fun d => { d with bootst := 4 }).bootDone := by
  simp only [exec_deviceReset, execDeviceReset, h]

end Sys2Proof.Machine
end

section
/-! The register window's words and the events of table port, identity, attestation and boot. -/

namespace Sys2Proof.Machine

/-- Settles O37: a word's offset gives its block, the block's equation what a write leaves or which event it is, and the block's
reads what the word then reads; each event by its equation at the occasion it names. -/
theorem windowAndBootEventsHappen : Obligations.WindowAndBootEventsHappen := by
  unfold Obligations.WindowAndBootEventsHappen
  intro s w old idx open_ is becomes keeps idle sizes mwbase attaddr qtbase savebase root eqbase bp
  have mask_mask (m : Word) : w &&& m &&& m = w &&& m := by rw [BitVec.and_assoc, BitVec.and_self]
  refine ⟨?sizes, ?gidx, ?mwbase, ?nonce, ?attaddr, ?tableIdle, ?tableBusy, ?savebase, ?saveslots, ?ptroot, ?eqbase, ?eqlog,
    ?ovf, ?tabsel, ?tabidx, ?ports, ?groups, ?cores, ?identityPast, ?gap, ?barred, ?supervisor, ?devid, ?attcmd, ?inval, ?eqhead,
    ?tabdat, ?tail, ?retrain, ?refuse, ?toDevice, ?toHost, ?groupCommand, ?contextCommand, ?access, ?bootRefused, ?tabdatRead,
    ?tabdatWrite, ?tabdatLow, ?tabdatHigh, ?eqheadEvent, ?devidFirst, ?devidLater, ?attBegins, ?attEnds, ?reset, ?verify,
    ?tables, ?training, ?ready, ?attBusy, ?attNone⟩
  case sizes => exact becomes_identity (by decide) rfl rfl
  case gidx => exact becomes_identity (by decide) rfl (congrArg (setFld · 63 63 _) (mask_mask _))
  case mwbase => exact becomes_identity (by decide) rfl rfl
  case nonce => exact fun i hi => becomes_nonce s w hi
  case attaddr => exact becomes_identity (by decide) rfl rfl
  case tableIdle =>
    exact fun h => ⟨becomes_sched (by decide) (by decide) (writeSched_qtbase_idle w h) rfl,
      becomes_sched (by decide) (by decide) (writeSched_qtcount_idle w h) rfl⟩
  case tableBusy =>
    exact fun h host => ⟨leads_schedTable_busy w (.inl rfl) host h, leads_schedTable_busy w (.inr rfl) host h⟩
  case savebase => exact becomes_sched (by decide) (by decide) rfl rfl
  case saveslots => exact becomes_sched (by decide) (by decide) rfl rfl
  case ptroot => exact State.Becomes.of_taken (fun _ h => exec_write_mapUnit w h (by decide) (by decide)) rfl
  case eqbase => exact becomes_events (by decide) (by decide) rfl rfl
  case eqlog => exact fun h => becomes_events (by decide) (by decide) (writeEvents_eqlog w h) rfl
  case ovf => exact fun h => becomes_events (by decide) (by decide) (writeEvents_clearOvf s h) rfl
  case tabsel => exact becomes_hostTabsel s w
  case tabidx => exact becomes_hostTabidx s w
  case ports =>
    exact fun p hp => ⟨becomes_port _ rfl hp (by decide) rfl fun _ => rfl, becomes_port _ rfl hp (by decide) rfl fun _ => rfl,
      becomes_port _ rfl hp (by decide) rfl fun _ => rfl⟩
  case groups =>
    exact fun g hg => becomes_group _ (q := 0x10) (by omega) hg (by decide) rfl fun _ => rfl
  case cores =>
    refine fun c hc => ⟨?_, ?_, fun p hp x hx => ⟨?_, ?_, ?_⟩⟩
    · exact becomes_core _ rfl hc (by decide) rfl (by simp [State.readControl])
    · exact becomes_core _ rfl hc (by decide) rfl (by simp [State.readControl])
    · exact becomes_context _ (q := 0x00) rfl hc hp (by decide) hx (writeContext_ctl w hx)
        (congrArg (setFld · 63 63 _) (mask_mask _))
    · exact becomes_context _ rfl hc hp (by decide) hx (writeContext_bpaddr w hx) rfl
    · exact becomes_context _ rfl hc hp (by decide) hx (writeContext_tcmp w hx) rfl
  case identityPast => exact fun o lo hi host => exec_write_identity_past s w lo hi host
  case gap => exact fun o host lo hi => ⟨exec_write_gap s w lo hi host, windowRead_gap s lo hi⟩
  case barred => exact fun o ho => ⟨s, exec_write_not_taken w fun ⟨hw, _⟩ => by simp [ho] at hw, rfl⟩
  case supervisor =>
    intro o ho
    simp only [exec_registerWrite, execRegisterWrite, ho, Bool.and_false]
  case devid => exact standsFor_of_taken rfl fun h => exec_write_identity w h (by decide)
  case attcmd =>
    exact fun hb => standsFor_of_taken rfl fun h => writeIdentity_attcmd s hb ▸ exec_write_identity w h (by decide)
  case inval => exact standsFor_of_taken rfl fun h => exec_write_mapUnit w h (by decide) (by decide)
  case eqhead => exact standsFor_of_taken rfl fun h => exec_write_events w h (by decide) (by decide)
  case tabdat => exact standsFor_of_taken rfl (exec_write_tabdat w)
  case tail => exact fun q hq => standsFor_of_taken rfl fun h => exec_write_doorbell w h rfl hq
  case retrain =>
    exact fun p hp hb => standsFor_of_taken rfl fun h => writePort_retrain s p hb ▸ exec_write_port w h rfl hp (by decide)
  case refuse =>
    exact fun hb => standsFor_of_taken rfl fun h => writeMapUnit_refuse s hb ▸ exec_write_mapUnit w h (by decide) (by decide)
  case toDevice =>
    exact fun hr hb => standsFor_of_taken rfl fun h =>
      writeMapUnit_toDevice s hr hb ▸ exec_write_mapUnit w h (by decide) (by decide)
  case toHost =>
    exact fun hr hb => standsFor_of_taken rfl fun h =>
      writeMapUnit_toHost s hr hb ▸ exec_write_mapUnit w h (by decide) (by decide)
  case groupCommand =>
    refine fun g hg => ⟨fun hw => standsFor_of_taken rfl fun h => ?_, fun hw => standsFor_of_taken rfl fun h => ?_⟩
    · rw [← writeGroup_start s g hw, exec_write_group w h (g := g) (q := 0x18) (by omega) hg (by decide)]
    · rw [← writeGroup_abort s g hw, exec_write_group w h (g := g) (q := 0x18) (by omega) hg (by decide)]
  case contextCommand =>
    intro c p hc hp hsome
    obtain ⟨x, hx⟩ := Option.isSome_iff_exists.mp hsome
    refine ⟨standsFor_of_taken rfl fun h => ?_, fun hw => standsFor_of_taken rfl fun h => ?_,
      fun hw => standsFor_of_taken rfl fun h => ?_, fun hw => standsFor_of_taken rfl fun h => ?_⟩
    · rw [← writeContext_hostevt w hx, exec_write_context w h rfl hc hp (by decide)]
    · rw [← writeContext_resume w hx hw, exec_write_context w h rfl hc hp (by decide)]
    · rw [← writeContext_handler w hx hw, exec_write_context w h rfl hc hp (by decide)]
    · rw [← writeContext_abort w hx hw, exec_write_context w h rfl hc hp (by decide)]
  case access =>
    intro o ho hop
    refine ⟨exec_hostWindowAccess_wide (some w) ho hop, _, exec_hostWindowAccess_wide none ho hop, ?_⟩
    rw [hostAccess_read_wide]
    by_cases ht : o = 0x80010
    · rw [if_pos ht, if_pos ht]
      exact ⟨rfl, rfl, rfl⟩
    · rw [if_neg ht, if_neg ht]
      exact ⟨rfl, rfl, rfl⟩
  case bootRefused =>
    exact fun h => ⟨fun o host ho => ⟨s, exec_write_not_taken w fun ht => ht.notRefused ⟨Dev.refused_of_bootst h, ho⟩, rfl⟩,
      ⟨s, exec_hostTabdatAccess_refused none h, rfl⟩, ⟨s, exec_hostTabdatAccess_refused (some w) h, rfl⟩,
      ⟨s, exec_tabdatLowRead_refused h, rfl⟩, s, exec_tabdatHighRead_refused h, rfl⟩
  case tabdatRead => exact fun h => ⟨_, exec_hostTabdatAccess_read h, rfl, rfl⟩
  case tabdatWrite => exact fun h => ⟨_, exec_hostTabdatAccess_write w h, rfl⟩
  case tabdatLow => exact fun h => ⟨_, exec_tabdatLowRead h, rfl, rfl, rfl⟩
  case tabdatHigh => exact fun h => ⟨_, exec_tabdatHighRead h, rfl, rfl⟩
  case eqheadEvent => exact fun h => ⟨_, exec_eqheadWrite w h, rfl⟩
  case devidFirst => exact fun h => ⟨_, exec_devidWrite_first w h, rfl, rfl⟩
  case devidLater => exact fun h => ⟨_, exec_devidWrite_later w h, rfl⟩
  case attBegins => exact fun h => ⟨_, exec_attcmd_begins h, rfl, rfl⟩
  case attEnds =>
    exact fun h => ⟨⟨_, exec_attestationReportDone h true, rfl, rfl⟩, _, exec_attestationReportDone h false, rfl, rfl⟩
  case reset => exact ⟨_, rfl, rfl, rfl, rfl, rfl⟩
  case verify =>
    exact fun h => ⟨⟨_, exec_deviceReset_verify true h, rfl⟩, _, exec_deviceReset_verify false h, rfl⟩
  case tables => exact fun h => ⟨_, exec_deviceReset_tables h, rfl⟩
  case training =>
    intro h
    obtain ⟨hstage, hports⟩ := foldl_training (List.range 8) (s.modDev fun d => { d with bootst := 3 })
    exact ⟨_, exec_deviceReset_training h, hstage, fun p hp => hports p (.inl (List.mem_range.mpr hp))⟩
  case ready => exact fun h => ⟨_, exec_deviceReset_ready h, rfl⟩
  case attBusy => exact fun h => ⟨s, exec_attcmd_busy h, rfl⟩
  case attNone => exact fun h ok => ⟨s, exec_attestationReportDone_none h ok, rfl⟩

end Sys2Proof.Machine
end
